-- ==== Sys2Proof/Word.lean ====
section
/-! DEFINITION. The word types of the SV-60 and the one shape of sparse data used by the state:
a list of keys and values with rising keys (spec/00 R5, R6: bit 0 is the least significant). -/

namespace Sys2Proof

/-- A byte of memory. -/
abbrev Byte := BitVec 8
/-- A 32-bit word: a scalar instruction word, or one lane of a lane register (R25). -/
abbrev W32 := BitVec 32
/-- A 64-bit word: a scalar register (R24), a mask of lanes, an address in a register. -/
abbrev Word := BitVec 64
/-- A 96-bit lane or matrix word (R48). -/
abbrev W96 := BitVec 96

/-- Sparse data by key: rising keys, each at most once. What an unlisted key reads as is said by
the accessor of each use. -/
abbrev FMap (α : Type) := List (Nat × α)

/-- Memory of bytes by location, in the host's own cell type. -/
abbrev Memory := List Host.Cell

/-! ### Small vocabularies used by instructions and state -/

/-- The three instruction streams of a strand and its block (R375). -/
inductive Stream where
  | scalar | lane | matrix
  deriving DecidableEq, Repr

/-- The three kinds of sensor (R194). -/
inductive SensorKind where
  | strike | droop | clock
  deriving DecidableEq, Repr

/-- Who asks for a flashback pre-emption outside a decision (R368). -/
inductive PreemptCause where
  | filler | ownership | debugger
  deriving DecidableEq, Repr

/-- What Zhevwell commits to signed flash (R197, R431). -/
inductive FlashItem where
  | qcfg (die : Nat) | pwrctl
  deriving DecidableEq, Repr

/-- An access of the host through port 0 or 1 (R384), with the TEE bit of R402; port 2 stands for Zhevwell, which may retire frames and
set clock steps (R416, R429; DESIGN CHOICE, log 141). -/
structure HostAccess where
  port : Nat
  tee  : Bool
  deriving DecidableEq, Repr

/-- The fields of a lane or matrix word (R48), bit for bit. -/
structure LaneFields where
  opc   : BitVec 8
  type  : BitVec 4
  vd    : BitVec 10
  va    : BitVec 10
  vb    : BitVec 10
  vc    : BitVec 10
  pred  : BitVec 5
  pneg  : BitVec 1
  modc  : BitVec 2
  modb  : BitVec 2
  moda  : BitVec 2
  clamp : BitVec 2
  scale : BitVec 3
  slot  : BitVec 3
  func  : BitVec 8
  imm   : BitVec 16
  deriving DecidableEq, Repr

/-- What the sensors of the package report to a telemetry record (R434): quantities of the physical
world, supplied from outside. -/
structure Measures where
  pavg    : BitVec 16
  pfill   : BitVec 16
  tmax    : BitVec 16
  tcool   : BitVec 16
  energy  : Word
  deriving DecidableEq, Repr

/-- Registers and register fields with no behaviour of their own that the host writes (R8, R385,
R438): the plain words of the register blocks. The spec gives no place in BAR0 for the collective group table (R406), the CXL roles or a
partition's policy key (R435), which a word names (DESIGN CHOICE, log 153). -/
inductive RegPlace where
  | dpbase (part : Nat) | dplen (part : Nat) | dpswap (part : Nat) | dpquant (part : Nat)
  | trec (part queue : Nat) | tctr (part queue : Nat) | ttgt (part queue : Nat)
  | trapTable (part entry word : Nat)
  | balance (part acct : Nat) | refill (part acct : Nat) | cap (part acct : Nat) | rateValid (part acct : Nat)
  | ptroot (part : Nat) | msrc (part : Nat) | mdst (part : Nat) | gsel (part : Nat)
  | dgrid (part : Nat) | debugMode (part : Nat) | dstrand (part : Nat)
  | pserve (port : Nat) | recordWord (part word : Nat) | rframe | fwaddr | fwlen
  | groupOwner (group : Nat) | groupRanks (group : Nat) | groupRank (group : Nat) | groupStraits (group : Nat) | cxlRole (port : Nat)
  | policyKey (part : Nat)
  deriving DecidableEq, Repr

end Sys2Proof
end

