-- ==== Sys2Proof/Machine/Map.lean ====
section
/-! DEFINITION. Sparse data by key, memory as a canonical list of bytes, and the plain bit helpers the
decoder and the meanings share. -/

namespace Sys2Proof

/-! ### Sparse data by key -/

/-- The value listed under a key. -/
def mget {α : Type} : List (Nat × α) → Nat → Option α
  | [], _ => none
  | (a, x) :: t, k => if a = k then some x else mget t k

/-- The value under a key, or what an unlisted key reads as. -/
def mgetD {α : Type} (m : List (Nat × α)) (k : Nat) (d : α) : α := (mget m k).getD d

/-- Writes a key, keeping keys rising. -/
def mset {α : Type} : List (Nat × α) → Nat → α → List (Nat × α)
  | [], k, v => [(k, v)]
  | (a, x) :: t, k, v =>
    if k < a then (k, v) :: (a, x) :: t else if a = k then (k, v) :: t else (a, x) :: mset t k v

/-- Removes a key. -/
def mdel {α : Type} (m : List (Nat × α)) (k : Nat) : List (Nat × α) := m.filter (fun e => e.1 != k)

/-- Changes the value under a key, when one is listed. -/
def mmod {α : Type} (m : List (Nat × α)) (k : Nat) (f : α → α) : List (Nat × α) :=
  match mget m k with
  | some v => mset m k (f v)
  | none => m

/-- Writes several keys, in order. -/
def msets {α : Type} (m : List (Nat × α)) (l : List (Nat × α)) : List (Nat × α) :=
  l.foldl (fun m e => mset m e.1 e.2) m

/-! ### Memory -/

/-- A byte of memory; a byte that nothing has written reads 0 (DESIGN CHOICE, log 1). -/
def memByte (m : Memory) (a : Nat) : Byte := mgetD m a 0

/-- Writes a byte and keeps the canonical form: an entry is never 0. -/
def memPut (m : Memory) (a : Nat) (b : Byte) : Memory := if b = 0 then mdel m a else mset m a b

/-- Writes listed bytes. -/
def memPuts (m : Memory) (l : List (Nat × Byte)) : Memory := l.foldl (fun m e => memPut m e.1 e.2) m

/-- Writes listed bytes into a sparse map of bytes whose unlisted bytes read 0. -/
def bytesPut (m : FMap Byte) (l : List (Nat × Byte)) : FMap Byte := memPuts m l

/-- The bytes of a natural number, least significant first (R5). -/
def leBytes : Nat → Nat → List Byte
  | 0, _ => []
  | n + 1, x => BitVec.ofNat 8 x :: leBytes n (x / 256)

/-- The natural number of a list of bytes, least significant first (R5). -/
def leNat : List Byte → Nat
  | [] => 0
  | b :: t => b.toNat + 256 * leNat t

/-- `n` bytes from an address, as a number (R5, R68 `mem[a, n]`). -/
def memNat (m : Memory) (a n : Nat) : Nat := leNat ((List.range n).map fun i => memByte m (a + i))

/-- The bytes of a value from an address on, with their addresses. -/
def placed (a : Nat) (l : List Byte) : List (Nat × Byte) := (List.range l.length).zip l |>.map fun e => (a + e.1, e.2)

/-- Writes the low `n` bytes of a value at an address (R5). -/
def memWrite (m : Memory) (a n x : Nat) : Memory := memPuts m (placed a (leBytes n x))

/-- The canonical form: addresses strictly rising and no entry equal to what an unlisted byte reads. -/
def Memory.wf : Memory → Bool
  | [] => true
  | [(_, b)] => b != 0
  | (a, b) :: (c, d) :: t => b != 0 && a < c && Memory.wf ((c, d) :: t)

/-! ### Bits -/

/-- Bit `n` of a number. -/
def bit (x n : Nat) : Bool := x.testBit n

/-- Bits `[hi:lo]` of a number. -/
def bits (x hi lo : Nat) : Nat := x / 2 ^ lo % 2 ^ (hi + 1 - lo)

/-- Two's complement reading of the low `w` bits (R68 `sext`). -/
def sgn (w x : Nat) : Int :=
  let y := x % 2 ^ w
  if y < 2 ^ (w - 1) then (y : Int) else (y : Int) - (2 ^ w : Nat)

/-- Reduction of an integer modulo 2^w (R68 `wrap`). -/
def wrapNat (w : Nat) (x : Int) : Nat := (x % ((2 ^ w : Nat) : Int)).toNat

/-- The lanes of a mask, in ascending order. -/
def lanesOf (m : Nat) : List Nat := (List.range 64).filter fun l => m.testBit l

/-- One bits of the low `n` bits. -/
def popCount : Nat → Nat → Nat
  | 0, _ => 0
  | n + 1, x => x % 2 + popCount n (x / 2)

/-- Leading zero bits of the low `w` bits. -/
def clz : Nat → Nat → Nat
  | 0, _ => 0
  | w + 1, x => if x.testBit w then 0 else 1 + clz w x

/-- The low `w` bits in reverse order. -/
def bitRev : Nat → Nat → Nat
  | 0, _ => 0
  | w + 1, x => x % 2 * 2 ^ w + bitRev w (x / 2)

/-- A mask with the listed lanes set. -/
def maskOf (l : List Nat) : Word := l.foldl (fun m i => m ||| ((1 : Word) <<< i)) 0

end Sys2Proof
end

