-- ==== Sys2Proof/Machine/LaneSpec.lean ====
section
/-! DEFINITION. What a lane or matrix word may hold before its operands are looked at: opcodes, types,
functions and the static field rules (spec/02 R48 to R57, spec/05, spec/09 R255, spec/11 R297). -/

namespace Sys2Proof

/-- Why a word is no instruction (R61); each has its cause byte. -/
inductive Reject where
  | reservedOpcode | unassignedFunction | reservedField
  | laneOpcode | laneType | laneFunction | clauseHeader
  | matrixOpcode | matrixField | damperRefused | short
  deriving DecidableEq, Repr

/-- R61: the cause byte. A list of bytes too short to hold an instruction has none and answers 0. -/
def Reject.cause : Reject → BitVec 8
  | .reservedOpcode => 1 | .unassignedFunction => 2 | .reservedField => 3
  | .laneOpcode => 4 | .laneType => 5 | .laneFunction => 6 | .clauseHeader => 7
  | .matrixOpcode => 8 | .matrixField => 9 | .damperRefused => 10 | .short => 0

/-- Types of 32 and 64 bits, packed integers, and packed floats, by TYPE code (R49). -/
def tInt : List Nat := [0, 1, 6, 7]
def tPacked : List Nat := [0, 1, 6, 7, 2, 3, 4, 5]
def tBits : List Nat := [1, 7]
def tFloat : List Nat := [8, 9, 10]

/-- The types an opcode accepts with some FUNC value (R49, R143, R149, R155 to R175, R255 to R263);
none when the lane opcode is not assigned (R53). A type that no operation of `vscan` or `vred` lists is one of them
(DEDUCED, log 110). -/
def laneTypes (o : Nat) : Option (List Nat) :=
  match o with
  | 0x00 | 0x01 | 0x04 | 0x05 => some tPacked
  | 0x02 => some [0, 1, 6, 7, 2, 3]
  | 0x03 => some [0, 1]
  | 0x06 | 0x07 | 0x08 | 0x09 | 0x0A | 0x0B => some tBits
  | 0x0C => some [0, 6]
  | 0x0D => some [0, 1]
  | 0x0E => some [1]
  | 0x0F | 0x10 | 0x11 | 0x12 => some tBits
  | 0x13 => some [0, 1, 6, 7, 8]
  | 0x14 => some [0, 1]
  | 0x20 | 0x21 | 0x22 | 0x23 | 0x24 | 0x25 | 0x2E | 0x30 => some tFloat
  | 0x26 | 0x27 | 0x28 | 0x29 | 0x2A | 0x2B | 0x2C | 0x2D | 0x2F => some [8]
  | 0x40 => some tInt
  | 0x41 => some [8]
  | 0x42 | 0x43 | 0x44 | 0x45 | 0x46 => some [0]
  | 0x50 => some [4, 5, 11, 12]
  | 0x51 => some [9, 10]
  | 0x52 | 0x53 | 0x54 => some [0, 1, 8]
  | 0x55 => some [8]
  | 0x60 | 0x61 | 0x65 => some tBits
  | 0x62 | 0x64 => some [0, 1, 8]
  | 0x63 | 0x66 | 0x67 => some [0]
  | 0x80 | 0x81 | 0x82 | 0x83 => some [0, 1, 2, 3, 4, 5, 6, 7]
  | 0x84 | 0x85 => some [0, 1, 6, 7, 8]
  | 0x86 => some [0]
  | _ => none

/-- R46, R255: ORDER and ACQREL of a load or store: a hint 0 to 5 (`vst` 0 to 3, R257; `vlds` and `vsts` all of them,
R259) or a scope. -/
def orderOk (store : Bool) (fn : Nat) : Bool :=
  if bit fn 3 then fn % 8 ≤ 4 else if store then fn % 8 ≤ 3 else fn % 8 ≤ 5

/-- R260: which types an atomic operation takes. -/
def atomTypeOk (op t : Nat) : Bool :=
  if op ≤ 2 then tInt.contains t else if op ≤ 7 then tBits.contains t else t == 8

/-- The FUNC values an opcode assigns, with the type of the word (R49, R53, R143 to R175, R255 to R263). -/
def laneFuncOk (o t fn : Nat) : Bool :=
  match o with
  | 0x02 => fn == 0 || (fn == 1 && t ≤ 1)
  | 0x12 => fn < 32
  | 0x14 => fn == 0 || (fn == 1 && t == 0)
  | 0x20 | 0x21 | 0x22 | 0x23 | 0x28 | 0x29 => fn ≤ 1
  | 0x2E => fn ≤ 3
  | 0x40 => fn < 64 && fn % 16 ≤ 5 && fn / 16 != 3
  | 0x41 => fn < 64 && fn % 16 ≤ 7 && fn / 16 != 3
  | 0x46 => fn ≤ 2
  | 0x52 => fn < 16
  | 0x53 | 0x54 => fn < 4
  | 0x60 => fn < 32 && fn / 4 != 7
  | 0x61 | 0x63 | 0x65 => fn ≤ 1
  | 0x62 => fn < 16 && fn % 8 ≤ 5 && (fn % 8 ≤ 2 || t == 1)
  | 0x64 => fn < 8 && fn % 8 ≤ 5 && (fn % 8 ≤ 2 || t == 1)
  | 0x66 => fn ≤ 2
  | 0x80 | 0x82 | 0x81 | 0x83 =>
    fn < 64 && orderOk (o == 0x81) fn && fn / 16 != 3
      && (fn / 16 == 0 || (tInt.contains t && !(fn / 16 == 2 && (t == 6 || t == 7))))
  | 0x84 => fn < 128 && fn % 16 ≤ 8 && fn / 16 ≤ 4 && atomTypeOk (fn % 16) t
  | 0x85 => [0, 1, 2, 3, 4, 5, 8].contains fn && atomTypeOk fn t
  | 0x86 => fn ≤ 2
  | _ => fn == 0

/-- R138: conversions always use SLOT; arithmetic uses it only with CLAMP 10, and an entry that takes no CLAMP counts as using it too, so
that its illegal modifier traps (R52; DESIGN CHOICE, log 149). -/
def slotUsed (o clamp : Nat) : Bool :=
  (0x52 ≤ o && o ≤ 0x55) || (clamp == 2 && (o ≤ 0x14 || (0x20 ≤ o && o ≤ 0x30) || o == 0x50 || o == 0x51))

/-- R49, R52, R53, R61: the reserved-encoding check of a lane word, in the order opcode, type, function,
slot (DEDUCED, log 15). `vli.hi`, which takes no type, rejects any other TYPE as R137 says (DEDUCED, log 109). -/
def laneReject (f : LaneFields) : Option Reject :=
  match laneTypes f.opc.toNat with
  | none => some .laneOpcode
  | some ts =>
    if !ts.contains f.type.toNat || (f.opc == 0x14 && f.func == 1 && f.type != 0) then some .laneType
    else if !laneFuncOk f.opc.toNat f.type.toNat f.func.toNat then some .laneFunction
    else if f.slot != 0 && !slotUsed f.opc.toNat f.clamp.toNat then some .laneFunction
    else none

/-- R297: the type codes of R81's formats. -/
def tSlot : List Nat := [4, 8, 9, 10, 11, 12, 13]

/-- R302: the target codes of `gldb` and `gst`. -/
def targetOk (fn : Nat) : Bool := fn == 0 || (4 ≤ fn && fn ≤ 7)

/-- R57, R297, R304: the fields of a matrix word that can be judged from the word alone. -/
def matrixFieldsOk (f : LaneFields) : Bool :=
  f.pred == 31 && f.pneg == 0 && f.moda == 0 && f.modb == 0 && f.modc == 0 && f.clamp == 0 &&
  match f.opc.toNat with
  | 0xE0 => [4, 9, 10, 11, 12, 13].contains f.type.toNat && f.vd.toNat < 64 && f.va.toNat < 768
      && f.va.toNat % 8 == 0 && f.vc.toNat < 768 && f.func.toNat < 32 && f.scale == 0 && f.imm == 0
  | 0xE1 => tSlot.contains f.type.toNat && f.vd.toNat < 64 && f.va == 0 && f.vc == 0
      && targetOk f.func.toNat && f.scale == 0 && f.imm == 0
  | 0xE2 => f.type == 0 && f.vd.toNat < 64 && f.va == 0 && f.vb == 0 && f.vc == 0 && f.func == 0
      && f.scale == 0 && f.slot == 0 && f.imm == 0
  | 0xE3 => tSlot.contains f.type.toNat && f.vd == 0 && f.va.toNat < 64 && f.vc == 0
      && targetOk f.func.toNat && f.imm == 0
  | 0xE4 => f.type == 0 && f.vd.toNat < 64 && f.va.toNat < 64 && f.vb == 0 && f.vc == 0
      && f.func.toNat ≤ 1 && f.scale == 0 && f.slot == 0 && f.imm == 0
  | 0xE5 => f.type == 0 && f.vd == 0 && f.va == 0 && f.func == 0 && f.scale == 0 && f.slot == 0
      && f.imm.toNat < 1024 && (bit f.imm.toNat 8 || f.vb == 0) && (bit f.imm.toNat 9 || f.vc == 0)
  | 0xE6 => f.type == 0 && f.vd == 0 && f.va == 0 && f.vb == 0 && f.func == 0 && f.scale == 0
      && f.slot == 0 && f.imm.toNat < 1024 && f.imm.toNat % 16 == 0 && !bit f.imm.toNat 8
      && (bit f.imm.toNat 9 || f.vc == 0)
  | _ => false

/-- R57, R61: the reserved-encoding check of a matrix word. -/
def matrixReject (f : LaneFields) : Option Reject :=
  if f.opc.toNat < 0xE0 || 0xE6 < f.opc.toNat then some .matrixOpcode
  else if matrixFieldsOk f then none else some .matrixField

end Sys2Proof
end

