-- ==== Sys2Proof/Syntax.lean ====
section
/-! DEFINITION. The instructions: one constructor per row of spec/opcode_table.json. Scalar words carry
the fields of R41, lane and matrix words the fields of R48, damper words the fields of R58 with the
extension word of MODE 10. The event rows (what the hardware's other agents, the host and the world
do) carry who acts and what the outside supplies. -/

namespace Sys2Proof

/-- One constructor per row of the opcode table, in the table's order. -/
inductive Instr where
  /-- SADD (R100). Adds two scalar registers modulo 2^64 into s[d]. -/
  | sadd (d a b : BitVec 7)
  /-- SADD_IMM (R100). Adds a sign-extended 12-bit immediate to s[a] into s[d]. -/
  | saddImm (d a : BitVec 7) (i : BitVec 12)
  /-- SSUB (R100). Subtracts s[b] from s[a] modulo 2^64 into s[d]. -/
  | ssub (d a b : BitVec 7)
  /-- SMUL (R100). Writes the low 64 bits of s[a] times s[b]. -/
  | smul (d a b : BitVec 7)
  /-- SMULH_I64 (R100). Writes bits 127:64 of the signed 128-bit product. -/
  | smulhI64 (d a b : BitVec 7)
  /-- SMULH_N64 (R100). Writes bits 127:64 of the unsigned 128-bit product. -/
  | smulhN64 (d a b : BitVec 7)
  /-- SDIV_I64 (R101). Signed division rounding toward zero, with fixed results for the edge cases. -/
  | sdivI64 (d a b : BitVec 7)
  /-- SDIV_N64 (R101). Unsigned division, giving all ones for a zero divisor. -/
  | sdivN64 (d a b : BitVec 7)
  /-- SREM_I64 (R101). Signed remainder with the sign of the dividend. -/
  | sremI64 (d a b : BitVec 7)
  /-- SREM_N64 (R101). Unsigned remainder, giving s[a] for a zero divisor. -/
  | sremN64 (d a b : BitVec 7)
  /-- SAND (R100). Bitwise AND of two scalar registers. -/
  | sand (d a b : BitVec 7)
  /-- SAND_IMM (R100). Bitwise AND of s[a] with a sign-extended immediate. -/
  | sandImm (d a : BitVec 7) (i : BitVec 12)
  /-- SOR (R100). Bitwise OR of two scalar registers. -/
  | sor (d a b : BitVec 7)
  /-- SOR_IMM (R100). Bitwise OR of s[a] with a sign-extended immediate. -/
  | sorImm (d a : BitVec 7) (i : BitVec 12)
  /-- SXOR (R100). Bitwise exclusive OR of two scalar registers. -/
  | sxor (d a b : BitVec 7)
  /-- SXOR_IMM (R100). Bitwise exclusive OR of s[a] with a sign-extended immediate. -/
  | sxorImm (d a : BitVec 7) (i : BitVec 12)
  /-- SANDN (R100). Writes s[a] AND NOT s[b]. -/
  | sandn (d a b : BitVec 7)
  /-- SSHL (R102). Shifts left by s[b][5:0], filling with zeros. -/
  | sshl (d a b : BitVec 7)
  /-- SSHL_IMM (R102). Shifts left by an immediate count. -/
  | sshlImm (d a : BitVec 7) (n : BitVec 6)
  /-- SSHR (R102). Shifts right by s[b][5:0], filling with zeros. -/
  | sshr (d a b : BitVec 7)
  /-- SSHR_IMM (R102). Shifts right logically by an immediate count. -/
  | sshrImm (d a : BitVec 7) (n : BitVec 6)
  /-- SSRA (R102). Shifts right by s[b][5:0], filling with copies of bit 63. -/
  | ssra (d a b : BitVec 7)
  /-- SSRA_IMM (R102). Shifts right arithmetically by an immediate count. -/
  | ssraImm (d a : BitVec 7) (n : BitVec 6)
  /-- SMIN_I64 (R100). Writes the signed smaller of two registers. -/
  | sminI64 (d a b : BitVec 7)
  /-- SMAX_I64 (R100). Writes the signed larger of two registers. -/
  | smaxI64 (d a b : BitVec 7)
  /-- SMIN_N64 (R100). Writes the unsigned smaller of two registers. -/
  | sminN64 (d a b : BitVec 7)
  /-- SMAX_N64 (R100). Writes the unsigned larger of two registers. -/
  | smaxN64 (d a b : BitVec 7)
  /-- SCLZ (R100). Counts the leading zero bits of s[a]. -/
  | sclz (d a : BitVec 7)
  /-- SPOPC (R100). Counts the one bits of s[a]. -/
  | spopc (d a : BitVec 7)
  /-- SMOV (R100). Copies one scalar register to another. -/
  | smov (d a : BitVec 7)
  /-- SSEL (R104). Writes s[a] if s[d] is nonzero, else s[b], into s[d]. -/
  | ssel (d a b : BitVec 7)
  /-- SMOV_MAILBOX (R105). Reads a mailbox into s[d] and clears its full bit, waiting while it is empty. -/
  | smovMailbox (d : BitVec 7) (m : BitVec 3)
  /-- SCMP (R104). Writes 1 or 0 according to a condition between two scalar registers. -/
  | scmp (d a b : BitVec 7) (c : BitVec 4)
  /-- SLI (R103). Loads a sign-extended 19-bit immediate into s[d]. -/
  | sli (d : BitVec 7) (i : BitVec 19)
  /-- SLUI (R103). Shifts s[d] left by 19 and ORs in a 19-bit immediate. -/
  | slui (d : BitVec 7) (i : BitVec 19)
  /-- SB_EQ (R106). Branches when the two registers are equal, demoting on a backward branch with DEMOTE set. -/
  | sbEq (a b : BitVec 7) (o : BitVec 12)
  /-- SB_NE (R106). Branches when the two registers differ. -/
  | sbNe (a b : BitVec 7) (o : BitVec 12)
  /-- SB_LT (R106). Branches when s[a] is signed less than s[b]. -/
  | sbLt (a b : BitVec 7) (o : BitVec 12)
  /-- SB_GE (R106). Branches when s[a] is signed greater or equal to s[b]. -/
  | sbGe (a b : BitVec 7) (o : BitVec 12)
  /-- SB_LTN (R106). Branches when s[a] is unsigned less than s[b]. -/
  | sbLtn (a b : BitVec 7) (o : BitVec 12)
  /-- SB_GEN (R106). Branches when s[a] is unsigned greater or equal to s[b]. -/
  | sbGen (a b : BitVec 7) (o : BitVec 12)
  /-- PQPUSH (R111). Pushes a PATH entry for the lanes of s[a] AND EXEC, if any. -/
  | pqpush (a : BitVec 7) (o : BitVec 12)
  /-- PQJOIN (R111). Pushes a JOIN entry holding EXEC and the join address. -/
  | pqjoin (o : BitVec 12)
  /-- SJ (R106). Jumps to a PC-relative target. -/
  | sj (o : BitVec 26)
  /-- SCALL (R107). Writes the return address to ln, increments RDEPTH and jumps. -/
  | scall (o : BitVec 26)
  /-- LRUN (R118). Enqueues a clause with the captured EXEC and constants on the lane clause queue. -/
  | lrun (c : BitVec 26)
  /-- SJR (R106). Jumps to the address in s[a]. -/
  | sjr (a : BitVec 7)
  /-- SCALLR (R107). Calls the address in s[a]. -/
  | scallr (a : BitVec 7)
  /-- SRET (R107). Returns to ln and decrements RDEPTH. -/
  | sret
  /-- EXIT (R109). Ends the strand after its enqueued clauses, sealing its open copy batch. -/
  | exit
  /-- SEXEC (R110). Narrows EXEC to EXEC AND s[a]. -/
  | sexec (a : BitVec 7)
  /-- PQNEXT (R113). Pops the path stack to the next path or join and clears DEMOTE. -/
  | pqnext
  /-- PQSAVE (R116). Stores the whole path stack to memory and empties it. -/
  | pqsave (a : BitVec 7)
  /-- PQLOAD (R116). Replaces an empty path stack with an image from memory. -/
  | pqload (a : BitVec 7)
  /-- SYIELD (R115). Demotes the current path and moves the strand to the end of the scalar rotation. -/
  | syield
  /-- LK (R117). Sets a clause constant from the low half of s[a]. -/
  | lk (k : BitVec 2) (a : BitVec 7)
  /-- LWAIT (R120). Waits until earlier clauses have issued and the named flags are clear. -/
  | lwait (f : BitVec 12)
  /-- REGION (R122). Closes the current region, checkpoints the strand and opens a new region with a recipe. -/
  | region (o : BitVec 26)
  /-- IQLOOP (R127). After clearing, refills finished lanes with work items and writes the active count to a mailbox. -/
  | iqloop (p : BitVec 5) (v : BitVec 10) (m : BitVec 3)
  /-- MARK (R283). Pushes a mark record with a tag onto the frame stack. -/
  | mark (t : BitVec 16)
  /-- CUT (R284). Lifts the records above the matching mark into a slice and returns its handle. -/
  | cut (d : BitVec 7) (t : BitVec 16)
  /-- GLAUNCH (R129). After clearing, checks a launch record and queues a child grid, writing a status. -/
  | glaunch (d a : BitVec 7)
  /-- STIME (R131). Writes package time to s[d]. -/
  | stime (d : BitVec 7)
  /-- SRD (R132). Reads a system register into s[d]. -/
  | srd (d : BitVec 7) (n : BitVec 12)
  /-- SWR (R132). Writes s[a] to a system register. -/
  | swr (a : BitVec 7) (n : BitVec 12)
  /-- TRAP (R134). Raises the software trap with a 12-bit cause. -/
  | trap (c : BitVec 12)
  /-- BRK (R134). Raises the breakpoint trap, or halts when breakpoints are armed. -/
  | brk (c : BitVec 12)
  /-- MEET (R294). Waits until a meet counter of the block reaches s[a], then acquires at core scope. -/
  | meet (a : BitVec 7) (n : BitVec 4)
  /-- NOP (R134). Has no effect. -/
  | nop
  /-- SLD (R253). Loads 1 to 8 bytes into s[d] under a retention hint. -/
  | sld (d a : BitVec 7) (o : BitVec 6) (s h : BitVec 3)
  /-- SLD_ACQUIRE (R253). Loads into s[d] as an acquire at a scope. -/
  | sldAcquire (d a : BitVec 7) (o : BitVec 6) (s c : BitVec 3)
  /-- SST (R253). Stores the low bytes of s[d] as a held effect under a hint. -/
  | sst (d a : BitVec 7) (o : BitVec 6) (s h : BitVec 3)
  /-- SST_RELEASE (R253). Performs a release at a scope and then the store. -/
  | sstRelease (d a : BitVec 7) (o : BitVec 6) (s c : BitVec 3)
  /-- FENCE (R264). Performs an acquire, a release, or both at a scope. -/
  | fence (k : BitVec 2) (c : BitVec 3)
  /-- CADD (R266). Adds s[b] to a counter as a release at a scope. -/
  | cadd (a b : BitVec 7) (c : BitVec 3)
  /-- CWAIT (R267). Waits until a counter reaches a target, then acquires at a scope. -/
  | cwait (a b : BitVec 7) (c : BitVec 3)
  /-- CREAD (R268). Reads a counter into s[d]. -/
  | cread (d a : BitVec 7)
  /-- CPY (R269). Queues a linear copy on the hearth copy engine. -/
  | cpy (d a b : BitVec 7)
  /-- CPY2D (R269). Queues a strided block copy on the hearth copy engine. -/
  | cpy2d (d a b : BitVec 7)
  /-- CSEAL (R271). Closes the open copy batch and makes s[d] pending on its token. -/
  | cseal (d : BitVec 7)
  /-- WMAP (R272). Maps a scratch window of the block over a global range. -/
  | wmap (d a b : BitVec 7) (m : BitVec 2)
  /-- WUNMAP (R273). Writes a window back and clears its descriptor. -/
  | wunmap (a : BitVec 7)
  /-- WFLUSH (R273). Writes a window's dirty words back. -/
  | wflush (a : BitVec 7)
  /-- WINVAL (R273). Invalidates the clean words of a window and ends its leases. -/
  | winval (a : BitVec 7)
  /-- CLAIM (R274). Re-homes a range of frames to the L2 slice adjacent to the caller's hearth. -/
  | claim (a b : BitVec 7)
  /-- XCOLL (R275). Submits a collective descriptor to the partition's collective channel. -/
  | xcoll (d a : BitVec 7)
  /-- GRAFT (R285). Copies a slice onto the caller's stack and resumes in its top frame with a resume value. -/
  | graft (a b : BitVec 7)
  /-- SFREE (R287). Frees a slice slot and advances its generation. -/
  | sfree (a : BitVec 7)
  /-- SINFO (R288). Writes a summary of a slice handle to s[d]. -/
  | sinfo (d a : BitVec 7)
  /-- MRES (R289). Reserves the core's griddle for the block without waiting. -/
  | mres (d : BitVec 7)
  /-- MREL (R290). Releases the griddle once the stream has stopped and its segments cleared. -/
  | mrel
  /-- MRUN (R293). Starts the block's matrix stream at a matrix instruction number. -/
  | mrun (a : BitVec 7)
  /-- VADD (R143). Adds two lane operands per element. -/
  | vadd (f : LaneFields)
  /-- VSUB (R143). Subtracts two lane operands per element. -/
  | vsub (f : LaneFields)
  /-- VMUL (R143). Writes the low bits of the per-element product. -/
  | vmul (f : LaneFields)
  /-- VMUL_HI (R143). Writes bits 63:32 of the 64-bit product. -/
  | vmulHi (f : LaneFields)
  /-- VMAD (R143). Writes opa times opb plus opc. -/
  | vmad (f : LaneFields)
  /-- VMIN (R143). Writes the smaller element by type. -/
  | vmin (f : LaneFields)
  /-- VMAX (R143). Writes the larger element by type. -/
  | vmax (f : LaneFields)
  /-- VAND (R143). Bitwise AND per lane. -/
  | vand (f : LaneFields)
  /-- VOR (R143). Bitwise OR per lane. -/
  | vor (f : LaneFields)
  /-- VXOR (R143). Bitwise exclusive OR per lane. -/
  | vxor (f : LaneFields)
  /-- VNOT (R143). Bitwise complement per lane. -/
  | vnot (f : LaneFields)
  /-- VSHL (R145). Shifts left filling with zeros. -/
  | vshl (f : LaneFields)
  /-- VSHR (R145). Shifts right filling with zeros. -/
  | vshr (f : LaneFields)
  /-- VSRA (R145). Shifts right filling with the sign bit. -/
  | vsra (f : LaneFields)
  /-- VBFE (R146). Extracts a bit field described by opb. -/
  | vbfe (f : LaneFields)
  /-- VBFI (R146). Inserts a bit field of opa into opc. -/
  | vbfi (f : LaneFields)
  /-- VPOPC (R148). Counts the one bits per lane. -/
  | vpopc (f : LaneFields)
  /-- VCLZ (R148). Counts leading zero bits per lane. -/
  | vclz (f : LaneFields)
  /-- VBREV (R148). Reverses bit order per lane. -/
  | vbrev (f : LaneFields)
  /-- VSEL (R147). Selects opa or opb by a condition predicate. -/
  | vsel (f : LaneFields)
  /-- VMOV (R143). Moves opa with modifiers and clamp. -/
  | vmov (f : LaneFields)
  /-- VLI (R147). Writes a sign- or zero-extended 16-bit immediate. -/
  | vli (f : LaneFields)
  /-- VLI_HI (R147). Sets bits 31:16 of the destination to the immediate. -/
  | vliHi (f : LaneFields)
  /-- VFADD (R150). Correctly rounded float addition. -/
  | vfadd (f : LaneFields)
  /-- VFSUB (R150). Correctly rounded float subtraction. -/
  | vfsub (f : LaneFields)
  /-- VFMUL (R150). Correctly rounded float multiplication. -/
  | vfmul (f : LaneFields)
  /-- VFFMA (R150). Fused multiply-add with one rounding. -/
  | vffma (f : LaneFields)
  /-- VFMIN (R151). Returns the smaller float source. -/
  | vfmin (f : LaneFields)
  /-- VFMAX (R151). Returns the larger float source. -/
  | vfmax (f : LaneFields)
  /-- VFRCP (R150). Correctly rounded reciprocal. -/
  | vfrcp (f : LaneFields)
  /-- VFRSQ (R150). Correctly rounded reciprocal square root. -/
  | vfrsq (f : LaneFields)
  /-- VFSQRT (R150). Correctly rounded square root. -/
  | vfsqrt (f : LaneFields)
  /-- VFDIV (R150). Correctly rounded division. -/
  | vfdiv (f : LaneFields)
  /-- VFEXP2 (R150). Correctly rounded power of two. -/
  | vfexp2 (f : LaneFields)
  /-- VFLOG2 (R150). Correctly rounded base-2 logarithm. -/
  | vflog2 (f : LaneFields)
  /-- VFSIN (R150). Correctly rounded sine of an angle in turns. -/
  | vfsin (f : LaneFields)
  /-- VFCOS (R150). Correctly rounded cosine of an angle in turns. -/
  | vfcos (f : LaneFields)
  /-- VFRND (R153). Rounds to an integral value in a chosen direction. -/
  | vfrnd (f : LaneFields)
  /-- VFFRAC (R153). Writes the fractional part of opa. -/
  | vffrac (f : LaneFields)
  /-- VFCLS (R154). Writes a float class mask. -/
  | vfcls (f : LaneFields)
  /-- VICMP (R155). Integer compare combined into a predicate. -/
  | vicmp (f : LaneFields)
  /-- VFCMP (R156). FP32 compare combined into a predicate. -/
  | vfcmp (f : LaneFields)
  /-- PAND (R157). AND of two predicates. -/
  | pand (f : LaneFields)
  /-- POR (R157). OR of two predicates. -/
  | por (f : LaneFields)
  /-- PXOR (R157). Exclusive OR of two predicates. -/
  | pxor (f : LaneFields)
  /-- PNOT (R157). Complement of a predicate. -/
  | pnot (f : LaneFields)
  /-- PMOV (R158). Copies one predicate to another. -/
  | pmov (f : LaneFields)
  /-- PMOV_FROM_LANE (R158). Sets a predicate from bit 0 of a lane operand. -/
  | pmovFromLane (f : LaneFields)
  /-- PMOV_TO_LANE (R158). Writes a predicate zero-extended into a lane register. -/
  | pmovToLane (f : LaneFields)
  /-- VDOT4 (R159). Four-element 8-bit dot product with an addend. -/
  | vdot4 (f : LaneFields)
  /-- VFDOT2 (R160). Two-element 16-bit float dot product into FP32. -/
  | vfdot2 (f : LaneFields)
  /-- VCVT_DEC (R162). Decodes one slot-format element to a 32-bit type. -/
  | vcvtDec (f : LaneFields)
  /-- VCVT_ENC (R162). Encodes a 32-bit value into one slot-format element. -/
  | vcvtEnc (f : LaneFields)
  /-- VPK (R163). Encodes two values into a pair position of the slot format. -/
  | vpk (f : LaneFields)
  /-- VUPK (R164). Decodes a pair into two consecutive registers. -/
  | vupk (f : LaneFields)
  /-- VSCL (R165). Computes a block scale for a largest magnitude. -/
  | vscl (f : LaneFields)
  /-- VSHFL (R167). Reads a register from another lane of the same segment. -/
  | vshfl (f : LaneFields)
  /-- VBCAST (R168). Broadcasts one lane's value to every active lane. -/
  | vbcast (f : LaneFields)
  /-- VBCAST_FIRST (R168). Broadcasts the lowest active lane's value. -/
  | vbcastFirst (f : LaneFields)
  /-- VSCAN (R169). Writes prefix results over the active lanes. -/
  | vscan (f : LaneFields)
  /-- VBALLOT (R171). Forms the mask of active lanes with a predicate set. -/
  | vballot (f : LaneFields)
  /-- VBALLOT_CNT (R171). Forms the population count of the ballot mask. -/
  | vballotCnt (f : LaneFields)
  /-- VRED (R170). Folds the active lanes into a register or a mailbox. -/
  | vred (f : LaneFields)
  /-- VMBOX (R172). Copies the lowest active lane's value into a mailbox. -/
  | vmbox (f : LaneFields)
  /-- VMBOX_LAST (R172). Copies the highest active lane's value into a mailbox. -/
  | vmboxLast (f : LaneFields)
  /-- VLID (R174). Writes the lane number, rank or active count. -/
  | vlid (f : LaneFields)
  /-- VIXS (R175). Sets the base and length of an index register per lane. -/
  | vixs (f : LaneFields)
  /-- VLD (R257). Loads per active lane under a hint. -/
  | vld (f : LaneFields)
  /-- VLD_ACQUIRE (R257). Loads per lane as an acquire at a scope. -/
  | vldAcquire (f : LaneFields)
  /-- VST (R257). Stores per active lane as held effects. -/
  | vst (f : LaneFields)
  /-- VST_RELEASE (R210). Makes an implicit head, releases at a scope and stores per lane. -/
  | vstRelease (f : LaneFields)
  /-- VLDS (R259). Loads per lane from scratchpad of the own block or a gang member. -/
  | vlds (f : LaneFields)
  /-- VSTS (R259). Stores per lane into scratchpad of the own block or a gang member. -/
  | vsts (f : LaneFields)
  /-- VATOM (R261). Aggregates lanes by address and performs a read-modify-write after clearing. -/
  | vatom (f : LaneFields)
  /-- VATOM_CAS (R261). Performs a per-lane compare-and-swap, setting DEMOTE on a failed compare. -/
  | vatomCas (f : LaneFields)
  /-- VREDM (R262). Sends an aggregated memory reduction as a held effect. -/
  | vredm (f : LaneFields)
  /-- VPREF (R263). Prefetches lines into L1 under a hint. -/
  | vpref (f : LaneFields)
  /-- GMMA (R299). Accumulates an A fragment times a B tile into an accumulator tile. -/
  | gmma (f : LaneFields)
  /-- GLDB (R303). Loads a tile from scratch, decoded to FP32. -/
  | gldb (f : LaneFields)
  /-- GCLR (R303). Sets every element of a tile to +0. -/
  | gclr (f : LaneFields)
  /-- GST (R303). Encodes a tile into scratch in the slot format. -/
  | gst (f : LaneFields)
  /-- GMOV (R303). Copies one tile to another. -/
  | gmov (f : LaneFields)
  /-- GMOV_TR (R303). Copies the transpose of a tile. -/
  | gmovTr (f : LaneFields)
  /-- GMEET (R304). Closes the segment, signals a meet point and waits on another. -/
  | gmeet (f : LaneFields)
  /-- GEND (R304). Closes the segment, signals and stops the stream. -/
  | gend (f : LaneFields)
  /-- LDQ (R352). Loads a word of the queue view. -/
  | dLdq (d s : BitVec 4) (m : BitVec 2) (x : BitVec 16)
  /-- LDT (R352). Loads a word of the account view. -/
  | dLdt (d s : BitVec 4) (m : BitVec 2) (x : BitVec 16)
  /-- LDH (R352). Loads a word of the hearth view. -/
  | dLdh (d s : BitVec 4) (m : BitVec 2) (x : BitVec 16)
  /-- LDE (R352). Loads a word of the event record. -/
  | dLde (d s : BitVec 4) (m : BitVec 2) (x : BitVec 16)
  /-- ADD (R350). Adds src to a damper register. -/
  | dAdd (d s : BitVec 4) (m : BitVec 2) (x : BitVec 16)
  /-- SUB (R350). Subtracts src from a damper register. -/
  | dSub (d s : BitVec 4) (m : BitVec 2) (x : BitVec 16)
  /-- MUL (R350). Multiplies a damper register by src. -/
  | dMul (d s : BitVec 4) (m : BitVec 2) (x : BitVec 16)
  /-- MIN (R350). Keeps the unsigned smaller value. -/
  | dMin (d s : BitVec 4) (m : BitVec 2) (x : BitVec 16)
  /-- MAX (R350). Keeps the unsigned larger value. -/
  | dMax (d s : BitVec 4) (m : BitVec 2) (x : BitVec 16)
  /-- AND (R350). Bitwise AND into a damper register. -/
  | dAnd (d s : BitVec 4) (m : BitVec 2) (x : BitVec 16)
  /-- OR (R350). Bitwise OR into a damper register. -/
  | dOr (d s : BitVec 4) (m : BitVec 2) (x : BitVec 16)
  /-- XOR (R350). Bitwise exclusive OR into a damper register. -/
  | dXor (d s : BitVec 4) (m : BitVec 2) (x : BitVec 16)
  /-- SHL (R350). Shifts a damper register left. -/
  | dShl (d s : BitVec 4) (m : BitVec 2) (x : BitVec 16)
  /-- SHR (R350). Shifts a damper register right. -/
  | dShr (d s : BitVec 4) (m : BitVec 2) (x : BitVec 16)
  /-- CMP (R351). Sets the condition state from a comparison. -/
  | dCmp (d s : BitVec 4) (m : BitVec 2) (x : BitVec 16)
  /-- JF (R351). Jumps forward when a condition holds. -/
  | dJf (c s : BitVec 4) (m : BitVec 2) (x : BitVec 16)
  /-- BEST (R353). Finds the view entry with the smallest or largest key. -/
  | dBest (d s : BitVec 4) (m : BitVec 2) (x : BitVec 16)
  /-- DSP (R354). Accepts and places the head gang of a queue on the event's hearth. -/
  | dDsp (q s : BitVec 4) (m : BitVec 2) (x : BitVec 16)
  /-- PRE (R354). Pre-empts by flashback the earliest gang on a core. -/
  | dPre (c : BitVec 4)
  /-- PARK (R354). Pre-empts and holds the event's grid and reports it. -/
  | dPark
  /-- KILL (R354). Ends the event's grid with completion code 0x01. -/
  | dKill
  /-- RETRY (R354). Returns the faulting gang to placement while retries remain. -/
  | dRetry (s : BitVec 4) (m : BitVec 2) (x : BitVec 16)
  /-- SUSP (R359). Suspends an exhausted engine holder at its next chunk boundary. -/
  | dSusp
  /-- GRANT (R359). Gives the waiter the engine holder's place. -/
  | dGrant
  /-- FILL (R360). Places a filler gang beside stalled gangs. -/
  | dFill (q s : BitVec 4) (m : BitVec 2) (x : BitVec 16)
  /-- HOLD (R354). Does nothing. -/
  | dHold
  /-- CLAUSE_START (R14). Starts the next queued clause once the previous one has issued and its wait flags are clear. -/
  | evClauseStart (core slot : Nat)
  /-- LANE_WRITE_LANDS (R18). A long-latency write lands and clears the register's pending bit. -/
  | evLaneWriteLands (core slot op : Nat)
  /-- MEMORY_OPERATION_COMPLETES (R252). A memory operation completes and lowers its flag count. -/
  | evMemoryOperationCompletes (core slot op : Nat)
  /-- GWCT_COMPLETION (R215). A completion carrying GWCT arrives at the issuing strand. -/
  | evGwctCompletion (effect : Nat)
  /-- RELEASE_WAIT_ENDS (R215). A release wait ends on the tick after the largest GWCT it holds. -/
  | evReleaseWaitEnds (core slot : Nat)
  /-- CORE_CLOCK_STOP (R186). A core with nothing ready stops its clock. -/
  | evCoreClockStop (core : Nat)
  /-- CORE_WAKE (R186). A wake event restarts a stopped core's clock and records its reason. -/
  | evCoreWake (core : Nat)
  /-- EFFECTIVE_CLOSE_DETERMINED (R204). A region's effective close becomes final and its CLOSE messages are sent. -/
  | evEffectiveCloseDetermined (core slot region : Nat)
  /-- REGION_CLEARED (R200). At ec plus Q_core a region clears and frees its holding resources. -/
  | evRegionCleared (core slot region : Nat)
  /-- REGION_RELEASED (R200). At ec plus W(region) a region stops counting as unreleased. -/
  | evRegionReleased (core slot region : Nat)
  /-- NEIGHBOUR_WRITE_APPLIED (R202). A hearth write buffer entry is applied at the target at ec plus Q_die. -/
  | evNeighbourWriteApplied (core entry : Nat)
  /-- SENSOR_EVENT (R194). A sensor detects a disturbance and reports it to the squash controller. -/
  | evSensorEvent (kind : SensorKind) (place : Nat) (second : Bool)
  /-- SENSOR_REPORT_ARRIVES (R195). The squash controller delivers a report to every mapped core. -/
  | evSensorReportArrives (report : Nat)
  /-- SENSOR_SQUASH (R203). A delivered report squashes the affected regions and restarts strands at their heads. -/
  | evSensorSquash (report core : Nat)
  /-- HELD_EFFECT_ARRIVES (R213). A held effect reaches its home and is made pending, discarded or performed. -/
  | evHeldEffectArrives (effect : Nat)
  /-- PENDING_WRITE_ACCEPTED (R214). An effect waiting at a full isle ingress takes a freed pending-write entry. -/
  | evPendingWriteAccepted (home : Nat)
  /-- CLOSE (R212). A CLOSE message arrives at a home and sets the tag's release tick. -/
  | evClose (home core : Nat)
  /-- SQUASH (R213). A SQUASH message arrives at a home and discards the tag's pending effects. -/
  | evSquash (home core : Nat)
  /-- HOME_RELEASE (R213). At a tag's release tick the home releases its pending effects and sends completions. -/
  | evHomeRelease (home : Nat)
  /-- CREDIT_RETURNED (R212). A home frees a tag record and returns its credit, letting a waiting message depart. -/
  | evCreditReturned (home core : Nat)
  /-- HEARTBEAT (R420). Every 8 ticks a compute die sends a heartbeat toward every home. -/
  | evHeartbeat (die : Nat)
  /-- HEARTBEAT_RECEIVED (R420). A home receives a heartbeat that permits releases of that die. -/
  | evHeartbeatReceived (home die : Nat)
  /-- REGION_RESOURCE_TRAP (R209). When every holder waits for a resource, the largest holder takes the region-resource trap. -/
  | evRegionResourceTrap (core : Nat) (resource : BitVec 3)
  /-- ATOMIC_PERFORM (R210). An atomic performs once its region and older regions have cleared, then opens an implicit head. -/
  | evAtomicPerform (core slot : Nat)
  /-- TRAP_DELIVERY (R376). A held trap becomes deliverable when its region clears and is delivered. -/
  | evTrapDelivery (core slot : Nat)
  /-- STRAND_SLOT_FREED (R109). An exited strand frees its slot and register blocks once its regions have cleared. -/
  | evStrandSlotFreed (core slot : Nat)
  /-- BLOCK_GRIDDLE_RELEASE (R291). The last strand of a block stops the stream and releases the griddle. -/
  | evBlockGriddleRelease (core : Nat)
  /-- GRID_RETIRE (R189). A grid retires when its gangs, copy batches and children have retired. -/
  | evGridRetire (part grid : Nat)
  /-- COMPLETION_STATUS_WRITE (R332). The hub writes the completion status word to SADDR. -/
  | evCompletionStatusWrite (part grid : Nat)
  /-- COMPLETION_COUNTER_ADD (R332). After the status write's GWCT, the hub adds AMT to CTR. -/
  | evCompletionCounterAdd (part grid : Nat)
  /-- SEGMENT_CLEARED (R305). A griddle segment clears at ec plus Q_core and frees its staging slots. -/
  | evSegmentCleared (core : Nat)
  /-- IMPLICIT_MEET (R218). The sequencer closes a segment, waits for it to clear and opens a new one. -/
  | evImplicitMeet (core : Nat)
  /-- MEET_WAIT_SATISFIED (R304). A gmeet wait ends when its meet point has enough unconsumed amount. -/
  | evMeetWaitSatisfied (core : Nat)
  /-- COPY_START (R270). The hearth copy engine takes a copy and reads its source. -/
  | evCopyStart (copy : Nat)
  /-- COPY_DATA_STAGED (R219). Source data of a copy arrives and is held in staging. -/
  | evCopyDataStaged (copy : Nat)
  /-- COPY_CHUNK_WRITE (R270). After the region clears, a 4 KiB chunk is written as held effects. -/
  | evCopyChunkWrite (copy : Nat)
  /-- COPY_COMPLETION_ADD (R270). After the writes' GWCT, the engine adds AMT to the copy's counter. -/
  | evCopyCompletionAdd (copy : Nat)
  /-- BATCH_TOKEN_WRITTEN (R271). When every copy of a batch has completed and released, its token is written. -/
  | evBatchTokenWritten (core slot batch : Nat)
  /-- FILL_REQUEST (R229). A home answers a line fill with data and a lease end. -/
  | evFillRequest (core line : Nat)
  /-- L1_FILL_LANDS (R230). A fill lands in L1 and serves the waiting loads. -/
  | evL1FillLands (core line : Nat)
  /-- WINDOW_FILL_LANDS (R239). A window fill lands and writes the chunk's clean words. -/
  | evWindowFillLands (block chunk : Nat)
  /-- GENERATION_SWEEP (R235). A background sweep clears lines of the old generation. -/
  | evGenerationSweep (core : Nat)
  /-- COUNTER_WAKE (R267). A wake from a watched counter ends a cwait on the following tick. -/
  | evCounterWake (core slot : Nat)
  /-- COUNTER_REPOLL (R267). A waiter without a watch reads the counter again every 1,024 ticks. -/
  | evCounterRepoll (core slot : Nat)
  /-- ITEM_QUEUE_REFILL (R334). The hub moves items into a core queue holding fewer than 128. -/
  | evItemQueueRefill (core : Nat)
  /-- DISPATCH_PERIODIC (R337). A DISPATCH event is raised again at least every 10,000 ticks while a fit is held. -/
  | evDispatchPeriodic (part hearth : Nat)
  /-- PREEMPT_QUANTUM (R337). A gang resident for DPQUANT ticks raises a PREEMPT event. -/
  | evPreemptQuantum (part gang : Nat)
  /-- DECISION_BEGINS (R340). The idle interpreter starts the next pending decision on a snapshot of the views. -/
  | evDecisionBegins (part : Nat)
  /-- DAMPER_OVERRUN (R341). A run that would pass 512 cycles stops and takes the fallback. -/
  | evDamperOverrun (part : Nat)
  /-- LOAD (R355). Writing LOAD in DPCTL starts the check of a damper blob. -/
  | evLoad (part : Nat) (h : HostAccess)
  /-- DAMPER_LOAD_CHECK_DONE (R357). The check ends, placing the blob in the shadow slot or refusing it. -/
  | evDamperLoadCheckDone (part : Nat)
  /-- PREEMPTION_REQUEST (R368). A request stops a gang's strands and squashes their open regions. -/
  | evPreemptionRequest (part gang : Nat) (cause : PreemptCause)
  /-- CONTEXT_SAVE (R369). Once every strand reaches its saved head, the gang's context is saved and its cores freed. -/
  | evContextSave (part gang : Nat)
  /-- COLLECTIVE_STALL (R360). A collective that moves no data for 2,000 ticks stalls. -/
  | evCollectiveStall (channel : Nat)
  /-- FILLER_WITHDRAWAL (R360). When the collective moves again, filler gangs are pre-empted. -/
  | evFillerWithdrawal (part : Nat)
  /-- ACCOUNT_REFILL (R366). At REFILLAT the account balance is refilled. -/
  | evAccountRefill (part acct : Nat)
  /-- ACCOUNT_CHARGE (R367). Core time and engine bytes are charged to an account. -/
  | evAccountCharge (part acct : Nat)
  /-- PERIOD_WRITE (R366). Writing PERIOD sets REFILLAT to now plus PERIOD. -/
  | evPeriodWrite (part : Nat) (h : HostAccess) (acct : Nat) (value : Word)
  /-- PARKRES (R379). Writing a parked grid's launch number returns it to placement. -/
  | evParkres (part : Nat) (h : HostAccess) (value : Word)
  /-- HALT (R382). Setting HALT halts every strand of the target grid. -/
  | evHalt (part : Nat) (h : HostAccess)
  /-- DEBUG_RESUME (R381). Clearing HALT resumes the target grid. -/
  | evDebugResume (part : Nat) (h : HostAccess)
  /-- STEP (R383). Writing STEP steps the named strand by one instruction. -/
  | evStep (part : Nat) (h : HostAccess)
  /-- QPUSH (R328). A doorbell write copies and checks a launch record into a package queue. -/
  | evQpush (part : Nat) (h : HostAccess) (queue : Nat) (value : Word)
  /-- QCFG_WRITE (R197). A write of QCFG raises the window fields it does not lower. -/
  | evQcfgWrite (h : HostAccess) (die : Nat) (value : Word)
  /-- SIGNED_FLASH_COMMIT (R197). Zhevwell commits an accepted persistent setting to signed flash. -/
  | evSignedFlashCommit (item : FlashItem)
  /-- SPCFG_WRITE (R225). A write of SPSIZE within SPLIM requests a new scratchpad split. -/
  | evSpcfgWrite (part : Nat) (h : HostAccess) (value : Word)
  /-- SPSIZE_TAKES_EFFECT (R225). The new split takes effect on a core once it holds no gang of the partition. -/
  | evSpsizeTakesEffect (core : Nat)
  /-- COMMIT (R438). Writing COMMIT applies or refuses the staged partition record. -/
  | evCommit (h : HostAccess) (part : Nat)
  /-- RESOURCE_HANDOVER (R364). A removed resource is handed to its new owner once the old owner's work has left it. -/
  | evResourceHandover (part : Nat)
  /-- TAKE (R386). Writing TAKE requests the control semaphore. -/
  | evTake (h : HostAccess)
  /-- GIVE (R386). Writing GIVE releases the control semaphore. -/
  | evGive (h : HostAccess)
  /-- HOST_LINK_DOWN (R386). A host port's link goes down or resets, freeing the semaphore it held. -/
  | evHostLinkDown (port : Nat)
  /-- HOST_POSTED_WRITE (R408). A host posted write is translated, numbered and split into line pieces at the ordering point. -/
  | evHostPostedWrite (h : HostAccess) (part : Nat) (addr : Word) (bytes : List Byte)
  /-- GRANT_MESSAGE (R389). A grant from the ordering point arrives at a route. -/
  | evGrantMessage (port route : Nat)
  /-- HOST_PIECE_PERFORMED (R389). A home performs a host piece once its order and grant allow. -/
  | evHostPiecePerformed (port route : Nat)
  /-- ACK (R389). An ACK arrives at the ordering point and advances the grants. -/
  | evAck (port route : Nat)
  /-- HOST_READ (R391). A host non-posted read is served after earlier posted writes have performed. -/
  | evHostRead (h : HostAccess) (part : Nat) (addr : Word) (size : Nat)
  /-- CXL_READ (R395). A host read without ownership is served from released values. -/
  | evCxlRead (port half : Nat)
  /-- CXL_READ_FOR_OWNERSHIP (R395). A host read for ownership gives the half to the host. -/
  | evCxlReadForOwnership (port half : Nat)
  /-- CXL_WRITE_BACK (R395). A host write-back or clean eviction merges and returns the half to the device. -/
  | evCxlWriteBack (port half : Nat) (dirty : List (Nat × Byte))
  /-- BACK_INVALIDATION_RESPONSE (R395). The host's data or clean response arrives and the waiting access proceeds. -/
  | evBackInvalidationResponse (half : Nat) (dirty : List (Nat × Byte))
  /-- TRANSLATION_WALK (R397). A five-level walk completes and yields a leased translation or a fault. -/
  | evTranslationWalk (part core : Nat) (addr : Word)
  /-- TRANSLATION_LEASE_EXPIRES (R398). A translation is dropped from every cache at its lease end. -/
  | evTranslationLeaseExpires (core : Nat)
  /-- TUNMAP (R399). Writing TUNMAP starts an unmap wait and sets TDONE. -/
  | evTunmap (part : Nat) (h : HostAccess)
  /-- MGO (R400). Writing MGO starts a frame migration. -/
  | evMgo (part : Nat) (h : HostAccess)
  /-- MIGRATION_SWITCH (R401). After the copy, the leaf entry is compared and switched to the destination frame. -/
  | evMigrationSwitch (part : Nat)
  /-- MIGRATION_DRAIN_ENDS (R401). Once the horizons have passed, the redirect ends and the source frame is free. -/
  | evMigrationDrainEnds (part : Nat)
  /-- LOCK_INTERFACE_REQUEST (R403). Locks a partition's TDISP interface and freezes its state. -/
  | evLockInterfaceRequest (part : Nat) (h : HostAccess)
  /-- GET_DEVICE_INTERFACE_REPORT (R405). Returns the signed interface report. -/
  | evGetDeviceInterfaceReport (part : Nat) (h : HostAccess)
  /-- START_INTERFACE_REQUEST (R402). Moves a locked interface to RUN with the correct nonce. -/
  | evStartInterfaceRequest (part : Nat) (h : HostAccess) (nonce : BitVec 256)
  /-- STOP_INTERFACE_REQUEST (R404). Zeroes the partition's on-chip state and unlocks the interface. -/
  | evStopInterfaceRequest (part : Nat) (h : HostAccess)
  /-- IDE_STREAM_LOSS (R403). Loss of the IDE stream moves a locked interface to ERROR. -/
  | evIdeStreamLoss (part : Nat)
  /-- INTERFACE_ERROR (R404). Within 1,000 ticks of ERROR the partition's grids are killed and its requests dropped. -/
  | evInterfaceError (part : Nat)
  /-- STRAIT_LANE_FAILURE (R419). A strait lane fails, starting a half-width retrain or taking the strait down. -/
  | evStraitLaneFailure (strait left : Nat)
  /-- STRAIT_RETRAIN_DONE (R419). A strait finishes retraining and routing costs are updated. -/
  | evStraitRetrainDone (strait : Nat)
  /-- STRAIT_RETRAIN (R419). Writing bit 0 of a strait's control word commands a retrain to full width. -/
  | evStraitRetrain (h : HostAccess) (strait : Nat)
  /-- COLLECTIVE_CHUNK (R276). The collective engine reduces and writes a chunk of a descriptor. -/
  | evCollectiveChunk (channel : Nat) (ranks : List (List Byte))
  /-- COLLECTIVE_COMPLETION_ADD (R276). After the last write's GWCT, the engine adds AMT to CTR. -/
  | evCollectiveCompletionAdd (channel : Nat)
  /-- COLLECTIVE_PACKET_ARRIVES (R422). A collective packet arrives and is dropped if its attempt is older. -/
  | evCollectivePacketArrives (strait group : Nat) (attempt : W32)
  /-- GABORT (R422). Writing GABORT sends an abort token with the next attempt. -/
  | evGabort (part : Nat) (h : HostAccess)
  /-- ABORT_TOKEN (R422). An abort token arrives and raises the rank's current attempt. -/
  | evAbortToken (group : Nat) (attempt : W32)
  /-- ERRNEXT (R414). Writing ERRNEXT removes the oldest error record. -/
  | evErrnext (h : HostAccess)
  /-- RGO (R416). Writing RGO starts a frame retirement. -/
  | evRgo (h : HostAccess)
  /-- RETIREMENT_CONFIRMED (R416). Zhevwell confirms the bad-frame list entry and the retirement ends. -/
  | evRetirementConfirmed
  /-- MODULE_RESET (R4). A module reset keeps only persistent state and applies the bad-frame lists. -/
  | evModuleReset (power : Nat)
  /-- COMPUTE_DIE_RESET (R424). Commands a compute die reset, starting its drain. -/
  | evComputeDieReset (h : HostAccess) (die : Nat)
  /-- DIE_RESET_DRAIN_ENDS (R424). The drain completes or times out and the die resets with a new incarnation. -/
  | evDieResetDrainEnds (die : Nat)
  /-- PTP_LOCK (R428). IEEE 1588 lock is gained and PTPOFF is set. -/
  | evPtpLock (ptp : Word)
  /-- PTP_LOCK_LOST (R428). Lock is lost and the reference runs free. -/
  | evPtpLockLost
  /-- PTPOFF_REPLACED (R428). At a period boundary a large offset error replaces PTPOFF and sets OFFJUMP. -/
  | evPtpoffReplaced (ptp : Word)
  /-- TSTAT_READ (R427). Reading TSTAT clears OFFJUMP. -/
  | evTstatRead (h : HostAccess)
  /-- STEP_REGISTER_WRITE (R429). Writing a hearth's STEP starts or retargets a clock step change. -/
  | evStepRegisterWrite (h : HostAccess) (hearth : Nat) (value : Word)
  /-- STEP_CHANGE_DONE (R430). The hearth restarts at its new clock. -/
  | evStepChangeDone (hearth : Nat)
  /-- PWRCTL_WRITE (R431). Writing PWRCTL sets the ramp, floor and cap fields in range. -/
  | evPwrctlWrite (h : HostAccess) (value : Word)
  /-- RAMP_INTERVAL (R432). Every 1,000 ticks the limiter sets the permitted power and paces or fills. -/
  | evRampInterval (power : Nat)
  /-- TELEMETRY_RECORD (R434). After each period the I/O die sends and rings one telemetry record. -/
  | evTelemetryRecord (m : Measures)
  /-- TIMING_REPLAY (R221). A shadow-latch detector replays a late cycle at half clock. -/
  | evTimingReplay (hearth : Nat)
  /-- FWGO (R436). Writing FWGO starts staging and verifying a firmware image. -/
  | evFwgo (h : HostAccess)
  /-- FIRMWARE_VERIFY_DONE (R436). Verification ends with the image staged or refused. -/
  | evFirmwareVerifyDone
  /-- ACT (R436). Writing ACT arms the staged image for the next reset. -/
  | evAct (h : HostAccess)
  /-- REGISTER_WRITE (R8). A write to a register field with no behaviour of its own. -/
  | evRegisterWrite (h : HostAccess) (place : RegPlace) (value : Word)
  /-- RESERVED_ENCODING (R61). A scalar, lane or matrix word with a reserved opcode, unassigned function or field misuse reaches issue and takes the reserved-encoding trap. -/
  | evReservedEncoding (stream : Stream) (cause : BitVec 8)
  /-- INSTRUCTION_FETCH_FAULT (R40). A scalar or matrix fetch falls outside its code section and takes the instruction-fetch fault for that instruction. -/
  | evInstructionFetchFault (stream : Stream)
  /-- PCIE_ATOMICOP_COMPLETION (R251). The link partner's completion of an isle-14 AtomicOp or read arrives at the I/O die, which returns the old value, retries the CAS, or faults on Unsupported Request or Completer Abort. -/
  | evPcieAtomicopCompletion (request : Nat) (refused : Bool) (old : Word)
  /-- PTP_OFFSET_MEASUREMENT (R427). An IEEE 1588 exchange on the management port yields a new offset error, which updates ERR and the reference steering. -/
  | evPtpOffsetMeasurement (error : W32)
  deriving DecidableEq, Repr

end Sys2Proof
end

