-- ==== Sys2Proof/Decode.lean ====
section
/-! DEFINITION. The decoder, from the encoding tables of spec/02 (R40 to R62) and spec/17 (R58 to R60),
and the encoder written from the same tables. A word that is no instruction is rejected by name. A
reserved code in a field that the opcode table leaves to the operand (a fence kind of 0, a scope of 5)
decodes to its row; `WellFormed` refuses it and its meaning takes the reserved-encoding trap (DEDUCED, log 15). -/

namespace Sys2Proof

/-- What a decoder answers. -/
abbrev Decoded := Except Reject Instr

/-- R42: an unused field must hold zero. -/
def unusedZero (ok : Bool) (i : Instr) : Decoded := if ok then .ok i else .error .reservedField

/-- R41: the fields of a scalar word. -/
def fieldD (w : W32) : BitVec 7 := w.extractLsb' 19 7
def fieldA (w : W32) : BitVec 7 := w.extractLsb' 12 7
def fieldB (w : W32) : BitVec 7 := w.extractLsb' 5 7
def fieldF (w : W32) : BitVec 5 := w.extractLsb' 0 5
def imm12 (w : W32) : BitVec 12 := w.extractLsb' 0 12
def imm19 (w : W32) : BitVec 19 := w.extractLsb' 0 19
def off26 (w : W32) : BitVec 26 := w.extractLsb' 0 26

/-- R44, opcode 0x01: the register ALU group. -/
def decodeAlu (w : W32) : Decoded :=
  let d := fieldD w
  let a := fieldA w
  let b := fieldB w
  match (fieldF w).toNat with
  | 0x00 => .ok (.sadd d a b)
  | 0x01 => .ok (.ssub d a b)
  | 0x02 => .ok (.smul d a b)
  | 0x03 => .ok (.smulhI64 d a b)
  | 0x04 => .ok (.smulhN64 d a b)
  | 0x05 => .ok (.sdivI64 d a b)
  | 0x06 => .ok (.sdivN64 d a b)
  | 0x07 => .ok (.sremI64 d a b)
  | 0x08 => .ok (.sremN64 d a b)
  | 0x09 => .ok (.sand d a b)
  | 0x0A => .ok (.sor d a b)
  | 0x0B => .ok (.sxor d a b)
  | 0x0C => .ok (.sandn d a b)
  | 0x0D => .ok (.sshl d a b)
  | 0x0E => .ok (.sshr d a b)
  | 0x0F => .ok (.ssra d a b)
  | 0x10 => .ok (.sminI64 d a b)
  | 0x11 => .ok (.smaxI64 d a b)
  | 0x12 => .ok (.sminN64 d a b)
  | 0x13 => .ok (.smaxN64 d a b)
  | 0x14 => unusedZero (b == 0) (.sclz d a)
  | 0x15 => unusedZero (b == 0) (.spopc d a)
  | 0x16 => unusedZero (b == 0) (.smov d a)
  | 0x17 => .ok (.ssel d a b)
  | 0x18 => unusedZero (b == 0 && w.extractLsb' 15 4 == 0) (.smovMailbox d (w.extractLsb' 12 3))
  | _ => .error .unassignedFunction

/-- R44: the control, path, system, window, slice and griddle groups. -/
def decodeGroup (o : Nat) (w : W32) : Decoded :=
  let d := fieldD w
  let a := fieldA w
  let b := fieldB w
  match o, (fieldF w).toNat with
  | 0x1B, 0x00 => unusedZero (d == 0 && b == 0) (.sjr a)
  | 0x1B, 0x01 => unusedZero (d == 0 && b == 0) (.scallr a)
  | 0x1B, 0x02 => unusedZero (d == 0 && a == 0 && b == 0) .sret
  | 0x1B, 0x03 => unusedZero (d == 0 && a == 0 && b == 0) .exit
  | 0x1C, 0x00 => unusedZero (d == 0 && b == 0) (.sexec a)
  | 0x1C, 0x01 => unusedZero (d == 0 && a == 0 && b == 0) .pqnext
  | 0x1C, 0x02 => unusedZero (d == 0 && b == 0) (.pqsave a)
  | 0x1C, 0x03 => unusedZero (d == 0 && b == 0) (.pqload a)
  | 0x1C, 0x04 => unusedZero (d == 0 && a == 0 && b == 0) .syield
  | 0x24, 0x00 => unusedZero (b == 0) (.glaunch d a)
  | 0x24, 0x01 => unusedZero (a == 0 && b == 0) (.stime d)
  | 0x3C, 0x00 => unusedZero (d == 0 && b == 0) (.wunmap a)
  | 0x3C, 0x01 => unusedZero (d == 0 && b == 0) (.wflush a)
  | 0x3C, 0x02 => unusedZero (d == 0 && b == 0) (.winval a)
  | 0x3C, 0x03 => unusedZero (d == 0) (.claim a b)
  | 0x3C, 0x04 => unusedZero (b == 0) (.xcoll d a)
  | 0x3D, 0x00 => unusedZero (d == 0) (.graft a b)
  | 0x3D, 0x01 => unusedZero (d == 0 && b == 0) (.sfree a)
  | 0x3D, 0x02 => unusedZero (b == 0) (.sinfo d a)
  | 0x3E, 0x00 => unusedZero (a == 0 && b == 0) (.mres d)
  | 0x3E, 0x01 => unusedZero (d == 0 && a == 0 && b == 0) .mrel
  | 0x3E, 0x02 => unusedZero (d == 0 && b == 0) (.mrun a)
  | _, _ => .error .unassignedFunction

/-- R43: a scalar word. -/
def decodeScalar (w : W32) : Decoded :=
  let d := fieldD w
  let a := fieldA w
  let b := fieldB w
  let f := fieldF w
  match (w.extractLsb' 26 6).toNat with
  | 0x01 => decodeAlu w
  | 0x02 => unusedZero (!f.getLsbD 4) (.scmp d a b (w.extractLsb' 0 4))
  | 0x03 => .ok (.saddImm d a (imm12 w))
  | 0x04 => .ok (.sandImm d a (imm12 w))
  | 0x05 => .ok (.sorImm d a (imm12 w))
  | 0x06 => .ok (.sxorImm d a (imm12 w))
  | 0x07 => unusedZero (w.extractLsb' 6 6 == 0) (.sshlImm d a (w.extractLsb' 0 6))
  | 0x08 => unusedZero (w.extractLsb' 6 6 == 0) (.sshrImm d a (w.extractLsb' 0 6))
  | 0x09 => unusedZero (w.extractLsb' 6 6 == 0) (.ssraImm d a (w.extractLsb' 0 6))
  | 0x0A => .ok (.sli d (imm19 w))
  | 0x0B => .ok (.slui d (imm19 w))
  | 0x10 => .ok (.sbEq d a (imm12 w))
  | 0x11 => .ok (.sbNe d a (imm12 w))
  | 0x12 => .ok (.sbLt d a (imm12 w))
  | 0x13 => .ok (.sbGe d a (imm12 w))
  | 0x14 => .ok (.sbLtn d a (imm12 w))
  | 0x15 => .ok (.sbGen d a (imm12 w))
  | 0x16 => unusedZero (a == 0) (.pqpush d (imm12 w))
  | 0x17 => unusedZero (d == 0 && a == 0) (.pqjoin (imm12 w))
  | 0x18 => .ok (.sj (off26 w))
  | 0x19 => .ok (.scall (off26 w))
  | 0x1A => .ok (.lrun (off26 w))
  | 0x1B => decodeGroup 0x1B w
  | 0x1C => decodeGroup 0x1C w
  | 0x1D => unusedZero (w.extractLsb' 21 5 == 0 && b == 0 && f == 0) (.lk (w.extractLsb' 19 2) a)
  | 0x1E => unusedZero (d == 0 && a == 0) (.lwait (imm12 w))
  | 0x20 => .ok (.region (off26 w))
  | 0x21 => unusedZero (w.extractLsb' 0 8 == 0)
      (.iqloop (w.extractLsb' 21 5) (w.extractLsb' 11 10) (w.extractLsb' 8 3))
  | 0x22 => unusedZero (d == 0 && w.extractLsb' 16 3 == 0) (.mark (w.extractLsb' 0 16))
  | 0x23 => unusedZero (w.extractLsb' 16 3 == 0) (.cut d (w.extractLsb' 0 16))
  | 0x24 => decodeGroup 0x24 w
  | 0x25 => unusedZero (a == 0) (.srd d (imm12 w))
  | 0x26 => unusedZero (d == 0) (.swr a (imm12 w))
  | 0x27 => unusedZero (d == 0 && a == 0) (.trap (imm12 w))
  | 0x28 => unusedZero (d == 0 && a == 0) (.brk (imm12 w))
  | 0x2E => unusedZero (d == 0 && w.extractLsb' 4 8 == 0) (.meet a (w.extractLsb' 0 4))
  | 0x2F => unusedZero (off26 w == 0) .nop
  | 0x30 => .ok (.sld d a (w.extractLsb' 6 6) (w.extractLsb' 3 3) (w.extractLsb' 0 3))
  | 0x31 => .ok (.sldAcquire d a (w.extractLsb' 6 6) (w.extractLsb' 3 3) (w.extractLsb' 0 3))
  | 0x32 => .ok (.sst d a (w.extractLsb' 6 6) (w.extractLsb' 3 3) (w.extractLsb' 0 3))
  | 0x33 => .ok (.sstRelease d a (w.extractLsb' 6 6) (w.extractLsb' 3 3) (w.extractLsb' 0 3))
  | 0x34 => unusedZero (d == 0 && a == 0 && b == 0) (.fence (w.extractLsb' 3 2) (w.extractLsb' 0 3))
  | 0x35 => unusedZero (d == 0 && w.extractLsb' 3 2 == 0) (.cadd a b (w.extractLsb' 0 3))
  | 0x36 => unusedZero (d == 0 && w.extractLsb' 3 2 == 0) (.cwait a b (w.extractLsb' 0 3))
  | 0x37 => unusedZero (b == 0 && f == 0) (.cread d a)
  | 0x38 => unusedZero (f == 0) (.cpy d a b)
  | 0x39 => unusedZero (f == 0) (.cpy2d d a b)
  | 0x3A => unusedZero (a == 0 && b == 0 && f == 0) (.cseal d)
  | 0x3B => unusedZero (w.extractLsb' 2 3 == 0) (.wmap d a b (w.extractLsb' 0 2))
  | 0x3C => decodeGroup 0x3C w
  | 0x3D => decodeGroup 0x3D w
  | 0x3E => decodeGroup 0x3E w
  | _ => .error .reservedOpcode

/-- R48: the fields of a lane or matrix word. -/
def laneFields (w : W96) : LaneFields :=
  { opc := w.extractLsb' 88 8, type := w.extractLsb' 84 4, vd := w.extractLsb' 74 10, va := w.extractLsb' 64 10,
    vb := w.extractLsb' 54 10, vc := w.extractLsb' 44 10, pred := w.extractLsb' 39 5, pneg := w.extractLsb' 38 1,
    modc := w.extractLsb' 36 2, modb := w.extractLsb' 34 2, moda := w.extractLsb' 32 2,
    clamp := w.extractLsb' 30 2, scale := w.extractLsb' 27 3, slot := w.extractLsb' 24 3,
    func := w.extractLsb' 16 8, imm := w.extractLsb' 0 16 }

/-- R48: the word of these fields. -/
def laneWord (f : LaneFields) : W96 :=
  f.opc ++ f.type ++ f.vd ++ f.va ++ f.vb ++ f.vc ++ f.pred ++ f.pneg ++ f.modc ++ f.modb ++ f.moda
    ++ f.clamp ++ f.scale ++ f.slot ++ f.func ++ f.imm

/-- R53: the lane instruction of an assigned opcode and function. -/
def laneInstr (f : LaneFields) : Option Instr :=
  match f.opc.toNat with
  | 0x00 => some (.vadd f)
  | 0x01 => some (.vsub f)
  | 0x02 => some (if f.func == 1 then .vmulHi f else .vmul f)
  | 0x03 => some (.vmad f)
  | 0x04 => some (.vmin f)
  | 0x05 => some (.vmax f)
  | 0x06 => some (.vand f)
  | 0x07 => some (.vor f)
  | 0x08 => some (.vxor f)
  | 0x09 => some (.vnot f)
  | 0x0A => some (.vshl f)
  | 0x0B => some (.vshr f)
  | 0x0C => some (.vsra f)
  | 0x0D => some (.vbfe f)
  | 0x0E => some (.vbfi f)
  | 0x0F => some (.vpopc f)
  | 0x10 => some (.vclz f)
  | 0x11 => some (.vbrev f)
  | 0x12 => some (.vsel f)
  | 0x13 => some (.vmov f)
  | 0x14 => some (if f.func == 1 then .vliHi f else .vli f)
  | 0x20 => some (.vfadd f)
  | 0x21 => some (.vfsub f)
  | 0x22 => some (.vfmul f)
  | 0x23 => some (.vffma f)
  | 0x24 => some (.vfmin f)
  | 0x25 => some (.vfmax f)
  | 0x26 => some (.vfrcp f)
  | 0x27 => some (.vfrsq f)
  | 0x28 => some (.vfsqrt f)
  | 0x29 => some (.vfdiv f)
  | 0x2A => some (.vfexp2 f)
  | 0x2B => some (.vflog2 f)
  | 0x2C => some (.vfsin f)
  | 0x2D => some (.vfcos f)
  | 0x2E => some (.vfrnd f)
  | 0x2F => some (.vffrac f)
  | 0x30 => some (.vfcls f)
  | 0x40 => some (.vicmp f)
  | 0x41 => some (.vfcmp f)
  | 0x42 => some (.pand f)
  | 0x43 => some (.por f)
  | 0x44 => some (.pxor f)
  | 0x45 => some (.pnot f)
  | 0x46 => some (if f.func == 1 then .pmovFromLane f else if f.func == 2 then .pmovToLane f else .pmov f)
  | 0x50 => some (.vdot4 f)
  | 0x51 => some (.vfdot2 f)
  | 0x52 => some (if f.func.getLsbD 0 then .vcvtEnc f else .vcvtDec f)
  | 0x53 => some (.vpk f)
  | 0x54 => some (.vupk f)
  | 0x55 => some (.vscl f)
  | 0x60 => some (.vshfl f)
  | 0x61 => some (if f.func == 1 then .vbcastFirst f else .vbcast f)
  | 0x62 => some (.vscan f)
  | 0x63 => some (if f.func == 1 then .vballotCnt f else .vballot f)
  | 0x64 => some (.vred f)
  | 0x65 => some (if f.func == 1 then .vmboxLast f else .vmbox f)
  | 0x66 => some (.vlid f)
  | 0x67 => some (.vixs f)
  | 0x80 => some (if f.func.getLsbD 3 then .vldAcquire f else .vld f)
  | 0x81 => some (if f.func.getLsbD 3 then .vstRelease f else .vst f)
  | 0x82 => some (.vlds f)
  | 0x83 => some (.vsts f)
  | 0x84 => some (if f.func.extractLsb' 0 4 == 7 then .vatomCas f else .vatom f)
  | 0x85 => some (.vredm f)
  | 0x86 => some (.vpref f)
  | _ => none

/-- R49, R53, R61: a lane word. -/
def decodeLane (w : W96) : Decoded :=
  let f := laneFields w
  match laneReject f with
  | some r => .error r
  | none =>
    match laneInstr f with
    | some i => .ok i
    | none => .error .laneOpcode

/-- R53, R57: the matrix instruction of an opcode. -/
def matrixInstr (f : LaneFields) : Option Instr :=
  match f.opc.toNat with
  | 0xE0 => some (.gmma f)
  | 0xE1 => some (.gldb f)
  | 0xE2 => some (.gclr f)
  | 0xE3 => some (.gst f)
  | 0xE4 => some (if f.func == 1 then .gmovTr f else .gmov f)
  | 0xE5 => some (.gmeet f)
  | 0xE6 => some (.gend f)
  | _ => none

/-- R57, R61: a matrix word. -/
def decodeMatrix (w : W96) : Decoded :=
  let f := laneFields w
  match matrixReject f with
  | some r => .error r
  | none =>
    match matrixInstr f with
    | some i => .ok i
    | none => .error .matrixOpcode

/-- R58, R59: a damper word with the word after it, which MODE 10 takes as its extension. The answer says
how many words the instruction takes. -/
def decodeDamper (w next : BitVec 16) : Except Reject (Instr × Nat) :=
  let d : BitVec 4 := w.extractLsb' 6 4
  let c : BitVec 4 := w.extractLsb' 2 4
  let m : BitVec 2 := w.extractLsb' 0 2
  let x : BitVec 16 := if m == 2 then next else 0
  let n : Nat := if m == 2 then 2 else 1
  let plain (i : Instr) (ok : Bool) : Except Reject (Instr × Nat) := if ok then .ok (i, 1) else .error .damperRefused
  if m == 3 || (m == 2 && c != 0) then .error .damperRefused else
  match (w.extractLsb' 10 6).toNat with
  | 0x00 => .ok (.dLdq d c m x, n)
  | 0x01 => .ok (.dLdt d c m x, n)
  | 0x02 => .ok (.dLdh d c m x, n)
  | 0x03 => .ok (.dLde d c m x, n)
  | 0x04 => .ok (.dAdd d c m x, n)
  | 0x05 => .ok (.dSub d c m x, n)
  | 0x06 => .ok (.dMul d c m x, n)
  | 0x07 => .ok (.dMin d c m x, n)
  | 0x08 => .ok (.dMax d c m x, n)
  | 0x09 => .ok (.dAnd d c m x, n)
  | 0x0A => .ok (.dOr d c m x, n)
  | 0x0B => .ok (.dXor d c m x, n)
  | 0x0C => .ok (.dShl d c m x, n)
  | 0x0D => .ok (.dShr d c m x, n)
  | 0x0E => .ok (.dCmp d c m x, n)
  | 0x0F => .ok (.dJf d c m x, n)
  | 0x10 => .ok (.dBest d c m x, n)
  | 0x18 => .ok (.dDsp d c m x, n)
  | 0x19 => plain (.dPre d) (c == 0 && m == 0)
  | 0x1A => plain .dPark (d == 0 && c == 0 && m == 0)
  | 0x1B => plain .dKill (d == 0 && c == 0 && m == 0)
  | 0x1C => if d == 0 then .ok (.dRetry c m x, n) else .error .damperRefused
  | 0x1D => plain .dSusp (d == 0 && c == 0 && m == 0)
  | 0x1E => plain .dGrant (d == 0 && c == 0 && m == 0)
  | 0x1F => .ok (.dFill d c m x, n)
  | 0x20 => plain .dHold (d == 0 && c == 0 && m == 0)
  | _ => .error .damperRefused

/-- R40: an instruction from its bytes, lowest address first, with the bytes after it. -/
def decodeBytes (st : Stream) (l : List Byte) : Except Reject (Instr × List Byte) :=
  match st with
  | .scalar =>
    if l.length < 4 then .error .short
    else (decodeScalar (BitVec.ofNat 32 (leNat (l.take 4)))).map fun i => (i, l.drop 4)
  | .lane =>
    if l.length < 12 then .error .short
    else (decodeLane (BitVec.ofNat 96 (leNat (l.take 12)))).map fun i => (i, l.drop 12)
  | .matrix =>
    if l.length < 12 then .error .short
    else (decodeMatrix (BitVec.ofNat 96 (leNat (l.take 12)))).map fun i => (i, l.drop 12)

/-- R40, R58: a damper instruction from its bytes. -/
def decodeDamperBytes (l : List Byte) : Except Reject (Instr × List Byte) :=
  if l.length < 2 then .error .short
  else (decodeDamper (BitVec.ofNat 16 (leNat (l.take 2))) (BitVec.ofNat 16 (leNat ((l.drop 2).take 2)))).map
    fun e => (e.1, l.drop (2 * e.2))

/-- The answer of a decoder as an option. -/
def decodedOption {α : Type} : Except Reject (Instr × α) → Option Instr
  | .ok (i, _) => some i
  | .error _ => none

/-- The instruction read from a word of the opcode table, laid out as the hardware stores it (R40): 16
bits are a damper word, 32 a scalar word, 96 a lane word, or a matrix word when its opcode is 0xE0 to
0xE6. Every bit above `nbits` is zero. -/
def decodeTableWord (nbits w : Nat) : Option Instr :=
  let x := w % 2 ^ nbits
  if nbits = 16 then decodedOption (decodeDamperBytes (leBytes 4 x))
  else if nbits = 32 then decodedOption (decodeBytes .scalar (leBytes 4 x))
  else if nbits = 96 then
    if 0xE0 ≤ x / 2 ^ 88 ∧ x / 2 ^ 88 ≤ 0xE6 then decodedOption (decodeBytes .matrix (leBytes 12 x))
    else decodedOption (decodeBytes .lane (leBytes 12 x))
  else none

/-! ### Reserved codes of scalar fields -/

/-- R45: conditions 0 to 5. -/
def conditionOk (c : BitVec 4) : Bool := c.toNat ≤ 5
/-- R46, R47: scopes 0 to 4. -/
def scopeOk (c : BitVec 3) : Bool := c.toNat ≤ 4
/-- R43: a parameter group of n registers from s[b] stays within s127. -/
def groupOk (b : BitVec 7) (n : Nat) : Bool := b.toNat + n ≤ 128
/-- R132: the system registers that `srd` reads. -/
def readableNumber (n : BitVec 12) : Bool := [0x000, 0x001, 0x002, 0x003, 0x004, 0x005, 0x010, 0x020].contains n.toNat
/-- R132: the system registers that `swr` writes. -/
def writableNumber (n : BitVec 12) : Bool := [0x000, 0x001, 0x005].contains n.toNat

/-! ### The encoder -/

/-- The words of an instruction. An event has none. -/
inductive Code where
  | scalar (w : W32)
  | lane (w : W96)
  | matrix (w : W96)
  | damper (w : BitVec 16) (ext : Option (BitVec 16))
  | none
  deriving DecidableEq, Repr

/-- R41: an S-format word. -/
def wordS (o : BitVec 6) (d a b : BitVec 7) (f : BitVec 5) : Code := .scalar (o ++ d ++ a ++ b ++ f)
/-- R41: an I-format word, or a B-format word (whose first two registers stand in the same places). -/
def wordI (o : BitVec 6) (d a : BitVec 7) (i : BitVec 12) : Code := .scalar (o ++ d ++ a ++ i)
/-- R41: an I-format word with a 19-bit immediate. -/
def wordL (o : BitVec 6) (d : BitVec 7) (i : BitVec 19) : Code := .scalar (o ++ d ++ i)
/-- R41: a J-format word. -/
def wordJ (o : BitVec 6) (i : BitVec 26) : Code := .scalar (o ++ i)
/-- R58: a damper word; MODE 10 takes an extension word. -/
def wordD (o : BitVec 6) (d s : BitVec 4) (m : BitVec 2) (x : BitVec 16) : Code :=
  .damper (o ++ d ++ s ++ m) (if m == 2 then some x else Option.none)

/-- R41 to R59: the words of a well-formed instruction. -/
def encode (i : Instr) : Code :=
  match i with
  | .sadd d a b => wordS 0x01 d a b 0x00
  | .ssub d a b => wordS 0x01 d a b 0x01
  | .smul d a b => wordS 0x01 d a b 0x02
  | .smulhI64 d a b => wordS 0x01 d a b 0x03
  | .smulhN64 d a b => wordS 0x01 d a b 0x04
  | .sdivI64 d a b => wordS 0x01 d a b 0x05
  | .sdivN64 d a b => wordS 0x01 d a b 0x06
  | .sremI64 d a b => wordS 0x01 d a b 0x07
  | .sremN64 d a b => wordS 0x01 d a b 0x08
  | .sand d a b => wordS 0x01 d a b 0x09
  | .sor d a b => wordS 0x01 d a b 0x0A
  | .sxor d a b => wordS 0x01 d a b 0x0B
  | .sandn d a b => wordS 0x01 d a b 0x0C
  | .sshl d a b => wordS 0x01 d a b 0x0D
  | .sshr d a b => wordS 0x01 d a b 0x0E
  | .ssra d a b => wordS 0x01 d a b 0x0F
  | .sminI64 d a b => wordS 0x01 d a b 0x10
  | .smaxI64 d a b => wordS 0x01 d a b 0x11
  | .sminN64 d a b => wordS 0x01 d a b 0x12
  | .smaxN64 d a b => wordS 0x01 d a b 0x13
  | .saddImm d a i => wordI 0x03 d a i
  | .sandImm d a i => wordI 0x04 d a i
  | .sorImm d a i => wordI 0x05 d a i
  | .sxorImm d a i => wordI 0x06 d a i
  | .sshlImm d a n => wordI 0x07 d a ((0 : BitVec 6) ++ n)
  | .sshrImm d a n => wordI 0x08 d a ((0 : BitVec 6) ++ n)
  | .ssraImm d a n => wordI 0x09 d a ((0 : BitVec 6) ++ n)
  | .sclz d a => wordS 0x01 d a 0 0x14
  | .spopc d a => wordS 0x01 d a 0 0x15
  | .smov d a => wordS 0x01 d a 0 0x16
  | .ssel d a b => wordS 0x01 d a b 0x17
  | .smovMailbox d m => wordS 0x01 d ((0 : BitVec 4) ++ m) 0 0x18
  | .scmp d a b c => wordS 0x02 d a b ((0 : BitVec 1) ++ c)
  | .sli d i => wordL 0x0A d i
  | .slui d i => wordL 0x0B d i
  | .sbEq a b o => wordI 0x10 a b o
  | .sbNe a b o => wordI 0x11 a b o
  | .sbLt a b o => wordI 0x12 a b o
  | .sbGe a b o => wordI 0x13 a b o
  | .sbLtn a b o => wordI 0x14 a b o
  | .sbGen a b o => wordI 0x15 a b o
  | .pqpush a o => wordI 0x16 a 0 o
  | .pqjoin o => wordI 0x17 0 0 o
  | .sj o => wordJ 0x18 o
  | .scall o => wordJ 0x19 o
  | .lrun c => wordJ 0x1A c
  | .sjr a => wordS 0x1B 0 a 0 0x00
  | .scallr a => wordS 0x1B 0 a 0 0x01
  | .sret => wordS 0x1B 0 0 0 0x02
  | .exit => wordS 0x1B 0 0 0 0x03
  | .sexec a => wordS 0x1C 0 a 0 0x00
  | .pqnext => wordS 0x1C 0 0 0 0x01
  | .pqsave a => wordS 0x1C 0 a 0 0x02
  | .pqload a => wordS 0x1C 0 a 0 0x03
  | .syield => wordS 0x1C 0 0 0 0x04
  | .lk k a => wordS 0x1D ((0 : BitVec 5) ++ k) a 0 0
  | .lwait f => wordI 0x1E 0 0 f
  | .region o => wordJ 0x20 o
  | .iqloop p v m => wordJ 0x21 (p ++ v ++ m ++ (0 : BitVec 8))
  | .mark t => wordL 0x22 0 ((0 : BitVec 3) ++ t)
  | .cut d t => wordL 0x23 d ((0 : BitVec 3) ++ t)
  | .glaunch d a => wordS 0x24 d a 0 0x00
  | .stime d => wordS 0x24 d 0 0 0x01
  | .srd d n => wordI 0x25 d 0 n
  | .swr a n => wordI 0x26 0 a n
  | .trap c => wordI 0x27 0 0 c
  | .brk c => wordI 0x28 0 0 c
  | .meet a n => wordI 0x2E 0 a ((0 : BitVec 8) ++ n)
  | .nop => wordJ 0x2F 0
  | .sld d a o s h => wordI 0x30 d a (o ++ s ++ h)
  | .sldAcquire d a o s c => wordI 0x31 d a (o ++ s ++ c)
  | .sst d a o s h => wordI 0x32 d a (o ++ s ++ h)
  | .sstRelease d a o s c => wordI 0x33 d a (o ++ s ++ c)
  | .fence k c => wordS 0x34 0 0 0 (k ++ c)
  | .cadd a b c => wordS 0x35 0 a b ((0 : BitVec 2) ++ c)
  | .cwait a b c => wordS 0x36 0 a b ((0 : BitVec 2) ++ c)
  | .cread d a => wordS 0x37 d a 0 0
  | .cpy d a b => wordS 0x38 d a b 0
  | .cpy2d d a b => wordS 0x39 d a b 0
  | .cseal d => wordS 0x3A d 0 0 0
  | .wmap d a b m => wordS 0x3B d a b ((0 : BitVec 3) ++ m)
  | .wunmap a => wordS 0x3C 0 a 0 0x00
  | .wflush a => wordS 0x3C 0 a 0 0x01
  | .winval a => wordS 0x3C 0 a 0 0x02
  | .claim a b => wordS 0x3C 0 a b 0x03
  | .xcoll d a => wordS 0x3C d a 0 0x04
  | .graft a b => wordS 0x3D 0 a b 0x00
  | .sfree a => wordS 0x3D 0 a 0 0x01
  | .sinfo d a => wordS 0x3D d a 0 0x02
  | .mres d => wordS 0x3E d 0 0 0x00
  | .mrel => wordS 0x3E 0 0 0 0x01
  | .mrun a => wordS 0x3E 0 a 0 0x02
  | .vadd f => .lane (laneWord f)
  | .vsub f => .lane (laneWord f)
  | .vmul f => .lane (laneWord f)
  | .vmulHi f => .lane (laneWord f)
  | .vmad f => .lane (laneWord f)
  | .vmin f => .lane (laneWord f)
  | .vmax f => .lane (laneWord f)
  | .vand f => .lane (laneWord f)
  | .vor f => .lane (laneWord f)
  | .vxor f => .lane (laneWord f)
  | .vnot f => .lane (laneWord f)
  | .vshl f => .lane (laneWord f)
  | .vshr f => .lane (laneWord f)
  | .vsra f => .lane (laneWord f)
  | .vbfe f => .lane (laneWord f)
  | .vbfi f => .lane (laneWord f)
  | .vpopc f => .lane (laneWord f)
  | .vclz f => .lane (laneWord f)
  | .vbrev f => .lane (laneWord f)
  | .vsel f => .lane (laneWord f)
  | .vmov f => .lane (laneWord f)
  | .vli f => .lane (laneWord f)
  | .vliHi f => .lane (laneWord f)
  | .vfadd f => .lane (laneWord f)
  | .vfsub f => .lane (laneWord f)
  | .vfmul f => .lane (laneWord f)
  | .vffma f => .lane (laneWord f)
  | .vfmin f => .lane (laneWord f)
  | .vfmax f => .lane (laneWord f)
  | .vfrcp f => .lane (laneWord f)
  | .vfrsq f => .lane (laneWord f)
  | .vfsqrt f => .lane (laneWord f)
  | .vfdiv f => .lane (laneWord f)
  | .vfexp2 f => .lane (laneWord f)
  | .vflog2 f => .lane (laneWord f)
  | .vfsin f => .lane (laneWord f)
  | .vfcos f => .lane (laneWord f)
  | .vfrnd f => .lane (laneWord f)
  | .vffrac f => .lane (laneWord f)
  | .vfcls f => .lane (laneWord f)
  | .vicmp f => .lane (laneWord f)
  | .vfcmp f => .lane (laneWord f)
  | .pand f => .lane (laneWord f)
  | .por f => .lane (laneWord f)
  | .pxor f => .lane (laneWord f)
  | .pnot f => .lane (laneWord f)
  | .pmov f => .lane (laneWord f)
  | .pmovFromLane f => .lane (laneWord f)
  | .pmovToLane f => .lane (laneWord f)
  | .vdot4 f => .lane (laneWord f)
  | .vfdot2 f => .lane (laneWord f)
  | .vcvtDec f => .lane (laneWord f)
  | .vcvtEnc f => .lane (laneWord f)
  | .vpk f => .lane (laneWord f)
  | .vupk f => .lane (laneWord f)
  | .vscl f => .lane (laneWord f)
  | .vshfl f => .lane (laneWord f)
  | .vbcast f => .lane (laneWord f)
  | .vbcastFirst f => .lane (laneWord f)
  | .vscan f => .lane (laneWord f)
  | .vballot f => .lane (laneWord f)
  | .vballotCnt f => .lane (laneWord f)
  | .vred f => .lane (laneWord f)
  | .vmbox f => .lane (laneWord f)
  | .vmboxLast f => .lane (laneWord f)
  | .vlid f => .lane (laneWord f)
  | .vixs f => .lane (laneWord f)
  | .vld f => .lane (laneWord f)
  | .vldAcquire f => .lane (laneWord f)
  | .vst f => .lane (laneWord f)
  | .vstRelease f => .lane (laneWord f)
  | .vlds f => .lane (laneWord f)
  | .vsts f => .lane (laneWord f)
  | .vatom f => .lane (laneWord f)
  | .vatomCas f => .lane (laneWord f)
  | .vredm f => .lane (laneWord f)
  | .vpref f => .lane (laneWord f)
  | .gmma f => .matrix (laneWord f)
  | .gldb f => .matrix (laneWord f)
  | .gclr f => .matrix (laneWord f)
  | .gst f => .matrix (laneWord f)
  | .gmov f => .matrix (laneWord f)
  | .gmovTr f => .matrix (laneWord f)
  | .gmeet f => .matrix (laneWord f)
  | .gend f => .matrix (laneWord f)
  | .dLdq d s m x => wordD 0x00 d s m x
  | .dLdt d s m x => wordD 0x01 d s m x
  | .dLdh d s m x => wordD 0x02 d s m x
  | .dLde d s m x => wordD 0x03 d s m x
  | .dAdd d s m x => wordD 0x04 d s m x
  | .dSub d s m x => wordD 0x05 d s m x
  | .dMul d s m x => wordD 0x06 d s m x
  | .dMin d s m x => wordD 0x07 d s m x
  | .dMax d s m x => wordD 0x08 d s m x
  | .dAnd d s m x => wordD 0x09 d s m x
  | .dOr d s m x => wordD 0x0A d s m x
  | .dXor d s m x => wordD 0x0B d s m x
  | .dShl d s m x => wordD 0x0C d s m x
  | .dShr d s m x => wordD 0x0D d s m x
  | .dCmp d s m x => wordD 0x0E d s m x
  | .dJf d s m x => wordD 0x0F d s m x
  | .dBest d s m x => wordD 0x10 d s m x
  | .dDsp d s m x => wordD 0x18 d s m x
  | .dPre c => wordD 0x19 c 0 0 0
  | .dPark => wordD 0x1A 0 0 0 0
  | .dKill => wordD 0x1B 0 0 0 0
  | .dRetry s m x => wordD 0x1C 0 s m x
  | .dSusp => wordD 0x1D 0 0 0 0
  | .dGrant => wordD 0x1E 0 0 0 0
  | .dFill d s m x => wordD 0x1F d s m x
  | .dHold => wordD 0x20 0 0 0 0
  | .evClauseStart _ _ => .none
  | .evLaneWriteLands _ _ _ => .none
  | .evMemoryOperationCompletes _ _ _ => .none
  | .evGwctCompletion _ => .none
  | .evReleaseWaitEnds _ _ => .none
  | .evCoreClockStop _ => .none
  | .evCoreWake _ => .none
  | .evEffectiveCloseDetermined _ _ _ => .none
  | .evRegionCleared _ _ _ => .none
  | .evRegionReleased _ _ _ => .none
  | .evNeighbourWriteApplied _ _ => .none
  | .evSensorEvent _ _ _ => .none
  | .evSensorReportArrives _ => .none
  | .evSensorSquash _ _ => .none
  | .evHeldEffectArrives _ => .none
  | .evPendingWriteAccepted _ => .none
  | .evClose _ _ => .none
  | .evSquash _ _ => .none
  | .evHomeRelease _ => .none
  | .evCreditReturned _ _ => .none
  | .evHeartbeat _ => .none
  | .evHeartbeatReceived _ _ => .none
  | .evRegionResourceTrap _ _ => .none
  | .evAtomicPerform _ _ => .none
  | .evTrapDelivery _ _ => .none
  | .evStrandSlotFreed _ _ => .none
  | .evBlockGriddleRelease _ => .none
  | .evGridRetire _ _ => .none
  | .evCompletionStatusWrite _ _ => .none
  | .evCompletionCounterAdd _ _ => .none
  | .evSegmentCleared _ => .none
  | .evImplicitMeet _ => .none
  | .evMeetWaitSatisfied _ => .none
  | .evCopyStart _ => .none
  | .evCopyDataStaged _ => .none
  | .evCopyChunkWrite _ => .none
  | .evCopyCompletionAdd _ => .none
  | .evBatchTokenWritten _ _ _ => .none
  | .evFillRequest _ _ => .none
  | .evL1FillLands _ _ => .none
  | .evWindowFillLands _ _ => .none
  | .evGenerationSweep _ => .none
  | .evCounterWake _ _ => .none
  | .evCounterRepoll _ _ => .none
  | .evItemQueueRefill _ => .none
  | .evDispatchPeriodic _ _ => .none
  | .evPreemptQuantum _ _ => .none
  | .evDecisionBegins _ => .none
  | .evDamperOverrun _ => .none
  | .evLoad _ _ => .none
  | .evDamperLoadCheckDone _ => .none
  | .evPreemptionRequest _ _ _ => .none
  | .evContextSave _ _ => .none
  | .evCollectiveStall _ => .none
  | .evFillerWithdrawal _ => .none
  | .evAccountRefill _ _ => .none
  | .evAccountCharge _ _ => .none
  | .evPeriodWrite _ _ _ _ => .none
  | .evParkres _ _ _ => .none
  | .evHalt _ _ => .none
  | .evDebugResume _ _ => .none
  | .evStep _ _ => .none
  | .evQpush _ _ _ _ => .none
  | .evQcfgWrite _ _ _ => .none
  | .evSignedFlashCommit _ => .none
  | .evSpcfgWrite _ _ _ => .none
  | .evSpsizeTakesEffect _ => .none
  | .evCommit _ _ => .none
  | .evResourceHandover _ => .none
  | .evTake _ => .none
  | .evGive _ => .none
  | .evHostLinkDown _ => .none
  | .evHostPostedWrite _ _ _ _ => .none
  | .evGrantMessage _ _ => .none
  | .evHostPiecePerformed _ _ => .none
  | .evAck _ _ => .none
  | .evHostRead _ _ _ _ => .none
  | .evCxlRead _ _ => .none
  | .evCxlReadForOwnership _ _ => .none
  | .evCxlWriteBack _ _ _ => .none
  | .evBackInvalidationResponse _ _ => .none
  | .evTranslationWalk _ _ _ => .none
  | .evTranslationLeaseExpires _ => .none
  | .evTunmap _ _ => .none
  | .evMgo _ _ => .none
  | .evMigrationSwitch _ => .none
  | .evMigrationDrainEnds _ => .none
  | .evLockInterfaceRequest _ _ => .none
  | .evGetDeviceInterfaceReport _ _ => .none
  | .evStartInterfaceRequest _ _ _ => .none
  | .evStopInterfaceRequest _ _ => .none
  | .evIdeStreamLoss _ => .none
  | .evInterfaceError _ => .none
  | .evStraitLaneFailure _ _ => .none
  | .evStraitRetrainDone _ => .none
  | .evStraitRetrain _ _ => .none
  | .evCollectiveChunk _ _ => .none
  | .evCollectiveCompletionAdd _ => .none
  | .evCollectivePacketArrives _ _ _ => .none
  | .evGabort _ _ => .none
  | .evAbortToken _ _ => .none
  | .evErrnext _ => .none
  | .evRgo _ => .none
  | .evRetirementConfirmed => .none
  | .evModuleReset _ => .none
  | .evComputeDieReset _ _ => .none
  | .evDieResetDrainEnds _ => .none
  | .evPtpLock _ => .none
  | .evPtpLockLost => .none
  | .evPtpoffReplaced _ => .none
  | .evTstatRead _ => .none
  | .evStepRegisterWrite _ _ _ => .none
  | .evStepChangeDone _ => .none
  | .evPwrctlWrite _ _ => .none
  | .evRampInterval _ => .none
  | .evTelemetryRecord _ => .none
  | .evTimingReplay _ => .none
  | .evFwgo _ => .none
  | .evFirmwareVerifyDone => .none
  | .evAct _ => .none
  | .evRegisterWrite _ _ _ => .none
  | .evReservedEncoding _ _ => .none
  | .evInstructionFetchFault _ => .none
  | .evPcieAtomicopCompletion _ _ _ => .none
  | .evPtpOffsetMeasurement _ => .none

/-- These words stand for `i`: the decoder of their stream reads `i` from them, whatever word follows a damper word
without an extension. An event has no words. -/
def reads (c : Code) (i : Instr) : Prop :=
  match c with
  | .scalar w => decodeScalar w = .ok i
  | .lane w => decodeLane w = .ok i
  | .matrix w => decodeMatrix w = .ok i
  | .damper w (some x) => decodeDamper w x = .ok (i, 2)
  | .damper w Option.none => ∀ x, decodeDamper w x = .ok (i, 1)
  | .none => True

end Sys2Proof
end

