-- ==== Sys2Proof/Config.lean ====
section
/-! DEFINITION. What an implementation fixes, and the free values: constants without a body, so that
no proof can see what they are. The fixed figures of R1 are plain definitions. -/

namespace Sys2Proof.Config

/-- R1: cores of the module. -/
def cores : Nat := 768
/-- R1: hearths of four cores. -/
def hearths : Nat := 192
/-- R1: cores of one hearth. -/
def coresPerHearth : Nat := 4
/-- R1, R429: hearths of one compute die. -/
def hearthsPerDie : Nat := 24
/-- R10: strand slots of a core. -/
def slots : Nat := 64
/-- R12: entries of a lane clause queue. -/
def queueDepth : Nat := 8
/-- R31: entries of a path stack. -/
def pathDepth : Nat := 16
/-- R33: operand collectors of a partition. -/
def collectors : Nat := 8
/-- R16: the largest flag count. -/
def flagMax : Nat := 1023
/-- R1, R122: unreleased regions of a strand. -/
def maxUnreleased : Nat := 4
/-- R196: default and least windows in ticks. -/
def qCoreMin : Nat := 32
def qDieMin : Nat := 64
def qPkgMin : Nat := 128
/-- R398: lease of a translation in ticks. -/
def transLease : Nat := 65536
/-- R434: telemetry period in ticks. -/
def telemetryPeriod : Nat := 100000
/-- R1, R222, R393: bytes of the memory of an isle: 64 GiB of a near isle, 512 GiB of a far isle. -/
def isleBytes (isle : Nat) : Nat := if isle < 12 then 2 ^ 36 else 2 ^ 39
/-- R196, R389, R420: worst delay of a message on the CLOSE/SQUASH channel. -/
def straitDelay : Nat := 96

/-- R229 leaves the length of a granted lease open between 64 and 4,096: free (DESIGN CHOICE, log 7). The argument is
the state's counter of free values. -/
opaque leaseChoice : Nat → Nat

/-- R324 does not architect where in an arena a stack or a pool lies: free (DESIGN CHOICE, log 6). -/
opaque arenaChoice : Nat → Nat

/-- R300: whether a word that a `gmma` reads, written while its reads are in progress, is read as it stood when they began: free
(DESIGN CHOICE, log 126). Arguments: the counter, the word's key. -/
opaque readsOld : Nat → Nat → Bool

/-- R369 does not architect the format of a context image, and so its size: free (DESIGN CHOICE, log 119). The argument is the
state's counter of free values. -/
opaque imageBytes : Nat → Nat

/-- The contents of host memory behind isle 14 (TARGET 0 and 1, R394) belong to the host, which may
change them at any time: each read gives a free byte (DESIGN CHOICE, log 12). Arguments: the counter, the address. -/
opaque hostByte : Nat → Nat → Byte

/-- R435: an XMSS-SHAKE_20_256 verification of a message against a signature, with the key number.
The algorithm stands in RFC 8391, not in the spec: free (DESIGN CHOICE, log 8). -/
opaque xmssVerify : Nat → List Byte → List Byte → Bool

/-- R435, R437: the 2,820-byte signature made with attestation key generation g and one-time index i
over a message: free (DESIGN CHOICE, log 8). -/
opaque xmssSign : Nat → Nat → List Byte → Nat → Byte

/-- R436: the version that a firmware image carries; the spec does not say where in the image: free (DESIGN CHOICE, log 8). -/
opaque imageVersion : List Byte → Word

/-- R405: the 64-byte SHAKE256 measurement of a firmware image, and that of the image that the module came with: free
(DESIGN CHOICE, log 8). -/
opaque imageMeasure : List Byte → BitVec 512
opaque firstMeasure : BitVec 512

/-- R437: the public key of an attestation key generation, and the signature that the identity key makes with one of its
one-time indices over a message: free (DESIGN CHOICE, log 8). -/
opaque attestationKey : Nat → List Byte
opaque identitySign : Nat → List Byte → List Byte

/-- R223, R397: where the VF BAR windows of a partition lie in isle 15 is fixed when the host
enumerates the device: a byte offset in isle 15, free (DESIGN CHOICE, log 13). -/
opaque vfBarBase : Nat → Nat

/-- R365 speaks of the memory channel and the L2 slice of a frame; the spec does not say which of an
isle's 16 channels or 8 slices a frame lies in: free functions of the frame number (DESIGN CHOICE, log 17). -/
opaque frameChannel : Nat → Nat
opaque frameSlice : Nat → Nat

/-- R274: how far each near isle lies from a hearth is fixed by a floorplan that the spec does not give:
free (DESIGN CHOICE, log 24). Arguments: the hearth, the isle. -/
opaque sliceDistance : Nat → Nat → Nat

/-- R275: the number of descriptors that a collective channel's queue holds, less 1, is not stated: free
(DEDUCED, log 25). -/
opaque channelRoom : Nat

/-- R395: how many halves a partition's snoop-filter banks hold, less 1, is not stated: free (DESIGN CHOICE, log 31). -/
opaque snoopRoom : Nat → Nat

/-- R415: which KIND led to a retirement is known to whoever ordered it: free (DESIGN CHOICE, log 32). -/
opaque retireWhy : Nat → Byte

/-- R405: the TDISP words that the spec gives no value: the LNR and TPH controls of a partition's function, and the range of a BAR
of it; free (PRESUMED, log 75). -/
opaque reportControls : Nat → BitVec 48
opaque reportRange : Nat → Nat → BitVec 128

/-- R407, R418: the topology of the Bronal fabric: the in-package straits of the primary and of the alternate route from a die to
another, at least one, the last one first (dies as in `State.incs`); free (DESIGN CHOICE, log 127). -/
opaque route : Nat → Nat → Bool → Fin 40 × List (Fin 40)

/-- R407: what lies at the far end of a strait: the module's identifier, or the die's SOURCE code; free (DESIGN CHOICE, log 127). -/
opaque straitPeer : Nat → BitVec 16

/-- R419: a strait's arbitration weight and send window in flits at full width: free (DESIGN CHOICE, log 143). -/
opaque straitWeight : Nat
opaque straitWindow : Nat

/-- R428: the PTP time that Zhevwell finds when it replaces PTPOFF, when no event gives it: free (DESIGN CHOICE, log 128). The
argument is the state's counter of free values. -/
opaque ptpTime : Nat → Word

/-- R432, R434: the power that the module draws, in mW, and what its sensors measure, when no event gives them: free
(DESIGN CHOICE, log 128). -/
opaque powerDemand : Nat → Nat
opaque measure : Nat → Nat → Nat

/-- R402: the start nonce that a lock returns: free (DESIGN CHOICE, log 8). -/
opaque nonce : Nat → BitVec 256

end Sys2Proof.Config
end

