-- ==== Sys2Proof/Machine/State.lean ====
section
/-! DEFINITION. The state of an SV-60 module as plain data, and its value after a module reset.
Ticks of package time (R2) and identifiers are natural numbers; registers that software sees as words
are bit vectors. -/

namespace Sys2Proof.Machine

/-- Why a step stops the machine. No effect of the spec ends in one of these. -/
inductive Fault where
  /-- Raised by the meaning of a scalar, lane, matrix or damper instruction when it is run without an
  agent of its stream (no strand, stream or interpreter is selected, or it does not exist). `step`
  never runs one so. Safe: nothing is claimed of such a run. -/
  | noAgent
  deriving DecidableEq, Repr

/-- Why an instruction has no meaning. -/
inductive Refusal where
  /-- Raised by an arm of `exec` whose instruction has no meaning yet. Safe: nothing is claimed. -/
  | notModelled (mnemonic : String)
  deriving DecidableEq, Repr

/-- The agent whose instruction is running: the side of a strand (by core and strand slot), the matrix
stream of a core, or the damper interpreter of a partition (DESIGN CHOICE, log 2). -/
inductive Agent where
  | none
  | scalar (core slot : Nat)
  | lane (core slot : Nat)
  | matrix (core : Nat)
  | damper (part : Nat)
  deriving DecidableEq, Repr

/-- R37, R38, R250, R384, R391, R392, R403, R412: what comes from outside and is no row of the table: physical errors, a host's
accesses of configuration space and its reads of registers, and the sending of an MSI-X message (DESIGN CHOICE, log 14). -/
inductive Upset where
  /-- An uncorrectable error in a lane word, which its next read finds. -/
  | lane (core slot reg lane : Nat)
  /-- An uncorrectable error in a scalar register. -/
  | scalar (core slot reg : Nat)
  /-- An uncorrectable error in a mailbox. -/
  | mailbox (core slot n : Nat)
  /-- A single-bit error of a core's register files, corrected when it is read. -/
  | corrected (core : Nat)
  /-- Uncorrectable data in the line of a physical address, of an isle's media or of the L2 of a near isle. -/
  | memory (addr : Nat) (l2 : Option Nat)
  /-- A corrected error of an isle's media or of the L2 of a near isle. -/
  | memoryCorrected (isle : Nat) (l2 : Option Nat)
  /-- A read of configuration space: of a partition's function, or of PF0's SR-IOV capability. -/
  | configRead (h : HostAccess) (part : Option Nat) (reg : Nat)
  /-- A write of it. -/
  | configWrite (h : HostAccess) (part : Option Nat) (reg : Nat) (v : Word)
  /-- A non-posted read of a register word of BAR0: of a partition's function, or of PF0. -/
  | registerRead (h : HostAccess) (part : Option Nat) (off : Nat)
  /-- A partition's function sends an MSI-X message through a port. -/
  | msix (port part : Nat)
  deriving DecidableEq, Repr

/-- One move: an agent's next instruction, an event, a physical error, or the passing of a tick (DESIGN CHOICE, log 2). -/
inductive Turn where
  | agent (a : Agent)
  | event (i : Instr)
  | upset (u : Upset)
  /-- The next matrix instruction of a core, a `gmma`, begins its reads (R300). -/
  | reads (core : Nat)
  | tick
  deriving DecidableEq, Repr

/-! ### A strand -/

/-- R31: an entry of the path stack. -/
structure PathEntry where
  mask : Word
  addr : Word
  join : Bool
  deriving DecidableEq, Repr

/-- The scalar side of a strand as a region head checkpoints it (R199). -/
structure ScalarSide where
  /-- s1 to s127 by number (R24); an unlisted register holds 0. -/
  sregs    : FMap Word
  /-- Scalar registers that hold an uncorrectable error (R37, R38). -/
  spoison  : List Nat
  spc      : Word
  exec     : Word
  /-- k0 to k3 (R19). -/
  ks       : FMap W32
  /-- m0 to m7 DATA and FULL (R20). -/
  mdata    : FMap Word
  mfull    : BitVec 8
  mpoison  : BitVec 8
  /-- The path stack, bottom first (R31). -/
  path     : List PathEntry
  demote   : Bool
  sticky   : BitVec 7
  trapPend : Bool
  /-- The enqueue sequence counter (R98). -/
  seq      : Word
  rdepth   : BitVec 16
  tdepth   : Bool
  entryd   : BitVec 16
  tln      : Word
  deriving DecidableEq, Repr

/-- The lane registers, predicates and index registers of a strand (R29). -/
structure LaneSide where
  /-- Register r of lane l under key 64 r + l; an unlisted word holds 0. -/
  vregs   : FMap W32
  /-- Poisoned lane words, by the same key (R38). -/
  vpoison : List Nat
  /-- Lane words with an uncorrectable error that no read has found yet, by the same key (R38). -/
  verr    : List Nat
  /-- p1 to p23 as masks of lanes; an unlisted predicate holds 0. -/
  preds   : FMap Word
  /-- BASE and LENGTH of index register i in lane l under key 64 i + l. -/
  ibase   : FMap (BitVec 16)
  ilen    : FMap (BitVec 16)
  deriving DecidableEq, Repr

/-- R54: the fields of a checked clause header. -/
structure Header where
  wait  : BitVec 12
  flagA : BitVec 4
  flagB : BitVec 4
  len   : BitVec 5
  mbox  : BitVec 8
  deriving DecidableEq, Repr

/-- R12, R13: an entry of the lane clause queue with what `lrun` captured. -/
structure Queued where
  clause : BitVec 26
  exec   : Word
  ks     : FMap W32
  seq    : Word
  region : Nat
  /-- The header, once read and checked (R55). -/
  header : Option Header
  /-- The clause is the REMAT clause of a resumption (R371). -/
  remat  : Bool
  deriving DecidableEq, Repr

/-- R14: a clause that has started; `index` is its next instruction, from 1. -/
structure Running where
  entry  : Queued
  header : Header
  index  : Nat
  deriving DecidableEq, Repr

/-- The lane stream of a strand: the clause queue and the clause that issues. -/
structure LaneStream where
  queue   : List Queued
  current : Option Running
  deriving DecidableEq, Repr

/-- R123: a recipe record. -/
structure Recipe where
  slive  : BitVec 128
  plive  : BitVec 24
  ilive  : BitVec 4
  remv   : Bool
  remat  : BitVec 26
  ranges : List (Nat × Nat)
  deriving DecidableEq, Repr

/-- R375: a trap record. -/
structure TrapRec where
  code   : BitVec 8
  stream : Stream
  detail : BitVec 16
  index  : BitVec 6
  place  : Word
  lanes  : Word
  faddr  : Word
  deriving DecidableEq, Repr

/-- What kind of pending trap this is (R376): raised by the strand's own instruction; by its matrix
stream; by an earlier `cadd` whose overflow became known; the saturation trap. -/
inductive TrapKind where
  | own | matrix | counter | saturation
  deriving DecidableEq, Repr

/-- A held trap (R99, R141, R206). `resume` is the scalar address of its head (R376). -/
structure HeldTrap where
  record : TrapRec
  kind   : TrapKind
  region : Nat
  seq    : Word
  /-- The tick at which it became deliverable. -/
  ready  : Option Nat
  resume : Word
  /-- Another trap was delivered before it; it waits until no handler runs (R376). -/
  kept   : Bool := false
  deriving DecidableEq, Repr

/-- One destination of a load: a lane register word or pair of one lane, or (lane 64) a scalar
register; and the locations of its bytes. -/
structure Dest where
  lane   : Nat
  reg    : Nat
  /-- The virtual address of the lane's access (R141). -/
  addr   : Word
  locs   : List Nat
  signed : Bool
  pair   : Bool
  deriving DecidableEq, Repr

/-- R16, R252: an outstanding memory operation of a strand. -/
structure MemOp where
  id      : Nat
  region  : Nat
  scalar  : Bool
  flag    : Option Nat
  flagB   : Option Nat
  dests   : List Dest
  /-- Lines whose bytes are still awaited; a chunk of a scratch window stands as the line of its locations. -/
  lines   : List Nat
  got     : FMap Byte
  /-- Only the answer of a fill made after this identifier serves it (R236). -/
  asked   : Nat
  /-- Effects and buffer entries of its own stream that it must see performed first (R236, R258). -/
  waits   : List Nat
  landed  : Bool
  /-- Held effects whose acceptance is awaited. -/
  effects : List Nat
  poll    : Bool
  byp     : Bool
  acquire : Option (BitVec 3)
  /-- The instruction: its address, or its clause and index, and its sequence number (R98). -/
  place   : Word
  index   : BitVec 6
  seq     : Word
  deriving DecidableEq, Repr

/-- How far an instruction of several steps has come: an atomic (R210), a release (R234), a wait with a
head (R210, R267). -/
inductive Phase where
  | idle
  /-- R210: the region is closed; waits until it and every older one have cleared. -/
  | closing
  /-- R234 step 2: written back and headed; waits for releases. -/
  | releasing
  /-- R234: the release has ended; the store, add, atomic or next step follows. -/
  | released
  /-- R210: the implicit head of a wait has been taken. -/
  | headed
  /-- R251: requests at the link partner are awaited. -/
  | requested
  deriving DecidableEq, Repr

/-- R185: what a descheduled side waits for. The codes of a resource are those of R209, and 6 for a place among
the core's memory requests (R191). -/
inductive Wait where
  | none | mailbox | queueSlot | copySlot | counter | token | flags | region | clearing | release
  | pending | resource (code : Nat) | fill | items | ready | griddle | mailboxFull
  deriving DecidableEq, Repr

/-- R199, R210: the scalar registers, lane register words (64 × register + lane) and predicates that an instruction which
performs like an atomic has written. -/
structure Results where
  scalars : List Nat := []
  lanes   : List Nat := []
  preds   : List Nat := []
  deriving DecidableEq, Repr

/-- R200: a region of a strand. -/
structure Region where
  id       : Nat
  serial   : BitVec 8
  explicit : Bool
  opened   : Nat
  /-- The tick at which the next head took its scalar checkpoint (R198). -/
  sclose   : Option Nat
  close    : Option Nat
  ec       : Option Nat
  cleared  : Bool
  /-- Regions and segments it depends on (R204). -/
  deps     : List Nat
  qcore    : Nat
  qdie     : Nat
  qpkg     : Nat
  /-- Largest window class of its effects: 0 none or Q_core, 1 Q_die, 2 Q_pkg (R196). -/
  cls      : Nat
  /-- It has issued an effect (R210). -/
  effect   : Bool
  /-- Held effects sent to each home (R212). -/
  sent     : FMap Nat
  head     : ScalarSide
  laneHead : Option LaneSide
  /-- The clause queue of an implicit head (R199). -/
  queue    : Option LaneStream
  recipe   : Option Recipe
  /-- Registers whose old mapping the head keeps (R209), and lines quarantined. -/
  lanes    : List Nat
  scalars  : List Nat
  qlines   : List Nat
  /-- Performance counts not yet in NET (R373). -/
  counts   : FMap Nat
  /-- Counter adds of the region: address and amount (R380). -/
  adds     : List (Word × Word)
  /-- What the atomic that made this implicit head wrote (R199, R210). -/
  results  : Results := {}
  /-- It was opened by the resumption at an explicit head, for its REMAT clause; the head's `region` goes on in it (R371). -/
  resumed  : Bool := false
  deriving DecidableEq, Repr

/-- R271: a batch of copies. -/
structure Batch where
  number : Nat
  copies : List Nat
  sealed : Bool
  /-- The token register; 0 keeps no token. -/
  reg    : Nat
  region : Nat
  token  : Option Word
  read   : Bool
  deriving DecidableEq, Repr

/-- A resident strand. -/
structure Strand where
  part    : Nat
  grid    : Nat
  gang    : Nat
  block   : Nat
  number  : Nat
  vblk    : Nat
  compat  : Bool
  depth   : Nat
  sc      : ScalarSide
  ln      : LaneSide
  st      : LaneStream
  ops     : List MemOp
  /-- Pending bits of lane registers: register and operation (R18). -/
  vpend   : List (Nat × Nat)
  /-- Scalar registers pending on a load (operation) or a token (batch number) (R254, R271). -/
  spend   : List (Nat × Nat)
  tpend   : List (Nat × Nat)
  /-- Unreleased regions, oldest first; the last one is open on the scalar side. -/
  regions : List Region
  serial  : BitVec 8
  recipe  : Option Recipe
  sphase  : Phase
  lphase  : Phase
  swait   : Wait
  lwait   : Wait
  /-- Awaited package tick of a release wait, and a wake that has arrived (R215, R267). -/
  wake    : Bool
  traps   : List HeldTrap
  /-- A held trap has stopped both sides (R206). -/
  stopped : Bool
  exited  : Bool
  halted  : Bool
  /-- A debugger step under way (R383): 0 none, 1 scalar, 2 lane. -/
  stepping : Nat
  /-- A pre-emption has stopped the strand; its saved head is reached (R368). -/
  saving  : Bool
  /-- Largest GWCT held (R215). -/
  gwct    : Nat
  /-- Held effects whose completion has not arrived. -/
  effects : List Nat
  batches : List Batch
  nextBatch : Nat
  stack   : Nat
  stackLen : Nat
  /-- Cycle of last issue in the scalar, lane arithmetic and lane memory slot, as `Core.cycle` counts them; 0 never (R182). -/
  issued  : List Nat
  placed  : Nat
  /-- The tick at which the region of the head it was last restored to had opened (R380). -/
  headTick : Nat
  /-- The serial of that head (R380). -/
  headSerial : BitVec 8 := 0
  /-- The meet point that a `meet` waits at: area offset and count (R294). -/
  meet    : Option (Nat × Nat)
  /-- Serial of the latest region that has left the strand, and its effective close with Q_pkg (R284). -/
  lastTag : BitVec 8 × Nat
  /-- The slice slot that a `graft` in its read phase refers to (R285). -/
  grafting : Option Nat
  /-- Released counter adds for the fault record, and adds older than those (R380). -/
  adds    : List (Word × Word)
  addLost : Nat
  /-- The lanes that the `iqloop` under way has served (R127). -/
  served  : List Nat := []
  /-- A squash has restored it to an explicit head, whose `region` it executes next (R203). -/
  atRegion : Bool := false
  /-- Its lane instruction waits in an operand collector (R18, R21, R181). -/
  collects : Bool := false
  /-- The REMAT clause of its resumption has not yet ended, or its results are not yet written again (R371). -/
  remat    : Bool := false
  deriving DecidableEq, Repr

/-! ### A block -/

/-- R237: a window descriptor. -/
structure WinDesc where
  gbase  : BitVec 50
  mode   : BitVec 2
  valid  : Bool
  schunk : BitVec 13
  nchunk : BitVec 14
  deriving DecidableEq, Repr

/-- R238: the state of a chunk. -/
structure Chunk where
  wvalid  : W32
  wdirty  : W32
  lease   : Nat
  /-- The physical address of a fill that is under way (R239). -/
  filling : Option Nat
  deriving DecidableEq, Repr

/-- R238: a chunk of a window just mapped. -/
def Chunk.reset : Chunk := { wvalid := 0, wdirty := 0, lease := 0, filling := none }

/-- R217, R305: a segment of a matrix stream. -/
structure Segment where
  id      : Nat
  core    : Nat
  slot    : Nat
  serial  : BitVec 8
  opened  : Nat
  close   : Option Nat
  ec      : Option Nat
  cleared : Bool
  deps    : List Nat
  qcore   : Nat
  qdie    : Nat
  /-- Where a squash rewinds to: an instruction number, and the wait of its opening `gmeet` (R306). -/
  rewind  : Nat
  wait    : Option (Nat × Nat)
  cursors : FMap Word
  /-- Tiles as they stood when first touched, in staging slots. -/
  snaps   : List (Nat × FMap W32)
  sticky  : BitVec 7
  arm     : Bool
  /-- A held matrix trap (R307). -/
  trap    : Option TrapRec
  counts  : FMap Nat
  deriving DecidableEq, Repr

/-- R301: the latched fragment with the fields of the latching `gmma`. -/
structure Latch where
  strand : Nat
  va     : BitVec 10
  vc     : BitVec 10
  type   : BitVec 4
  slot   : BitVec 3
  frag   : List W32
  scales : List Byte
  deriving DecidableEq, Repr

/-- R300: the words that a `gmma` under way reads, as they stood when its reads began: of its lane registers under key
64 × register + lane, and of the scratch of its block. -/
structure Reading where
  instr   : LaneFields
  regs    : FMap W32
  scratch : Memory
  deriving DecidableEq, Repr

/-- R292: the griddle of a core. -/
structure Griddle where
  held    : Bool
  holder  : Nat
  run     : Bool
  latch   : Option Latch
  next    : Nat
  /-- Element (i, j) of tile t under key 1024 t + 32 i + j; an unlisted element holds +0. -/
  tiles   : FMap W32
  segs    : List Segment
  /-- A `gmeet` waits: meet point and count (R304). -/
  waiting : Option (Nat × Nat)
  /-- The reads of a `gmma` that are in progress (R300). -/
  reading : Option Reading := none
  deriving DecidableEq, Repr

/-- A resident or saved block: its scratch area, windows and cursors (R179, R237, R292). -/
structure Block where
  part     : Nat
  grid     : Nat
  gang     : Nat
  number   : Nat
  gidx     : Nat
  gsize    : Nat
  bsize    : Nat
  core     : Nat
  /-- Bytes of its scratch area; 0 when it has none. -/
  area     : Nat
  windows  : Nat
  /-- Scratch bytes by area offset; an unlisted byte holds 0 (R179). -/
  scratch  : FMap Byte
  wins     : FMap WinDesc
  chunks   : FMap Chunk
  cursors  : FMap Word
  /-- The griddle as saved by flashback (R369). -/
  saved    : Option Griddle
  deriving DecidableEq, Repr

/-! ### A core -/

/-- R193: a register block that is not FREE. -/
inductive RegBlock where
  | granted (slot : Nat)
  | draining (ops : List Nat)
  deriving DecidableEq, Repr

/-- R226: an L1 line. `pin` lists the stores whose completion has not arrived (PIN is nonempty), `quar`
the uncleared regions with a store in it (QUAR is nonempty). -/
structure L1Line where
  line  : Nat
  valid : Bool
  lease : Nat
  gen   : Bool
  ret   : BitVec 2
  rop   : Bool
  /-- A store with `.byp` has taken the line: it is dropped at that store's completion (R227). -/
  drop  : Bool
  quar  : List Nat
  pin   : List Nat
  halfv : BitVec 2
  wmask : BitVec 128
  data  : FMap Byte
  deriving DecidableEq, Repr

/-- A fill on its way: not yet answered, or answered with data and a lease end (R229). -/
structure Fill where
  line   : Nat
  /-- The hints of the accesses that it serves, in order (R227, R228). -/
  hints  : List (BitVec 3)
  answer : Option (FMap Byte × BitVec 2 × Nat)
  /-- The identifier that stood next at the answer: operations made before it may be served (R235). -/
  stamp  : Nat
  gen    : Bool
  byp    : Bool
  deriving DecidableEq, Repr

/-- What an undo record restores (R208, R237, R240). -/
inductive UndoWhat where
  | word (block off : Nat) (old : W32) (valid dirty : Bool)
  | dirty (block chunk : Nat) (old : W32)
  | valid (block chunk : Nat) (old : W32)
  | desc (block window : Nat) (old : WinDesc) (chunks : List (Nat × W32 × W32))
  deriving DecidableEq, Repr

/-- R208: an undo record, of a region or a segment. `last` orders the owner's latest write to each byte of the word
among those of its other records; 0 stands for no write (R204). -/
structure Undo where
  owner : Nat
  what  : UndoWhat
  last  : List Nat := []
  deriving DecidableEq, Repr

/-- R202, R209: a hearth write buffer entry: bytes or a counter add for a neighbour's scratch. -/
structure HwbEntry where
  id     : Nat
  /-- The partition and the grid of its issuer (R333, R380). -/
  part   : Nat
  grid   : Nat
  /-- Once its owner has cleared: the tick at which it is applied, ec + Q_die. -/
  due    : Option Nat
  owner  : Nat
  slot   : Nat
  block  : Nat
  off    : Nat
  bytes  : List (Nat × Byte)
  add    : Option Word
  reduce : Option (BitVec 4 × BitVec 4 × Word)
  /-- The block and number of the strand that made it, whether by a lane instruction (R236, R258). -/
  issuer : Nat × Nat
  lane   : Bool
  seq    : Word
  place  : Word
  deriving DecidableEq, Repr

/-- R209, R267: an entry of the pending-add table. -/
structure PendingAdd where
  effect : Nat
  addr   : Nat
  amount : Word
  region : Nat
  deriving DecidableEq, Repr

/-- R267: a watch of a waiting strand on a counter location. -/
structure Watch where
  core   : Nat
  slot   : Nat
  addr   : Nat
  target : Word
  /-- The release that met the target has sent its wake. -/
  woken  : Bool
  deriving DecidableEq, Repr

/-- R398: a cached translation. -/
structure Trans where
  part  : Nat
  vbase : Nat
  size  : Nat
  pbase : Nat
  w     : Bool
  x     : Bool
  lease : Nat
  deriving DecidableEq, Repr

/-- A core. -/
structure Core where
  blocks   : FMap RegBlock
  l1       : List L1Line
  gen      : Bool
  sweeping : Bool
  spsize   : Nat
  undo     : List Undo
  hwb      : List HwbEntry
  adds     : List PendingAdd
  fills    : List Fill
  tlb      : List Trans
  watches  : List Watch
  items    : List W32
  itemGrid : Option (Nat × Nat)
  griddle  : Griddle
  stopped  : Bool
  wakeBits : BitVec 9
  wakePend : BitVec 9
  wakes    : W32
  /-- The tick at which a wake event reached the stopped core; it has woken and nothing has issued yet (R186, R187). -/
  woken    : Option Nat
  settling : Bool
  /-- Instructions that its strands have issued: the number of the latest cycle of an issue (R182; DEDUCED, log 105). -/
  cycle    : Nat
  corrected : Nat
  /-- Lane writes of exited strands and of squashed regions that land and are discarded (R193, R203), and the lane rename
  units that the squashed ones hold until then. -/
  orphans  : List Nat
  lateUnits : FMap Nat := []
  deriving DecidableEq, Repr

/-- R429: the clock step of a hearth. -/
structure HearthStep where
  step   : BitVec 4
  pend   : Bool
  target : BitVec 4
  since  : Nat
  stops  : W32
  replays : Nat
  raised : Bool
  deriving DecidableEq, Repr

/-! ### Homes -/

/-- R211: the tag of a held effect. -/
structure Tag where
  core   : Nat
  slot   : Nat
  serial : BitVec 8
  inc    : BitVec 8
  deriving DecidableEq, Repr

/-- What a held effect does at its home: masked bytes, a counter add, a reduction. -/
inductive EffectKind where
  | write (bytes : FMap Byte)
  | add (addr : Nat) (amount : Word)
  | reduce (op type : BitVec 4) (addr : Nat) (value : Word)
  deriving DecidableEq, Repr

/-- R202, R213, R215: where a held effect stands. -/
inductive Stage where
  | flight | ingress | pending
  | done (gwct : Nat) (overflow : Bool)
  deriving DecidableEq, Repr

/-- A held effect sent to a home (0 to 11 an isle, 12 the I/O die). -/
structure Effect where
  id     : Nat
  /-- The partition and grid that it is charged to. -/
  part   : Nat
  grid   : Nat
  tag    : Tag
  region : Nat
  home   : Nat
  kind   : EffectKind
  stage  : Stage
  /-- Order of acceptance at the home. -/
  order  : Nat
  /-- The entry held: 0 none, 1 reserved, 2 shared (R214). -/
  entry  : Nat
  /-- Release tick of an effect that carries its own CLOSE (R219, R284). -/
  ownClose : Option Nat
  copy   : Option Nat
  slice  : Option (Nat × Nat × Nat)
  /-- Issued by a lane instruction (R236, R258). -/
  lane   : Bool
  /-- A store, whose bytes its core's copy of the line holds until its completion arrives (R226, R232). -/
  store  : Bool
  seq    : Word
  place  : Word
  /-- The home that keeps its tag's record, when a `claim` or a move has sent it on to another home (R274, R401). -/
  via    : Option Nat := none
  deriving DecidableEq, Repr

/-- R212: a CLOSE or SQUASH, waiting for a credit (`sent` none) or on its way. `region` is the region that its tag
names (DESIGN CHOICE, log 33). -/
structure Msg where
  home   : Nat
  tag    : Tag
  region : Nat
  squash : Bool
  ec     : Nat
  n      : Nat
  w      : Nat
  sent   : Option Nat
  deriving DecidableEq, Repr

/-- R213: a home's record of a tag, which names a region (DESIGN CHOICE, log 33). -/
structure TagRec where
  home     : Nat
  tag      : Tag
  region   : Nat
  close    : Option (Nat × Nat)
  squashed : Bool
  n        : Nat
  arrived  : Nat
  deriving DecidableEq, Repr

/-- R251: a request at a PCIe link partner, of a strand's atomic or of a released reduction. -/
structure LinkReq where
  id      : Nat
  core    : Nat
  slot    : Nat
  strand  : Bool
  addr    : Nat
  op      : BitVec 4
  type    : BitVec 4
  value   : Word
  compare : Word
  lane    : Nat
  /-- A read has returned this old value and its CAS is awaited. -/
  expect  : Option Word
  result  : Option Word
  refused : Bool
  /-- It carries the TEE bit (R402). -/
  tee     : Bool := false
  /-- The incarnation of its issuer's die (R423). -/
  inc     : BitVec 8 := 0
  deriving DecidableEq, Repr

/-! ### The hub -/

/-- R319: a launch record. -/
structure LaunchRec where
  scode   : Word
  lcode   : Word
  mcode   : Word
  ssize   : Nat
  lunits  : Nat
  munits  : Nat
  gblocks : Nat
  bstr    : Nat
  gang    : Nat
  cores   : Bool
  prio    : Nat
  queue   : Nat
  vblk    : Nat
  windows : Nat
  nslice  : Nat
  scratch : Nat
  acct    : Nat
  arg     : Word
  ctr     : Word
  amt     : Word
  saddr   : Word
  iqfirst : W32
  iqcount : Nat
  sbase   : Word
  sstride : Nat
  spool   : Word
  parent  : Nat
  slots   : List (BitVec 128)
  deriving DecidableEq, Repr

/-- A record waiting in a package queue, with the tick of its arrival and its depth (R129, R327). -/
structure QueuedRec where
  record  : LaunchRec
  arrived : Nat
  depth   : Nat
  parent  : Nat
  /-- It tells apart the records that wait (R337). -/
  id : Nat := 0
  /-- Rank of its source among records of one tick: the port, 2 for a trigger, 3 for a store to QPUSH, 4 and the core for
  `glaunch` (R327; DEDUCED, log 118). -/
  source  : Nat := 0
  deriving DecidableEq, Repr

/-- R281: a slice record. -/
structure SliceRec where
  gen     : BitVec 20
  valid   : Bool
  ready   : Bool
  width32 : Bool
  tag     : BitVec 16
  nbytes  : BitVec 16
  nframes : BitVec 11
  lmax    : BitVec 10
  topoff  : BitVec 16
  exec    : Word
  refs    : BitVec 16
  deriving DecidableEq, Repr

/-- R178, R330, R368: where a gang stands. -/
inductive GangState where
  | waiting | resident | saving | saved | parked | retired
  deriving DecidableEq, Repr

/-- R380: a fault record that is to be posted: launch number, CODE, tick, trap record, and its strand entries as bytes. -/
structure FaultReport where
  launch : Nat
  code   : Nat
  tick   : Nat
  trap   : Option TrapRec
  count  : Nat
  body   : List Byte
  deriving DecidableEq, Repr

/-- A gang of a grid. -/
structure Gang where
  id      : Nat
  index   : Nat
  first   : Nat
  count   : Nat
  state   : GangState
  core    : Nat
  placed  : Nat
  /-- Last placement or PREEMPT decision (R337). -/
  quantum : Nat
  filler  : Bool
  retries : Nat
  /-- The context image (R369), with the base of its place in the launch arena. -/
  image   : Option Nat := none
  strands : List Strand
  blocks  : List (Nat × Block)
  /-- Held from placement: its FAULT is undecided (R378). -/
  hold    : Bool
  /-- The trap of a FAULT that is raised once the gang is saved, with the faulting core (R348). -/
  fault   : Option (TrapRec × Nat)
  deriving DecidableEq, Repr

/-- An accepted grid (R330). -/
structure Grid where
  part    : Nat
  launch  : Nat
  record  : LaunchRec
  depth   : Nat
  compat  : Bool
  arrived : Nat
  gangs   : List Gang
  slices  : FMap SliceRec
  /-- Physical base of a pool in the launch arena, when `pooled` says that it has taken one. -/
  pool    : Nat
  pooled  : Bool := false
  /-- Lowest item not yet moved, and items returned (R334). -/
  cursor  : Nat
  returned : List W32
  gwct    : Nat
  parked  : Bool
  killed  : Bool
  /-- A `park` whose gangs are not all saved yet: its tick and trap (R380). -/
  report  : Option (Nat × Option TrapRec)
  /-- Completion code, once it ends (R332), and the step of completion reached. -/
  code    : Option Nat
  step    : Nat
  children : Nat
  deriving DecidableEq, Repr

/-- R337, R348: a scheduling event. Kind 0 DISPATCH, 1 PREEMPT, 2 FAULT, 3 ENGINE. -/
structure DecEvent where
  kind   : Nat
  sub    : Nat
  tick   : Nat
  hearth : Nat
  core   : Nat
  gang   : Nat
  grid   : Nat
  info   : Word
  waiter : Nat
  winfo  : Word
  code   : Nat
  retries : Nat
  since  : Nat
  mask   : Nat
  trap   : Option TrapRec
  channel : Option Nat
  deriving DecidableEq, Repr

/-- R340: a decision in progress. -/
structure Interp where
  regs   : FMap Word
  eq     : Bool
  ltn    : Bool
  lts    : Bool
  pc     : Nat
  cycles : Nat
  /-- The tick at which the decision began. -/
  began  : Nat
  event  : DecEvent
  /-- The snapshot: word w of entry e of view v under key 65536 v + 16 e + w; 0 when unlisted. -/
  view   : FMap Word
  policy : List (BitVec 16)
  deriving DecidableEq, Repr

/-- R328: a queue block. -/
structure QueueBlock where
  records : List QueuedRec
  lastst  : BitVec 8
  pushes  : W32
  trec    : Word
  tctr    : Word
  ttgt    : Word
  placed  : Nat
  lastdsp : Nat
  /-- Doorbells and triggers whose records are yet to be copied: address and source (R246, R327). -/
  todo    : List (Word × Nat) := []
  deriving DecidableEq, Repr

/-- R366, R373: a budget account with its counters. `frac` is the charge below one unit, in
1/262,144,000 of a unit. -/
structure Account where
  balance  : Word
  refill   : Word
  period   : Word
  cap      : Word
  rate     : BitVec 16
  valid    : Bool
  refillAt : Nat
  frac     : Nat
  charged  : Word
  bytes    : Word
  gross    : FMap Word
  net      : FMap Word
  /-- Tick up to which core time has been charged (R367). -/
  upto     : Nat
  deriving DecidableEq, Repr

/-- R377: an entry of the trap table. -/
structure TrapEntry where
  scode   : Word
  hoff    : Word
  handled : Word
  valid   : Word
  deriving DecidableEq, Repr

/-- R402: the state of a TDISP interface. -/
inductive TdispState where
  | unlocked | locked | run | error
  deriving DecidableEq, Repr

/-- R402, R405: a TDISP interface. -/
structure Tdisp where
  state : TdispState
  port  : Nat
  nonce : BitVec 256
  tick  : Nat
  epoch : W32
  since : Nat
  /-- The ERROR actions of R404 have been taken. -/
  acted : Bool
  deriving DecidableEq, Repr

/-- R274, R417: a `claim` that holds its frames at their homes, with its place in the order of claims and moves. -/
structure Claim where
  order  : Nat
  frames : List Nat
  deriving DecidableEq, Repr

/-- R400, R401: the move of a partition's migration registers (or a frame retirement, R416). -/
structure Move where
  src    : Nat
  dst    : Nat
  entry  : Nat
  old    : Word
  /-- Its place in the order of moves that name a frame (R417). -/
  order  : Nat
  /-- The switch tick, and the tick that the drain waits out. -/
  switch : Option Nat
  drain  : Nat
  deriving DecidableEq, Repr

/-- A partition and the registers of its function BAR0 (R385). -/
structure Partition where
  /-- The partition record in force, and its staged copy: 16 words each (R363, R438). -/
  record   : FMap Word
  staged   : FMap Word
  busy     : Bool
  refused  : Bool
  reason   : BitVec 8
  /-- Resources awaiting their hand-over: kind (0 hearth, 1 engine, 2 channel) and index (R364). -/
  awaiting : List (Nat × Nat)
  dpbase   : Word
  dplen    : BitVec 11
  dpswap   : Word
  dpstate  : BitVec 4
  dpcause  : BitVec 8
  dpreason : BitVec 8
  dpword   : BitVec 16
  dpcnt    : Word
  dpovr    : Word
  dpref    : Word
  dpquant  : Word
  /-- Blob under check, shadow policy with its swap tick, active policy (R357). -/
  checking : Option (Word × Nat × Word)
  shadow   : Option (List (BitVec 16) × Nat)
  policy   : List (BitVec 16)
  interp   : Option Interp
  events   : List DecEvent
  /-- The tick of the last decision for a hearth, while that decision held (R337). -/
  heldAt   : FMap Nat
  /-- Waiters for which PREEMPT SUB 1 has been raised: queue, and launch number or the record's identifier (R337). -/
  waiters  : List (Nat × Nat × Nat)
  spsize   : Nat
  dgrid    : Word
  halt     : Bool
  lstep    : Bool
  brkarm   : Bool
  dstrand  : BitVec 36
  ptroot   : Word
  tdone    : Nat
  horizon  : Nat
  msrc     : Word
  mdst     : Word
  mstate   : BitVec 2
  mreason  : BitVec 8
  /-- A move has begun, and the engine has not read the entry yet (R401 step 1, R395). -/
  mcheck   : Bool := false
  move     : Option Move
  gsel     : Word
  queues   : FMap QueueBlock
  traps    : FMap TrapEntry
  accounts : FMap Account
  nextLaunch : Nat
  grids    : List Grid
  /-- Ranges taken from the stack arena and the launch arena: base and length (R324). -/
  stackUse   : List (Nat × Nat)
  arena    : List (Nat × Nat)
  /-- Fault records posted: address, launch number, sequence number (R380). -/
  faults   : List (Nat × Nat × Nat)
  /-- Fault records that are not written yet, oldest first: what they list must be visible (R380). -/
  reports  : List FaultReport := []
  faultSeq : Nat
  /-- The STALLED masks of hearths for which DISPATCH SUB 3 has been raised, and the tick at which a stalled collective moved
  again while a filler gang was resident (R360). -/
  stallSeen : FMap Nat := []
  withdraw  : Option Nat := none
  tdisp    : Tdisp
  deriving DecidableEq, Repr

/-! ### Engines, ports, package -/

/-- R269, R270: a copy, with the engine of its hearth; a `cpy` is one row. -/
structure Copy where
  id     : Nat
  part   : Nat
  grid   : Nat
  gang   : Nat
  acct   : Nat
  core   : Nat
  slot   : Nat
  /-- The number of the strand in its block (R191). -/
  number : Nat
  tag    : Tag
  region : Nat
  src    : Word
  dst    : Word
  rowb   : Nat
  rows   : Nat
  sstr   : Word
  dstr   : Word
  ctr    : Word
  amt    : Word
  engine : Nat
  /-- The engine has taken it from the copy queue; it is active; suspended by a decision (R359); or
  paused while its gang is saved (R369). -/
  started : Bool
  active : Bool
  suspended : Bool
  paused : Bool
  /-- Bytes read so far, and those still staged, by position in the copy's data. -/
  readN  : Nat
  staged : FMap Byte
  /-- The chunk that cannot be moved, and the status it gives. -/
  failAt : Option (Nat × Nat)
  /-- Once its region has cleared: ec, and the windows Q_die and Q_pkg of the region. -/
  cleared : Option (Nat × Nat × Nat)
  /-- Chunks sent so far, effects awaiting completion, and the largest GWCT. -/
  chunks : Nat
  awaits : List Nat
  gwct   : Nat
  added  : Bool
  status : Nat
  donek  : Nat
  done   : Bool
  /-- Holders for which this copy, waiting, has raised an ENGINE event (R358). -/
  raised : List Nat
  /-- The block of the strand that issued it (R180, R270). -/
  block  : Nat := 0
  /-- When the engine last took a chunk of it to read and to write, as identifiers count (R358). -/
  readTurn : Nat := 0
  turn   : Nat := 0
  deriving DecidableEq, Repr

/-- R275: a collective descriptor in a channel. -/
structure CollDesc where
  part    : Nat
  grid    : Nat
  acct    : Nat
  op      : BitVec 8
  dtype   : BitVec 4
  group   : Nat
  attempt : W32
  src     : Word
  dst     : Word
  count   : Nat
  ctr     : Word
  amt     : Word
  root    : Nat
  /-- Elements done, largest GWCT of its writes, and whether it was aborted (R276, R422). -/
  doneN   : Nat
  gwct    : Nat
  aborted : Bool
  /-- Running descriptors for which this one, waiting, has raised an ENGINE event (R358). -/
  raised  : List Nat
  id      : Nat := 0
  deriving DecidableEq, Repr

/-- A collective channel (R358): its descriptors in order, the tick of its last movement. -/
structure Channel where
  descs   : List CollDesc
  moved   : Nat
  stalled : Bool
  deriving DecidableEq, Repr

/-- R406, R421: a collective group, with the external straits that it runs over. -/
structure Group where
  owner   : Nat
  ranks   : Nat
  rank    : Nat
  straits : BitVec 18
  attempt : W32
  deriving DecidableEq, Repr

/-- R388, R389: a piece of a posted write at its route. -/
structure Piece where
  seq   : Nat
  route : Nat
  bytes : FMap Byte
  /-- Performed, and its ACK on the way. -/
  performed : Bool
  deriving DecidableEq, Repr

/-- R392, R402: what goes out through a port: bytes at an isle-14 address, a read of the line at one, or the MSI-X message of a
partition's function; with the TEE bit. -/
structure Outbound where
  addr  : Nat
  bytes : FMap Byte
  tee   : Bool
  msix  : Option Nat
  read  : Bool := false
  deriving DecidableEq, Repr

/-- R384, R388: a host port. -/
structure Port where
  up      : Bool
  pserve  : BitVec 16
  refused : Word
  nextSeq : Nat
  pieces  : List Piece
  /-- Grant last sent to each route and grant received there (R389). -/
  granted : FMap Nat
  seen    : FMap Nat
  /-- Data of the last completed non-posted read; none for Unsupported Request (R391, R408). -/
  reply   : Option (List Byte)
  /-- Device writes and reads and MSI-X messages handed over to the port, oldest first (R392, R402). -/
  egress  : List Outbound
  /-- MSI-X messages that wait for earlier writes of their function: the partition, and the identifier that earlier effects
  precede (R392). -/
  messages : List (Nat × Nat) := []
  deriving DecidableEq, Repr

/-- R407, R418, R419: a strait. -/
structure Strait where
  up     : Bool
  width  : BitVec 4
  peer   : BitVec 16
  stale  : W32
  lanes  : Nat
  retraining : Option Nat
  cost   : Nat
  /-- Abort tokens that have left over it: group and attempt, oldest first (R422). -/
  tokens : List (Nat × W32) := []
  deriving DecidableEq, Repr

/-- R411: an error record. -/
structure ErrRec where
  kind   : BitVec 8
  sev    : BitVec 3
  source : BitVec 16
  seq    : W32
  time   : Nat
  addr   : Word
  part   : Option Nat
  count  : BitVec 24
  detail : W32
  deriving DecidableEq, Repr

/-- R415: a bad-frame entry of an isle. -/
structure BadFrame where
  isle  : Nat
  frame : BitVec 23
  spare : BitVec 12
  why   : BitVec 8
  deriving DecidableEq, Repr

/-- R197: the fields of a QCFG register. -/
structure Qcfg where
  qcore    : BitVec 16
  qdie     : BitVec 16
  qpkg     : BitVec 16
  replayTh : BitVec 16
  deriving DecidableEq, Repr

/-- R431: the fields of PWRCTL. -/
structure Pwrctl where
  ramp  : BitVec 9
  floor : BitVec 12
  cap   : BitVec 12
  deriving DecidableEq, Repr

/-- R434: a telemetry record's varying fields. -/
structure Telemetry where
  pstart  : Nat
  ptp     : Option Word
  seq     : W32
  locked  : Bool
  offjump : Bool
  paced   : Bool
  filled  : Bool
  capped  : Bool
  m       : Measures
  pmin    : BitVec 16
  pmax    : BitVec 16
  replays : W32
  replayH : BitVec 8
  replayEv : BitVec 8
  ptperr  : W32
  deriving DecidableEq, Repr

/-- R427: the registers of IEEE 1588 time. -/
structure Ptp where
  offset  : Word
  locked  : Bool
  offjump : Bool
  err     : W32
  /-- OFFJUMP of the running telemetry period. -/
  period  : Bool
  /-- Lock has been gained since the reset (R428), and the PTP time of the start of the running telemetry period. -/
  seen    : Bool
  start   : Option Word
  deriving DecidableEq, Repr

/-- R432: the ramp limiter. -/
structure Ramp where
  /-- Permitted power in mW; none before the first interval. -/
  level  : Option Nat
  demand : Nat
  paced  : Bool
  filled : Bool
  capped : Bool
  pmin   : Nat
  pmax   : Nat
  last   : Nat
  deriving DecidableEq, Repr

/-- R436, R437: firmware and attestation. -/
structure Firmware where
  fwaddr : Word
  fwlen  : W32
  state  : BitVec 2
  reason : BitVec 8
  armed  : Bool
  staged : Word
  fwver  : Word
  minver : Word
  keyGen : Nat
  keyIndex : Nat
  /-- An ACT that is held under R403. -/
  heldAct : Bool
  /-- The measurement of the running firmware, none of the image that the module came with, and of the staged image (R405). -/
  measure : Option (BitVec 512) := none
  stagedMeasure : BitVec 512 := 0
  /-- Zhevwell's log of locks that found ARMED set: tick, running version, armed version (R436). -/
  log : List (Nat × Word × Word) := []
  deriving DecidableEq, Repr

/-- R194, R195: a sensor report. -/
structure Report where
  id      : Nat
  kind    : SensorKind
  place   : Nat
  second  : Bool
  time    : Nat
  arrived : Option Nat
  /-- Cores still to be reached. -/
  cores   : List Nat
  deriving DecidableEq, Repr

/-- R416: the frame-retirement registers. -/
structure Retire where
  frame  : Word
  state  : BitVec 2
  reason : BitVec 8
  move   : Option Move
  deriving DecidableEq, Repr

/-- What signed flash holds (R4, R197, R415, R431, R435, R437): the persistent settings, the policy keys that the semaphore owner
has registered, the certificate of the identity key with its next one-time index, and those of the attestation key
generations, by generation. -/
structure Flash where
  qcfg   : FMap Qcfg
  pwrctl : Pwrctl
  bad    : List BadFrame
  inc    : FMap (BitVec 8)
  roles  : FMap Nat
  policyKeys : FMap Word := []
  identityCert : List Byte := []
  idIndex : Nat := 0
  certs  : FMap (List Byte) := []
  deriving DecidableEq, Repr

/-- R424: a compute die that drains for its reset, since a tick. -/
structure DieDrain where
  die   : Nat
  since : Nat
  deriving DecidableEq, Repr

/-- The state of the module. -/
structure State where
  /-- Package time (R2). One clock serves every die: no reading differs from another's (DESIGN CHOICE, log 121). -/
  now     : Nat
  /-- Which agent moves next (DESIGN CHOICE, log 2). -/
  turns   : List Turn
  agent   : Agent
  /-- The counter that free values are applied to (DESIGN CHOICE, log 3). -/
  fresh   : Nat
  /-- The next identifier of a region, effect, operation, copy, block or gang; 0 names none (DESIGN CHOICE, log 3). -/
  nextId  : Nat
  /-- Released values of isles 0 to 14 by physical address (R223); an unlisted byte reads 0 (DESIGN CHOICE, log 1). -/
  mem     : Memory
  /-- Lines that carry an uncorrectable-error mark (R250). -/
  poison  : List Nat
  /-- Resident strands under key 64 core + slot. -/
  strands : FMap Strand
  /-- Resident blocks by identifier. -/
  blocks  : FMap Block
  cores   : FMap Core
  hearths : FMap HearthStep
  qcfg    : FMap Qcfg
  /-- INC of every die: 0 to 7 the compute dies, 8 and i isle i, 22 the I/O die (R423). -/
  incs    : FMap (BitVec 8)
  /-- The last heartbeat that a die's earlier incarnation sent, and the latest of those that a home's ingress has dropped: key
  16 die + home (R423). -/
  oldBeats : FMap Nat
  lostBeats : FMap Nat
  drains  : List DieDrain
  effects : List Effect
  msgs    : List Msg
  records : List TagRec
  /-- Credits taken, under key 16 core + home (R212). -/
  credits : FMap Nat
  /-- Last heartbeat sent by a die, and the latest sent tick a home has received: key 16 die + home. -/
  beats   : FMap Nat
  heard   : FMap Nat
  /-- The lease horizon of a line (R229). -/
  horizon : FMap Nat
  /-- Homes moved by `claim`, by frame number (R224). -/
  homeMap : FMap Nat
  /-- Halves of lines owned by a CXL host, by half number, in the order of grants (R246, R395). -/
  owned   : List Nat
  /-- The port through which a half was granted, and the halves that full banks recall (R395). -/
  ownedBy : FMap Nat
  recalled : List Nat
  /-- The `claim` of a strand (64 × core + slot) that has reached the home map and has not switched yet (R274, R417). -/
  claims  : FMap Claim
  /-- Fills that a die's reset left under way: core, line, and whether the home has answered (R216, R423). -/
  stale   : List (Nat × Nat × Bool)
  /-- Fills of windows that it left under way: block, chunk, core and address (R425). -/
  staleWins : List (Nat × Nat × Nat × Nat)
  /-- Configuration registers, 16 × function + register: function 0 is PF0, with VF Enable, NumVFs and the six VF BARs;
  p + 1 is partition p's, with Command, Device Control, the MSI-X capability and table location, and BAR0 to BAR5 (R403). -/
  config  : FMap Word
  /-- Watches at the homes (R267). -/
  watches : List Watch
  links   : List LinkReq
  copies  : List Copy
  channels : FMap Channel
  groups  : FMap Group
  parts   : FMap Partition
  reports : List Report
  /-- CSEM (R386). -/
  owner   : Nat
  epoch   : W32
  /-- The tick of the TAKE that made the present owner, for a TAKE of the other port at the same tick (R386). -/
  takeAt  : Option Nat
  ports   : FMap Port
  straits : FMap Strait
  /-- Pairs of dies, 23 from + to, whose traffic stays on its route until that has drained: the alternate one or not (R419). -/
  routes  : FMap Bool
  /-- The error ring, DROPPED, SEQ by source, merged counts by source and kind with their DETAIL, Zhevwell's log. -/
  ring    : List ErrRec
  dropped : W32
  errSeq  : FMap Nat
  merged  : FMap (Nat × Nat)
  errLog  : List ErrRec
  retire  : Retire
  ptp     : Ptp
  pwrctl  : Pwrctl
  ramp    : Ramp
  telSeq  : W32
  telemetry : List Telemetry
  telNext : Nat
  /-- Records of periods that have ended and are not yet sent (R434), but for their measures. -/
  telWait : List Telemetry
  fw      : Firmware
  flash   : Flash
  /-- The tick of the first accepted write that signed flash does not hold yet: of a die's QCFG, or under 8 of PWRCTL
  (R197, R431). -/
  uncommitted : FMap Nat
  deriving DecidableEq, Repr

/-! ### Values at reset -/

/-- A griddle that no block holds (R292). -/
def Griddle.reset : Griddle :=
  { held := false, holder := 0, run := false, latch := none, next := 0, tiles := [], segs := [],
    waiting := none }

/-- A core after reset: every register block FREE, no line, no translation. -/
def Core.reset : Core :=
  { blocks := [], l1 := [], gen := false, sweeping := false, spsize := 0, undo := [], hwb := [],
    adds := [], fills := [], tlb := [], watches := [], items := [], itemGrid := none,
    griddle := Griddle.reset, stopped := false, wakeBits := 0, wakePend := 0, wakes := 0,
    woken := none, settling := false, cycle := 0,
    corrected := 0, orphans := [] }

/-- R429: a hearth after reset runs at step 7. -/
def HearthStep.reset : HearthStep :=
  { step := 7, pend := false, target := 7, since := 0, stops := 0, replays := 0, raised := false }

/-- R328: an empty queue block. -/
def QueueBlock.reset : QueueBlock :=
  { records := [], lastst := 0, pushes := 0, trec := 0, tctr := 0, ttgt := 0, placed := 0, lastdsp := 0 }

/-- R366: an account after reset; RATE is 1. -/
def Account.reset : Account :=
  { balance := 0, refill := 0, period := 0, cap := 0, rate := 1, valid := false, refillAt := 0, frac := 0,
    charged := 0, bytes := 0, gross := [], net := [], upto := 0 }

/-- R402: an interface after reset. -/
def Tdisp.reset : Tdisp :=
  { state := .unlocked, port := 0, nonce := 0, tick := 0, epoch := 0, since := 0, acted := false }

/-- A partition after reset: no record, no policy, no grid. -/
def Partition.reset : Partition :=
  { record := [], staged := [], busy := false, refused := false, reason := 0, awaiting := [],
    dpbase := 0, dplen := 0, dpswap := 0, dpstate := 0, dpcause := 0, dpreason := 0, dpword := 0,
    dpcnt := 0, dpovr := 0, dpref := 0, dpquant := 0, checking := none, shadow := none, policy := [],
    interp := none, events := [], heldAt := [], waiters := [], spsize := 0, dgrid := 0, halt := false, lstep := false,
    brkarm := false, dstrand := 0, ptroot := 0, tdone := 0, horizon := 0, msrc := 0, mdst := 0, mstate := 0,
    mreason := 0, move := none, gsel := 0, queues := [], traps := [], accounts := [], nextLaunch := 1,
    grids := [], stackUse := [], arena := [], faults := [], faultSeq := 0, tdisp := Tdisp.reset }

/-- A port after reset: linked, serving no partition (R384; the link state is DESIGN CHOICE, log 5). -/
def Port.reset : Port :=
  { up := true, pserve := 0, refused := 0, nextSeq := 0, pieces := [], granted := [], seen := [],
    reply := none, egress := [] }

/-- R407: a strait after reset. -/
def Strait.reset : Strait :=
  { up := false, width := 0, peer := 0, stale := 0, lanes := 8, retraining := none, cost := 2 }

/-- R406: a group that no partition owns (owner 16). -/
def Group.reset : Group := { owner := 16, ranks := 0, rank := 0, straits := 0, attempt := 0 }

/-- An idle channel. -/
def Channel.reset : Channel := { descs := [], moved := 0, stalled := false }

/-- R197: the least windows. -/
def Qcfg.reset : Qcfg := { qcore := 32, qdie := 64, qpkg := 128, replayTh := 0 }

/-- R431: PWRCTL when flash holds none. -/
def Pwrctl.reset : Pwrctl := { ramp := 40, floor := 0, cap := 3000 }

/-- Signed flash of a module that nothing has been committed to (DESIGN CHOICE, log 5). -/
def Flash.reset : Flash := { qcfg := [], pwrctl := Pwrctl.reset, bad := [], inc := [], roles := [] }

/-- Firmware state of such a module (DESIGN CHOICE, log 5). -/
def Firmware.reset : Firmware :=
  { fwaddr := 0, fwlen := 0, state := 0, reason := 0, armed := false, staged := 0, fwver := 0, minver := 0,
    keyGen := 0, keyIndex := 0, heldAct := false }

/-- The ramp limiter before its first interval (R432). -/
def Ramp.reset : Ramp :=
  { level := none, demand := 0, paced := false, filled := false, capped := false, pmin := 0, pmax := 0, last := 0 }

/-- The module right after reset: package time 0 (R426), no partition, no grid, no strand, no effect
under way, and the persistent settings of signed flash (R4; DESIGN CHOICE, log 5). -/
def State.reset : State :=
  { now := 0, turns := [], agent := .none, fresh := 0, nextId := 1, mem := [], poison := [], strands := [],
    blocks := [], cores := [], hearths := [], qcfg := [], incs := [], oldBeats := [], lostBeats := [], drains := [], effects := [], msgs := [],
    records := [], credits := [], beats := [], heard := [], horizon := [], homeMap := [], owned := [],
    ownedBy := [], recalled := [], claims := [], stale := [], staleWins := [], config := [],
    watches := [], links := [], copies := [], channels := [], groups := [], parts := [], reports := [],
    owner := 0, epoch := 0, takeAt := none, ports := [], straits := [], routes := [], ring := [], dropped := 0, errSeq := [], merged := [],
    errLog := [], retire := { frame := 0, state := 0, reason := 0, move := none },
    ptp := { offset := 0, locked := false, offjump := false, err := 0, period := false, seen := false, start := none },
    pwrctl := Pwrctl.reset, ramp := Ramp.reset, telSeq := 0, telemetry := [], telNext := 0, telWait := [],
    fw := Firmware.reset, flash := Flash.reset, uncommitted := [] }

end Sys2Proof.Machine
end

