-- ==== Sys2Proof/Machine/Ops.lean ====
section
/-! DEFINITION. The named operations over the state: registers, strands, cores, partitions; region
heads, closes and squashes (spec/07 R194 to R210); raising a trap, taking it and returning from its
handler (spec/18 R374 to R378). -/

namespace Sys2Proof.Machine

open Sys2Proof

/-- What a meaning answers. -/
abbrev Out := Host.Outcome State Fault Refusal

/-! ### Places -/

/-- The key of a strand: 64 slots on each core (R10). -/
def skey (c l : Nat) : Nat := 64 * c + l

/-- The strand in a slot, when one is resident. -/
def strandAt (s : State) (c l : Nat) : Option Strand := mget s.strands (skey c l)

/-- Puts a strand into its slot. -/
def putStrand (s : State) (c l : Nat) (t : Strand) : State := { s with strands := mset s.strands (skey c l) t }

/-- Changes the strand in a slot, when one is resident. -/
def modStrand (s : State) (c l : Nat) (f : Strand → Strand) : State :=
  match strandAt s c l with
  | some t => putStrand s c l (f t)
  | none => s

/-- A core; one that nothing has touched is as after reset. -/
def coreOf (s : State) (c : Nat) : Core := mgetD s.cores c Core.reset
def putCore (s : State) (c : Nat) (k : Core) : State := { s with cores := mset s.cores c k }
def modCore (s : State) (c : Nat) (f : Core → Core) : State := putCore s c (f (coreOf s c))

/-- A partition; one that nothing has touched is as after reset. -/
def partAt (s : State) (p : Nat) : Partition := mgetD s.parts p Partition.reset
def putPart (s : State) (p : Nat) (x : Partition) : State := { s with parts := mset s.parts p x }
def modPart (s : State) (p : Nat) (f : Partition → Partition) : State := putPart s p (f (partAt s p))

/-- A block by its identifier. -/
def blockAt (s : State) (b : Nat) : Option Block := mget s.blocks b
def modBlock (s : State) (b : Nat) (f : Block → Block) : State := { s with blocks := mmod s.blocks b f }

/-- A grid of a partition by its launch number. -/
def gridAt (s : State) (p g : Nat) : Option Grid := (partAt s p).grids.find? fun x => x.launch == g
def modGrid (s : State) (p g : Nat) (f : Grid → Grid) : State :=
  modPart s p fun x => { x with grids := x.grids.map fun y => if y.launch == g then f y else y }

/-- A gang of a partition by its identifier, with the launch number of its grid. -/
def gangAt (s : State) (p i : Nat) : Option (Nat × Gang) :=
  (partAt s p).grids.findSome? fun g => (g.gangs.find? fun x => x.id == i).map fun x => (g.launch, x)
def modGang (s : State) (p i : Nat) (f : Gang → Gang) : State :=
  modPart s p fun x => { x with grids := x.grids.map fun y =>
    { y with gangs := y.gangs.map fun z => if z.id == i then f z else z } }

/-- R1, R429: the compute die and the hearth of a core. -/
def dieOf (c : Nat) : Nat := c / 96
def hearthOf (c : Nat) : Nat := c / 4

/-- R251, R423: a request that the strand in a slot has at the link partner, of its die's present incarnation. -/
def ownLink (s : State) (c l : Nat) (q : LinkReq) : Bool :=
  q.strand && q.core == c && q.slot == l && q.inc == mgetD s.incs (dieOf c) 0

/-- R429, R430: the clock step of a hearth, and whether a change of it has stopped the hearth's cores, griddles and
copy engine. -/
def hearthAt (s : State) (h : Nat) : HearthStep := mgetD s.hearths h HearthStep.reset
def hearthStopped (s : State) (h : Nat) : Bool := (hearthAt s h).pend

/-- The next identifier (DESIGN CHOICE, log 3). -/
def withId (s : State) : Nat × State := (s.nextId, { s with nextId := s.nextId + 1 })

/-- The next argument of a free value (DESIGN CHOICE, log 3). -/
def withFresh (s : State) : Nat × State := (s.fresh, { s with fresh := s.fresh + 1 })

/-- R197: the windows in force on a core's die. -/
def qcfgAt (s : State) (d : Nat) : Qcfg := mgetD s.qcfg d Qcfg.reset
def qCore (s : State) (c : Nat) : Nat := (qcfgAt s (dieOf c)).qcore.toNat
def qDie (s : State) (c : Nat) : Nat := max (qcfgAt s (dieOf c)).qdie.toNat (qCore s c)
def qPkg (s : State) (c : Nat) : Nat := max (qcfgAt s (dieOf c)).qpkg.toNat (qDie s c)

/-! ### Scalar registers and control state -/

/-- R24: a scalar register; s0 reads 0. -/
def sget (x : ScalarSide) (r : Nat) : Word := if r = 0 then 0 else mgetD x.sregs r 0

/-- R24, R38: writes a scalar register and clears its poison; a write to s0 is discarded. -/
def sput (x : ScalarSide) (r : Nat) (v : Word) : ScalarSide :=
  if r = 0 then x else { x with sregs := mset x.sregs r v, spoison := x.spoison.filter (fun k => k != r) }

/-- What SPC bits [56:2] hold of an address (R30): bits above 56 copy bit 56, bits [1:0] are zero. -/
def canonPc (a : Nat) : Word := BitVec.ofInt 64 (sgn 57 (a / 4 * 4))

/-- A 57-bit canonical address (R223). -/
def canonical (a : Word) : Bool :=
  let top := a.toNat / 2 ^ 56
  top == 0 || top == 255

/-- Address arithmetic of branches (R41): the address plus 4 times a signed offset. -/
def branchTarget (pc : Word) (off : Int) : Word := canonPc (pc + BitVec.ofInt 64 (4 * off)).toNat

/-- Bits [31:0] of EXEC in compatibility mode (R30). -/
def execMask (compat : Bool) (m : Word) : Word := if compat then m &&& 0xFFFFFFFF else m

/-- R20: mailbox n. -/
def mailFull (x : ScalarSide) (n : Nat) : Bool := x.mfull.getLsbD n
def mailPut (x : ScalarSide) (n : Nat) (v : Word) : ScalarSide :=
  { x with mdata := mset x.mdata n v, mfull := x.mfull ||| ((1 : BitVec 8) <<< n),
           mpoison := x.mpoison &&& ~~~((1 : BitVec 8) <<< n) }
/-- R20, R30: a scalar read of mailbox n clears its full bit and its data. -/
def mailTake (x : ScalarSide) (n : Nat) : ScalarSide :=
  { x with mfull := x.mfull &&& ~~~((1 : BitVec 8) <<< n), mdata := mdel x.mdata n }

/-- R16: the count of a completion flag: the operations tagged with it that are outstanding. -/
def flagCount (t : Strand) (n : Nat) : Nat :=
  (t.ops.filter fun o => o.flag == some n || o.flagB == some n).length

/-- R12: clauses in the clause queue, the one that issues included. -/
def queueCount (t : Strand) : Nat := t.st.queue.length + (if t.st.current.isSome then 1 else 0)

/-- R126: the strand status register. -/
def strandStatus (t : Strand) : Word :=
  let flags := (List.range 12).foldl (fun a n => if flagCount t n = 0 then a else a + 2 ^ n) 0
  BitVec.ofNat 64 (t.sc.path.length + (if t.sc.demote then 2 ^ 8 else 0) + flags * 2 ^ 16
    + t.sc.rdepth.toNat * 2 ^ 32 + queueCount t * 2 ^ 48 + t.regions.length * 2 ^ 52)

/-! ### Performance counts (R373) -/

/-- The account a grid is charged to (R366). -/
def acctOf (s : State) (p g : Nat) : Nat :=
  match gridAt s p g with
  | some x => if (mgetD (partAt s p).accounts x.record.acct Account.reset).valid then x.record.acct else 0
  | none => 0

def modAccount (s : State) (p a : Nat) (f : Account → Account) : State :=
  modPart s p fun x => { x with accounts := mset x.accounts a (f (mgetD x.accounts a Account.reset)) }

/-- Adds to a sparse counter. -/
def addCount (m : FMap Nat) (e n : Nat) : FMap Nat := mset m e (mgetD m e 0 + n)
def addWord (m : FMap Word) (e n : Nat) : FMap Word := mset m e (mgetD m e 0 + BitVec.ofNat 64 n)

/-- R373: event `e` occurs `n` times for a strand, in a region of its own (DEDUCED, log 98). -/
def bump (s : State) (c l region e n : Nat) : State :=
  if n = 0 then s else
  match strandAt s c l with
  | none => s
  | some t =>
    let s := modAccount s t.part (acctOf s t.part t.grid) fun a => { a with gross := addWord a.gross e n }
    putStrand s c l { t with regions := t.regions.map fun r =>
      if r.id == region then { r with counts := addCount r.counts e n } else r }

/-- R373: an event that counts in GROSS and NET at once. -/
def bumpBoth (s : State) (p g e n : Nat) : State :=
  modAccount s p (acctOf s p g) fun a => { a with gross := addWord a.gross e n, net := addWord a.net e n }

/-! ### Regions -/

/-- The strand's newest region, when it is open (R198). -/
def openRegion (t : Strand) : Option Region :=
  match t.regions.getLast? with
  | some r => if r.close.isNone then some r else none
  | none => none

/-- The identifier of the newest region; 0 when the strand has none. -/
def openId (t : Strand) : Nat := (openRegion t).elim 0 fun r => r.id

def modRegion (t : Strand) (id : Nat) (f : Region → Region) : Strand :=
  { t with regions := t.regions.map fun r => if r.id == id then f r else r }

def regionAt (t : Strand) (id : Nat) : Option Region := t.regions.find? fun r => r.id == id

/-- R197, R198: a region closes at this tick under the windows in force. -/
def closeRegion (s : State) (c : Nat) (r : Region) : Region :=
  { r with sclose := some (r.sclose.getD s.now), close := some s.now,
           qcore := qCore s c, qdie := qDie s c, qpkg := qPkg s c }

/-- The clauses of regions older than `id` in a stream: what an older lane checkpoint still has to run. -/
def olderClauses (st : LaneStream) (id : Nat) : LaneStream :=
  { queue := st.queue.filter (fun q => q.region < id),
    current := st.current.filter fun r => r.entry.region < id }

/-- Whether a clause of a region is queued or issuing (R119). -/
def hasClause (t : Strand) (id : Nat) : Bool :=
  (t.st.queue.any fun q => q.region == id) || (t.st.current.any fun r => r.entry.region == id)

/-- R119, R198: closes every region whose next head has its scalar checkpoint and whose clauses have all
issued; the next region takes its lane checkpoint then. `busy`: an older region is still open. -/
def settleList (s : State) (c : Nat) (t : Strand) : List Region → Bool → List Region
  | [], _ => []
  | r :: rest, busy =>
    let r := if r.laneHead.isNone && !busy then { r with laneHead := some t.ln } else r
    if r.close.isNone && r.sclose.isSome && !busy && !hasClause t r.id then
      closeRegion s c r :: settleList s c t rest false
    else r :: settleList s c t rest (busy || r.close.isNone)

def settle (s : State) (c l : Nat) : State :=
  modStrand s c l fun t => { t with regions := settleList s c t t.regions false }

/-- R206, R210: every region of the strand closes at this tick. A region whose lane checkpoint is not yet
taken takes it now, with the clauses that older regions still have to run. -/
def closeAll (s : State) (c : Nat) (t : Strand) : List Region :=
  t.regions.map fun r =>
    let r := if r.laneHead.isNone then { r with laneHead := some t.ln, queue := some (olderClauses t.st r.id) } else r
    if r.close.isNone then closeRegion s c r else r

/-- A new region of a strand at this tick (R198, R204: it rests on the strand's older region) (DEDUCED, log 89). -/
def newRegion (s : State) (t : Strand) (explicit : Bool) (head : ScalarSide) (recipe : Option Recipe) : Region :=
  { id := s.nextId, serial := t.serial + 1, explicit := explicit, opened := s.now, sclose := none, close := none,
    ec := none, cleared := false, deps := (t.regions.getLast?.map fun r => r.id).toList,
    qcore := 0, qdie := 0, qpkg := 0, cls := 0, effect := false, sent := [], head := head, laneHead := none,
    queue := none, recipe := recipe, lanes := [], scalars := [], qlines := [], counts := [], adds := [] }

/-- R122, R198: an explicit head: the open region takes its scalar close, the strand's scalar side is
checkpointed and a new region opens. -/
def explicitHead (s : State) (c l : Nat) (recipe : Recipe) : State :=
  match strandAt s c l with
  | none => s
  | some t =>
    let old := t.regions.map fun r => if r.sclose.isNone then { r with sclose := some s.now } else r
    let r := newRegion s t true t.sc (some recipe)
    let t' : Strand := { t with regions := old ++ [r], serial := t.serial + 1, recipe := some recipe, atRegion := false }
    let s' : State := putStrand { s with nextId := s.nextId + 1 } c l t'
    bump (settle s' c l) c l r.id 11 1

/-- R371: the `region` of the explicit head at which a strand has resumed goes on in the region of its REMAT clause. -/
def resumedHead (s : State) (c l : Nat) (recipe : Recipe) : State :=
  match strandAt s c l with
  | none => s
  | some t =>
    bump (putStrand s c l { modRegion t (openId t) (fun r => { r with explicit := true, recipe := some recipe }) with recipe := some recipe })
      c l (openId t) 11 1

/-- R191: a head needs a place among the four unreleased regions of its strand; an implicit head waits for one as well
(DEDUCED, log 116). -/
def headRoom (t : Strand) : Bool := t.regions.length < Config.maxUnreleased

/-- R210: the clauses queued and the rest of the clause that issues belong to a region. -/
def rebindClauses (st : LaneStream) (id : Nat) : LaneStream :=
  { queue := st.queue.map (fun q => { q with region := id }),
    current := st.current.map fun r => { r with entry := { r.entry with region := id } } }

/-- R199, R210, R376: an implicit head, with the scalar side and lane stream given; every earlier region
closes at this tick and queued clauses belong to the new one (DEDUCED, log 103). `res`: what the atomic before it wrote. -/
def implicitHead (s : State) (c l : Nat) (head : ScalarSide) (st : LaneStream) (res : Results := {}) : State :=
  match strandAt s c l with
  | none => s
  | some t =>
    let st' := rebindClauses st s.nextId
    let r : Region := { newRegion s t false head t.recipe with laneHead := some t.ln, queue := some st', results := res }
    let t' : Strand := { t with regions := closeAll s c t ++ [r], serial := t.serial + 1, st := st', atRegion := false }
    let s' : State := putStrand { s with nextId := s.nextId + 1 } c l t'
    bump (bump s' c l r.id 11 1) c l r.id 13 1

/-- R198: closes every region at this tick without opening a new one (R206, R210 step 1). -/
def closeStrand (s : State) (c l : Nat) : State :=
  modStrand s c l fun t => { t with regions := closeAll s c t }

/-- Marks that a region has issued an effect of a class (R196, R210). -/
def markEffect (t : Strand) (id cls : Nat) : Strand :=
  modRegion t id fun r => { r with effect := true, cls := max r.cls cls }

/-- R204: a region of the strand read a value of an unreleased region or segment of the core. -/
def addDeps (t : Strand) (id : Nat) (ds : List Nat) : Strand :=
  let own := t.regions.map fun r => r.id
  modRegion t id fun r => { r with deps := r.deps ++ ds.filter fun d => !(r.deps.contains d || own.contains d) }

/-- The strand slots of a core that hold strands, in ascending order. -/
def residents (s : State) (c : Nat) : List (Nat × Strand) :=
  (s.strands.filter fun e => e.1 / 64 == c).map fun e => (e.1 % 64, e.2)

/-- R204, R296: a region or segment of a core by identifier, as its close tick (its effective close once that is
determined) and the owners it still depends on; none when it is gone. -/
def ownerOf (s : State) (c id : Nat) : Option (Option Nat × List Nat) :=
  let pack (close ec : Option Nat) (deps : List Nat) : Option Nat × List Nat :=
    match ec with | some e => (some e, []) | none => (close, deps)
  match (residents s c).findSome? fun e => regionAt e.2 id with
  | some r => some (pack r.close r.ec r.deps)
  | none => ((coreOf s c).griddle.segs.find? fun g => g.id == id).map fun g => pack g.close g.ec g.deps

/-- R204: the owners reached from these by dependence, which is transitive. -/
def reachDeps (s : State) (c : Nat) : Nat → List Nat → List Nat
  | 0, ds => ds
  | n + 1, ds =>
    let more := ((ds.flatMap fun d => ((ownerOf s c d).map fun o => o.2).getD []).filter fun d => !ds.contains d).eraseDups
    if more.isEmpty then ds else reachDeps s c n (ds ++ more)

/-- Every owner of a core is reached within as many rounds as the core has owners. -/
def allDeps (s : State) (c : Nat) (deps : List Nat) : List Nat :=
  reachDeps s c (((residents s c).map fun e => e.2.regions.length).foldl (· + ·) (coreOf s c).griddle.segs.length) deps

/-- R204: every region and segment that it depends on has closed. Regions and segments that depend on one another
(R296) have one effective close, the largest of their close ticks (DEDUCED, log 35). -/
def depsKnown (s : State) (c : Nat) (deps : List Nat) : Bool :=
  (allDeps s c deps).all fun d => (ownerOf s c d).all fun o => o.1.isSome

/-- R204: the effective close of a region that closed at `cl`. -/
def effectiveClose (s : State) (c cl : Nat) (deps : List Nat) : Nat :=
  (allDeps s c deps).foldl (fun m d => match ownerOf s c d with | some (some e, _) => max m e | _ => m) cl

/-- R200: W(region). -/
def windowOf (r : Region) : Nat := if r.cls = 2 then r.qpkg else if r.cls = 1 then r.qdie else r.qcore

/-- R211: the tag of a region's effects. -/
def tagOf (s : State) (c l : Nat) (serial : BitVec 8) : Tag :=
  { core := c, slot := l, serial := serial, inc := mgetD s.incs (dieOf c) 0 }

/-- R212: sends a CLOSE or SQUASH, or leaves it waiting for one of 16 credits. A message of a tag that
has a record's credit already takes none. -/
def postMsg (s : State) (home : Nat) (tag : Tag) (region : Nat) (squash : Bool) (ec n w : Nat) : State :=
  let s : State := if squash then { s with msgs := s.msgs.filter fun m => !(m.home == home && m.region == region && m.sent.isNone) } else s
  let key := 16 * tag.core + home
  let known := s.msgs.any (fun m => m.home == home && m.region == region && m.sent.isSome)
    || s.records.any (fun r => r.home == home && r.region == region)
  let used := mgetD s.credits key 0
  let m : Msg := { home := home, tag := tag, region := region, squash := squash, ec := ec, n := n, w := w, sent := none }
  if known then { s with msgs := s.msgs ++ [{ m with sent := some s.now }] }
  else if used < 16 then
    { s with msgs := s.msgs ++ [{ m with sent := some s.now }], credits := mset s.credits key (used + 1) }
  else { s with msgs := s.msgs ++ [m] }

/-- R212: the CLOSE messages of a region whose effective close is determined. -/
def sendCloses (s : State) (c l : Nat) (r : Region) (ec : Nat) : State :=
  r.sent.foldl (fun s e => if e.2 = 0 then s else postMsg s e.1 (tagOf s c l r.serial) r.id false ec e.2 r.qpkg) s

/-- R212: the SQUASH messages of a squashed region. -/
def sendSquashes (s : State) (c l : Nat) (r : Region) : State :=
  r.sent.foldl (fun s e => if e.2 = 0 then s else postMsg s e.1 (tagOf s c l r.serial) r.id true 0 e.2 0) s

/-! ### Squash -/

/-- R208, R237, R238, R240: undoes one record; the listed bytes of a word keep their value, and then so do its flags
(DEDUCED, log 84) (DEDUCED, log 104). -/
def undoOne (s : State) (e : UndoWhat × List Nat) : State :=
  match e.1 with
  | .word b off old valid dirty =>
    modBlock s b fun x =>
      let ch := off / 128
      let j := off % 128 / 4
      let setBit (m : W32) (v : Bool) : W32 :=
        if v then m ||| ((1 : W32) <<< j) else m &&& ~~~((1 : W32) <<< j)
      let k := mgetD x.chunks ch Chunk.reset
      { x with scratch := memPuts x.scratch ((placed off (leBytes 4 old.toNat)).filter fun p => !e.2.contains (p.1 % 4)),
               chunks := if !e.2.isEmpty || ((mget x.chunks ch).isNone && !valid && !dirty) then x.chunks
                 else mset x.chunks ch { k with wvalid := setBit k.wvalid valid, wdirty := setBit k.wdirty dirty } }
  | .dirty b ch old => modBlock s b fun x =>
      let k := mgetD x.chunks ch Chunk.reset
      { x with chunks := mset x.chunks ch { k with wdirty := k.wdirty ||| old } }
  | .valid b ch old => modBlock s b fun x => { x with chunks := mmod x.chunks ch fun k => { k with wvalid := k.wvalid ||| old } }
  | .desc b w old flags => modBlock s b fun x =>
      { x with wins := mset x.wins w old,
               chunks := msets x.chunks (flags.map fun e =>
                 (e.1, { mgetD x.chunks e.1 Chunk.reset with wvalid := e.2.1, wdirty := e.2.2 })) }

/-- Two records restore the same word or descriptor, so that the order of their replay matters. -/
def samePlace : UndoWhat → UndoWhat → Bool
  | .word b o _ _ _, .word b' o' _ _ _ => b == b' && o == o'
  | .desc b w _ _, .desc b' w' _ _ => b == b' && w == w'
  | _, _ => false

/-- R208: the older of two records of a place takes the place of the newer one's old value. `l` is newest
first; the oldest record of the place changes. -/
def inherit (what : UndoWhat) : List Undo → List Undo
  | [] => []
  | u :: rest =>
    if samePlace u.what what && !(rest.any fun v => samePlace v.what what) then { u with what := what } :: rest
    else u :: inherit what rest

/-- The bytes of a word whose latest write is one of the owners that satisfy a condition. -/
def lastBytes (undo : List Undo) (what : UndoWhat) (f : Nat → Bool) : List Nat :=
  let us := undo.filter fun u => samePlace u.what what
  (List.range 4).filter fun i =>
    let top := us.foldl (fun m u => max m (u.last.getD i 0)) 0
    top != 0 && us.any fun u => f u.owner && u.last.getD i 0 == top

/-- The bytes of a word that some of these records' owners have written. -/
def writtenBytes (us : List Undo) (what : UndoWhat) : List Nat :=
  (List.range 4).filter fun i => us.any fun u => samePlace u.what what && u.last.getD i 0 != 0

/-- R208: what a replay leaves in the log and what it restores, newest first, with the bytes that a surviving region has
written since and that keep their value. A surviving region's newer record takes over the older value. -/
def replayList (ids : List Nat) (all : List Undo) : List Undo → List Undo → List Undo × List (UndoWhat × List Nat)
  | [], kept => (kept, [])
  | u :: rest, kept =>
    if !ids.contains u.owner then replayList ids all rest (kept ++ [u])
    else
      let keep := lastBytes all u.what (fun o => !ids.contains o) ++ writtenBytes kept u.what
      let r := replayList ids all rest (inherit u.what kept)
      match u.what with
      | .desc _ _ _ _ => if kept.any fun v => samePlace v.what u.what then r else (r.1, (u.what, []) :: r.2)
      | _ => (r.1, (u.what, keep) :: r.2)

/-- Owner 0 marks a record of a region that has cleared: it is no unit of the log, and stays only while an older
record of its place is held, whose replay must leave the word alone. -/
def trimUndo : List Undo → List Undo
  | [] => []
  | u :: rest =>
    let r := trimUndo rest
    if u.owner != 0 || r.any (fun v => v.owner != 0 && samePlace v.what u.what) then u :: r else r

/-- A record of another owner, once the owners that satisfy a condition have cleared: a byte that one of them wrote last
has its present value for good. -/
def settleBytes (s : State) (undo : List Undo) (f : Nat → Bool) (u : Undo) : Undo :=
  match u.what with
  | .word b off old valid dirty =>
    let done := lastBytes undo u.what f
    match blockAt s b with
    | none => u
    | some x =>
      if done.isEmpty || f u.owner then u
      else
        let now := leNat ((List.range 4).map fun i => if done.contains i then memByte x.scratch (off + i) else (old >>> (8 * i)).setWidth 8)
        let k := mgetD x.chunks (off / 128) Chunk.reset
        { u with what := .word b off (BitVec.ofNat 32 now) (valid || k.wvalid.getLsbD (off % 128 / 4)) (dirty || k.wdirty.getLsbD (off % 128 / 4)),
                 last := (List.range 4).map fun i => if done.contains i then 0 else u.last.getD i 0 }
  | _ => u

/-- R208: the records of cleared owners are freed, but for those that `keep` names. -/
def freeUndoBut (s : State) (c : Nat) (ids : List Nat) (keep : Undo → Bool) : State :=
  modCore s c fun k =>
    { k with undo := trimUndo ((k.undo.map (settleBytes s k.undo fun o => ids.contains o)).map fun u =>
        if ids.contains u.owner && !keep u then { u with owner := 0 } else u) }

def freeUndo (s : State) (c : Nat) (ids : List Nat) : State := freeUndoBut s c ids fun _ => false

/-- R203, R208: replays, newest first, the undo records of the squashed owners of a core. -/
def replayUndo (s : State) (c : Nat) (ids : List Nat) : State :=
  let r := replayList ids (coreOf s c).undo (coreOf s c).undo []
  modCore (r.2.foldl undoOne s) c fun k => { k with undo := trimUndo r.1 }

/-- R203 step 2: what a core drops for squashed owners. A line that holds a squashed store is dropped whole (R226). -/
def dropCore (s : State) (c : Nat) (ids : List Nat) : State :=
  modCore (replayUndo s c ids) c fun k =>
    { k with hwb := k.hwb.filter (fun h => !ids.contains h.owner),
             adds := k.adds.filter (fun a => !ids.contains a.region),
             l1 := k.l1.filter fun x => !(x.quar.any fun q => ids.contains q) }

/-- R185: something that a side of the core may wait for has changed: every side tries again, but for a counter wait, which
its wake ends (R267). -/
def retryCore (s : State) (c : Nat) : State :=
  { s with strands := s.strands.map fun e =>
      if e.1 / 64 == c then
        (e.1, { e.2 with swait := if e.2.swait == .counter && e.2.sphase == .headed then .counter else .none, lwait := .none })
      else e }

/-- R186, R187: a wake event reaches a core, with its reason, 0 for one that the register does not name: kept while its clock is
stopped, and until its first issue after the wake (DEDUCED, log 34). -/
def wakeCore (s : State) (c : Nat) (bit : BitVec 9) : State :=
  modCore (retryCore s c) c fun k =>
    if k.stopped then { k with wakePend := k.wakePend ||| bit, woken := some (k.woken.getD s.now) }
    else if k.settling then { k with wakeBits := k.wakeBits ||| bit } else k

/-- R294: some strand of a block waits at a meet point that has reached its count. -/
def meetsMet (s : State) (b : Nat) : Bool :=
  s.strands.any fun e => e.2.block == b && e.2.swait == .counter && e.2.sphase != .headed
    && e.2.meet.any fun m => (blockAt s b).any fun x => decide (m.2 ≤ memNat x.scratch m.1 8)

/-- A wake of every core on which some strand satisfies a condition. -/
def wakeCores (s : State) (bit : BitVec 9) (f : Strand → Bool) : State :=
  (((s.strands.filter fun e => f e.2).map fun e => e.1 / 64).eraseDups).foldl (fun s c => wakeCore s c bit) s

/-- R284, R285, R287: a slice of a grid is ready, or has lost a reference: what waits for one tries again. -/
def wakeSlices (s : State) (p g : Nat) : State := wakeCores s 0 fun t => t.part == p && t.grid == g && t.swait == .ready

/-- R285: drops a reference to a slice slot. -/
def dropRef (s : State) (p g k : Nat) : State :=
  wakeSlices (modGrid s p g fun x => { x with slices := mmod x.slices k fun r => { r with refs := r.refs - 1 } }) p g

/-- R285, R286: a squashed or trapping `graft` drops its reference. -/
def dropGraft (s : State) (t : Strand) : State :=
  match t.grafting with
  | some k => dropRef s t.part t.grid k
  | none => s

/-- R417: a claim, a migration or a retirement that ends lets a claim that waits try again. -/
def wakeClearing (s : State) : State := wakeCores s 0x10 fun t => t.swait == .clearing

/-- R274, R417: a strand's `claim` holds no frame, and later claims go on. -/
def dropClaim (s : State) (c l : Nat) : State :=
  let u := if (mget s.claims (skey c l)).isSome then wakeClearing s else s
  { u with claims := mdel u.claims (skey c l) }

/-- R285, R286: a strand's `graft` in its read phase, or a `claim` that waits, ends with no effect. -/
def endGraft (s : State) (c l : Nat) : State :=
  match strandAt s c l with
  | some t => modStrand (dropClaim (dropGraft s t) c l) c l fun t => { t with grafting := none }
  | none => s

/-- R219, R271: the batches that a squash of regions leaves: those sealed in other regions, and, open again, the surviving copies
of the rest. -/
def keptBatches (s : State) (t : Strand) (ids : List Nat) : List Batch :=
  let stays (b : Batch) : Bool := b.sealed && !ids.contains b.region
  let left := ((t.batches.filter fun b => !stays b).flatMap fun b => b.copies).filter fun k =>
    s.copies.any fun y => y.id == k && !ids.contains y.region
  t.batches.filter stays ++ (if left.isEmpty then [] else
    [{ number := 0, copies := left, sealed := false, reg := 0, region := 0, token := none, read := false }])

/-- R203, R199: the strand restored from the checkpoint of its region `r`, the oldest squashed one. An
implicit head opens again at once; an explicit one when its `region` executes (DEDUCED, log 88). Clauses of older regions that
have not issued go on. -/
def restoreStrand (s : State) (t : Strand) (r : Region) : Strand :=
  let keep := t.regions.takeWhile fun x => x.id != r.id
  let ids := (t.regions.dropWhile fun x => x.id != r.id).map fun x => x.id
  let traps := t.traps.filter fun h => !ids.contains h.region
  let cancelled := t.batches.filter fun b => ids.contains b.region
  let again : List Region :=
    if r.explicit && !r.resumed then []
    else [{ r with id := s.nextId, explicit := false, serial := t.serial + 1, opened := s.now, sclose := none, close := none, ec := none,
                   cleared := false, deps := (keep.getLast?.map fun x => x.id).toList, cls := 0, effect := false,
                   sent := [], lanes := [], scalars := [], qlines := [], adds := [],
                   counts := r.counts.filter (fun e => e.1 == 11 || e.1 == 13),
                   queue := r.queue.map fun q => rebindClauses q s.nextId }]
  { t with
    sc := r.head, ln := r.laneHead.getD t.ln,
    st := if again.isEmpty then r.queue.getD (if r.laneHead.isSome then { queue := [], current := none } else olderClauses t.st r.id)
          else rebindClauses (r.queue.getD { queue := [], current := none }) s.nextId,
    ops := t.ops.filter (fun o => !ids.contains o.region),
    vpend := t.vpend.filter (fun p => t.ops.any fun o => o.id == p.2 && !ids.contains o.region),
    spend := t.spend.filter (fun p => t.ops.any fun o => o.id == p.2 && !ids.contains o.region),
    tpend := t.tpend.filter (fun p => !(cancelled.any fun b => b.number == p.2)),
    regions := keep ++ again, serial := if again.isEmpty then t.serial else t.serial + 1, atRegion := again.isEmpty,
    remat := t.remat || r.queue.any fun q => (q.queue.any fun e => e.remat) || q.current.any fun e => e.entry.remat,
    recipe := r.recipe, sphase := .idle, lphase := .idle, swait := .none, lwait := .none, wake := false,
    traps := traps, stopped := traps.any (fun h => h.kind != .matrix && h.ready.isNone),
    exited := false, grafting := none, served := [], headTick := r.opened, headSerial := r.serial, collects := false,
    effects := t.effects.filter (fun e => s.effects.any fun x => x.id == e && !ids.contains x.region),
    batches := keptBatches s t ids,
    nextBatch := cancelled.foldl (fun m b => if b.sealed then min m b.number else m) t.nextBatch }

/-- R193, R203: the lane writes still outstanding of squashed regions are discarded as they land; until then each holds the
renamed registers that it would have written (R209). -/
def drainWrites (s : State) (c : Nat) (t : Strand) (ids : List Nat) : State :=
  let late := t.ops.filter fun o => !o.scalar && !o.landed && !o.dests.isEmpty && ids.contains o.region
  let units (o : MemOp) : Nat := (o.dests.flatMap fun d => if d.pair then [d.reg, d.reg + 1] else [d.reg]).eraseDups.length
  modCore s c fun k => { k with orphans := k.orphans ++ late.map (fun o => o.id),
                                lateUnits := msets k.lateUnits (late.map fun o => (o.id, units o)) }

/-- R203: squashes a strand's region `id` and every later one: discards their effects, tells the homes,
cancels their copies and restores the strand. -/
def squashStrand (s : State) (c l id : Nat) : State :=
  match strandAt s c l with
  | none => s
  | some t =>
    match regionAt t id with
    | none => s
    | some r =>
      let gone := t.regions.dropWhile fun x => x.id != id
      let ids := gone.map fun x => x.id
      let s1 := gone.foldl (fun s x => sendSquashes s c l x) (drainWrites (dropCore s c ids) c t ids)
      let s2 := dropClaim (dropGraft (putStrand s1 c l (restoreStrand s t r)) t) c l
      let s3 : State := { s2 with
        nextId := s2.nextId + 1,
        copies := s2.copies.filter (fun y => !ids.contains y.region),
        watches := s2.watches.filter (fun w => !(w.core == c && w.slot == l)),
        links := s2.links.filter (fun k => !ownLink s2 c l k) }
      let s4 := modCore s3 c fun k => { k with watches := k.watches.filter fun w => w.slot != l }
      bumpBoth s4 t.part t.grid 12 gone.length

/-! ### Events of the hub (R337, R338) -/

/-- Two events concern the same object (R338). -/
def sameObject (a b : DecEvent) : Bool :=
  a.kind == b.kind && (if a.kind == 0 then a.hearth == b.hearth
    else if a.kind == 3 then a.channel == b.channel && a.hearth == b.hearth else a.gang == b.gang)

/-- R338, R348: an event joins the pending set, or merges into a pending event for the same object; a mask of free cores is
that of the event tick. The words other than the tick are those of the higher SUB, of the pending event when both have one
(DESIGN CHOICE, log 152). -/
def raiseEvent (s : State) (p : Nat) (e : DecEvent) : State :=
  modPart s p fun x =>
    if x.events.any (sameObject e) then
      { x with events := x.events.map fun y =>
          if sameObject e y then
            let hi := if y.sub < e.sub then e else y
            { hi with tick := min y.tick e.tick, mask := if e.kind == 0 && hi.sub != 3 then y.mask else hi.mask }
          else y }
    else { x with events := x.events ++ [e] }

/-- An event with every other word 0. -/
def plainEvent (s : State) (kind sub hearth : Nat) : DecEvent :=
  { kind := kind, sub := sub, tick := s.now, hearth := hearth, core := 0, gang := 0, grid := 0, info := 0,
    waiter := 0, winfo := 0, code := 0, retries := 0, since := 0, mask := 0, trap := none, channel := none }

/-- R348: PRIO and ACCT of a grid, as an event word. -/
def prioAcct (s : State) (p g : Nat) : Word :=
  match gridAt s p g with
  | some x => BitVec.ofNat 64 (x.record.prio + 16 * x.record.acct)
  | none => 0

/-- R337, R378: raises FAULT for a gang. -/
def raiseFault (s : State) (p g gang c sub : Nat) (rec : Option TrapRec) : State :=
  let r := ((gangAt s p gang).map fun e => e.2.retries).getD 0
  raiseEvent s p { plainEvent s 2 sub (hearthOf c) with
    core := c, gang := gang, grid := g, info := prioAcct s p g, code := (rec.map fun x => x.code.toNat).getD 0,
    retries := r, trap := rec }

/-! ### Error records (R411 to R414) -/

/-- R411: a SOURCE: class and number (DEDUCED, log 57). -/
def errSource (cls n : Nat) : BitVec 16 := BitVec.ofNat 16 (cls * 4096 + n)

/-- R413: records stand by TIME, then by SOURCE; those of one source at one tick follow their SEQ as they come. -/
def errBefore (r x : ErrRec) : Bool := r.time < x.time || (r.time == x.time && r.source.toNat < x.source.toNat)

/-- R413: a record takes its place in a list of records. -/
def insertErr (l : List ErrRec) (r : ErrRec) : List ErrRec := l.takeWhile (fun x => !errBefore r x) ++ r :: l.dropWhile fun x => !errBefore r x

/-- R413, R414: a record goes to Zhevwell's log and, while it has room, to the error ring. -/
def postError (s : State) (r : ErrRec) : State :=
  let s : State := { s with errLog := insertErr s.errLog r }
  if s.ring.length < 1024 then { s with ring := insertErr s.ring r } else { s with dropped := s.dropped + 1 }

/-- R411: a record of a source, with its next sequence number (DESIGN CHOICE, log 5 says that the first is 0). -/
def raiseErrorAt (s : State) (kind sev : Nat) (source : BitVec 16) (time : Nat) (addr : Word) (part : Option Nat)
    (count detail : Nat) : State :=
  let n := mgetD s.errSeq source.toNat 0
  postError { s with errSeq := mset s.errSeq source.toNat ((n + 1) % 2 ^ 32) }
    { kind := BitVec.ofNat 8 kind, sev := BitVec.ofNat 3 sev, source := source, seq := BitVec.ofNat 32 n, time := time, addr := addr,
      part := part, count := BitVec.ofNat 24 (min count (2 ^ 24 - 1)), detail := BitVec.ofNat 32 detail }

/-- R412: a record of one event, detected at this tick (DEDUCED, log 85). -/
def raiseError (s : State) (kind sev : Nat) (source : BitVec 16) (part : Option Nat) (detail : Nat) : State :=
  raiseErrorAt s kind sev source s.now 0 part 1 detail

/-- R412: a merged event: it is counted, and recorded at the end of the telemetry period (DEDUCED, log 72), with the DETAIL of the
first one (DESIGN CHOICE, log 145). -/
def mergeError (s : State) (kind : Nat) (source : BitVec 16) (detail : Nat) : State :=
  { s with merged := addMerged s.merged (source.toNat * 256 + kind) detail }
where
  addMerged (m : FMap (Nat × Nat)) (k d : Nat) : FMap (Nat × Nat) := mset m k (match mget m k with
    | some e => (e.1 + 1, e.2)
    | none => (1, d))

/-! ### Pre-emption (R368) -/

/-- R217: the slot and serial of the region current in a block's leader, the lowest-numbered strand; no slot (64) once every
strand has gone. Once strand 0 has freed its slot, the lowest resident one stands for it (DESIGN CHOICE, log 150). -/
def leaderTag (s : State) (c block : Nat) : Nat × BitVec 8 :=
  (((residents s c).filter fun e => e.2.block == block).foldl (fun m e => match m with
    | none => some e
    | some y => if e.2.number < y.2.number then some e else m) none).elim (64, 0) fun e => (e.1, e.2.serial)

/-- R217, R305: a segment of a block's stream that opens at this tick, with the tag of the leader's region. -/
def newSegment (s : State) (c : Nat) (rewind : Nat) (wait : Option (Nat × Nat)) (cursors : FMap Word) (block : Nat) : Segment :=
  { id := s.nextId, core := c, slot := (leaderTag s c block).1, serial := (leaderTag s c block).2, opened := s.now, close := none, ec := none, cleared := false,
    deps := [], qcore := 0, qdie := 0, rewind := rewind, wait := wait, cursors := cursors, snaps := [], sticky := 0,
    arm := false, trap := none, counts := [] }

/-- R217, R306: squashes the segments of a griddle from `x` on: tiles restored, the latch dropped, and the
stream at the rewind point of `x`, in a segment of its own. -/
def rewindGriddle (s : State) (c : Nat) (g : Griddle) (x : Segment) : Griddle :=
  let gone := g.segs.dropWhile fun y => y.id != x.id
  let keep := g.segs.takeWhile fun y => y.id != x.id
  let tiles := gone.reverse.foldl (fun m y => y.snaps.foldl (fun m e =>
    msets (m.filter fun p => p.1 / 1024 != e.1) e.2) m) g.tiles
  { g with run := true, latch := none, reading := none, next := x.rewind, tiles := tiles,
           segs := keep ++ [newSegment s c x.rewind x.wait x.cursors g.holder], waiting := x.wait }

/-- R296, R306: segments of a core squashed, and the cursors restored. Their undo records and buffer entries
go with those of the regions. -/
def squashSegments (s : State) (c : Nat) (ids : List Nat) : State :=
  let g := (coreOf s c).griddle
  match g.segs.find? fun x => ids.contains x.id with
  | none => s
  | some x =>
    let s' := modCore { s with nextId := s.nextId + 1 } c fun k => { k with griddle := rewindGriddle s c k.griddle x }
    modBlock s' g.holder fun b => { b with cursors := x.cursors }

/-- R203, R204: one round of a squash set: what depends on a member, and the later regions of its strand. -/
def growSquash (s : State) (c : Nat) (ids : List Nat) : List Nat :=
  let hit (r : Nat × List Nat) : Bool := ids.contains r.1 || r.2.any ids.contains
  let strands := (residents s c).flatMap fun e =>
    ((e.2.regions.map fun r => (r.id, r.deps)).dropWhile fun r => !hit r).map fun r => r.1
  let segs := (((coreOf s c).griddle.segs.map fun g => (g.id, g.deps)).dropWhile fun r => !hit r).map fun r => r.1
  strands ++ segs

/-- R204: the squash set of a core: everything that depends on a squashed region or segment. -/
def closeSquash (s : State) (c : Nat) : Nat → List Nat → List Nat
  | 0, ids => ids
  | n + 1, ids => closeSquash s c n (growSquash s c ids)

/-- R203, R204, R306: squashes regions and segments of a core with all that depends on them. The matrix stream rewinds after
the strands, under the tag that its leader then has (R217). -/
def squashSet (s : State) (c : Nat) (seeds : List Nat) : State :=
  let ids := closeSquash s c 300 seeds
  let s1 := dropCore s c ids
  squashSegments ((residents s1 c).foldl (fun s e =>
    match e.2.regions.find? fun r => ids.contains r.id with
    | some r => squashStrand s c e.1 r.id
    | none => s) s1) c ids

/-- R135, R368: the region that a pre-emption squashes: the open one; at an instruction that has closed its region and waits
for it to clear, that one, while it has not cleared (DEDUCED, log 117); none at a `region` to which a squash has restored the strand. -/
def preemptedRegion (t : Strand) : Option Region :=
  match t.regions.find? fun r => r.close.isNone with
  | some r => some r
  | none => if t.stopped || t.exited || t.atRegion || t.lphase == .requested then none
    else t.regions.getLast?.filter fun r => !r.cleared

/-- R368 step 1: one strand stops, its open region is squashed as if an event of this tick were mapped to
it alone, and it goes on to its saved head. -/
def preemptStrand (s : State) (c l : Nat) : State :=
  match strandAt s c l with
  | none => s
  | some t =>
    let s := match preemptedRegion t with
      | some r => squashSet s c [r.id]
      | none => s
    modStrand (dropClaim s c l) c l fun t => { t with saving := true, swait := .none, lwait := .none }

/-- R368: the strands and the matrix stream of a gang on a core stop; the open regions and segments are squashed. -/
def preemptCore (gang : Nat) (s : State) (c : Nat) : State :=
  let s := wakeCore s c 0x40
  let s := (residents s c).foldl (fun s e => if e.2.gang == gang then preemptStrand s c e.1 else s) s
  let k := coreOf s c
  if k.griddle.held && ((blockAt s k.griddle.holder).any fun b => b.gang == gang) then
    squashSet s c ((k.griddle.segs.filter fun x => x.close.isNone).map fun x => x.id)
  else s

def gangCores (g : Gang) : List Nat := (List.range g.count).map fun i => g.core + i

/-- R368: a gang is pre-empted, at once, or at the restart of a hearth that a clock step has stopped (R430). -/
def preemptGang (s : State) (p gang : Nat) : State :=
  match gangAt s p gang with
  | none => s
  | some (_, g) =>
    if g.state != .resident then s
    else
      let s := modGang s p gang fun x => { x with state := .saving }
      if hearthStopped s (hearthOf g.core) then s else (gangCores g).foldl (preemptCore gang) s

/-! ### Traps -/

/-- A trap record (R375). -/
def trapRec (code : Nat) (stream : Stream) (detail : Nat) (index : Nat) (place lanes faddr : Word) : TrapRec :=
  { code := BitVec.ofNat 8 code, stream := stream, detail := BitVec.ofNat 16 detail,
    index := BitVec.ofNat 6 index, place := place, lanes := lanes, faddr := faddr }

/-- R412, R413, R378: poisoned memory consumed on a core, which concerns a grid and raises FAULT with SUB 1. -/
def poisonErrors (s : State) (c part grid gang : Nat) : State :=
  raiseFault (raiseError s 0x03 2 (errSource 0 c) (some part) (grid % 2 ^ 32)) part grid gang c 1 none

/-- R412, R413, R378: the error records of a trap: poisoned memory consumed, which concerns a grid and raises
FAULT with SUB 1, and a register-file error consumed. -/
def trapErrors (s : State) (c l : Nat) (t : Strand) (code : Nat) : State :=
  if code = 0x15 then poisonErrors s c t.part t.grid t.gang
  else if code = 0x06 then raiseError s 0x05 2 (errSource 0 c) none l
  else s

/-- R99, R141, R206: RAISING A TRAP. The trap is held, the strand's open region closes at this tick and
neither side issues anything further. A trap whose region has cleared already is ready at once. -/
def holdTrap (s : State) (c l : Nat) (h : HeldTrap) : State :=
  let s := match strandAt s c l with
    | some t => trapErrors (endGraft s c l) c l t h.record.code.toNat
    | none => s
  modStrand s c l fun t =>
    let rs := closeAll s c t
    let ready := rs.all fun r => r.id > h.region || r.cleared
    { t with regions := rs, traps := t.traps ++ [{ h with ready := if ready then some s.now else none }],
             stopped := true, swait := .none, lwait := .none, collects := false }

/-- The newest region of a strand, open or not; 0 when it has none. -/
def lastId (t : Strand) : Nat := (t.regions.getLast?).elim 0 fun r => r.id

/-- A scalar instruction of the strand takes a trap; it resumes at `resume` (R376). -/
def scalarTrapAt (s : State) (c l code detail : Nat) (faddr resume : Word) (kind : TrapKind) : State :=
  match strandAt s c l with
  | none => s
  | some t =>
    holdTrap s c l { record := trapRec code .scalar detail 0 t.sc.spc 0 faddr, kind := kind,
                     region := lastId t, seq := t.sc.seq, ready := none, resume := resume }

/-- A scalar instruction takes a trap and resumes at itself. -/
def scalarTrap (s : State) (c l code detail : Nat) : State :=
  match strandAt s c l with
  | none => s
  | some t => scalarTrapAt s c l code detail 0 t.sc.spc .own

/-- A scalar memory access takes a fault with its address (R250, R375). Code 0xFF is no fault: the translation walk waits for
the recall of a half that a CXL host owns, and the instruction is tried again (R246, R395). -/
def scalarFault (s : State) (c l code : Nat) (faddr : Word) : State :=
  match strandAt s c l with
  | none => s
  | some t => if code = 0xFF then putStrand s c l { t with swait := .pending } else scalarTrapAt s c l code 0 faddr t.sc.spc .own

/-- The instruction of a clause that runs: clause number, index and region. -/
def laneTrap (s : State) (c l code detail : Nat) (lanes faddr : Word) : State :=
  match strandAt s c l with
  | none => s
  | some t =>
    match t.st.current with
    | none => s
    | some r =>
      holdTrap s c l { record := trapRec code .lane detail r.index (r.entry.clause.setWidth 64) lanes faddr,
                       kind := .own, region := r.entry.region, seq := r.entry.seq, ready := none, resume := t.sc.spc }

/-- R371: the REMAT clause of a resumption has not yet issued. -/
def rematWaits (t : Strand) : Bool := (t.st.queue.any fun q => q.remat) || t.st.current.any fun r => r.entry.remat

/-- R377: the trap-table entry that serves a trap of a grid: the lowest valid one. -/
def trapEntry (x : Partition) (scode : Word) (code : Nat) : Option TrapEntry :=
  (List.range 16).findSome? fun n =>
    match mget x.traps n with
    | some e => if e.valid.getLsbD 0 && e.scode == scode && e.handled.toNat.testBit code then some e else none
    | none => none

/-- R376: the pending trap that is delivered next: earliest ready tick, then a strand's own trap before a
matrix trap, then the lower sequence number. One that an earlier delivery kept waits for the handler's return. -/
def nextTrap (t : Strand) : Option HeldTrap :=
  let before (a b : HeldTrap) : Bool :=
    let ka := (a.ready.getD 0, if a.kind == .matrix then 1 else 0, a.seq.toNat)
    let kb := (b.ready.getD 0, if b.kind == .matrix then 1 else 0, b.seq.toNat)
    ka.1 < kb.1 || (ka.1 == kb.1 && (ka.2.1 < kb.2.1 || (ka.2.1 == kb.2.1 && ka.2.2 < kb.2.2)))
  (t.traps.filter fun h => h.ready.isSome && !(h.kept && t.sc.tdepth)).foldl (fun m h => match m with
    | none => some h
    | some b => if before h b then some h else m) none

/-- R375: the 32 bytes of a trap record. -/
def trapBytes (r : TrapRec) : List Byte :=
  let st := match r.stream with | .scalar => 0 | .lane => 1 | .matrix => 2
  leBytes 8 (r.code.toNat + st * 2 ^ 8 + r.detail.toNat * 2 ^ 16 + r.index.toNat * 2 ^ 32)
    ++ leBytes 8 r.place.toNat ++ leBytes 8 r.lanes.toNat ++ leBytes 8 r.faddr.toNat

/-- R376: what is pending after a delivery: other traps of the strand's own instructions are discarded. -/
def keptTraps (t : Strand) (h : HeldTrap) : List HeldTrap :=
  ((t.traps.erase h).filter fun x => x.kind == .matrix || x.kind == .counter).map fun x => { x with kept := true }

/-- R376: the scalar side and lane stream at the head of a delivery. A saturation trap clears TRAPPEND;
a trap of the scalar side keeps the clauses that older instructions enqueued. -/
def deliveryHead (t : Strand) (h : HeldTrap) : ScalarSide × LaneStream :=
  ({ t.sc with spc := if h.kind == .counter || h.kind == .matrix then t.sc.spc else h.resume,
               trapPend := if h.kind == .saturation then false else t.sc.trapPend }, t.st)

/-- R376 and the head of a delivery: an implicit head opens where the strand resumes. -/
def openDelivery (s : State) (c l : Nat) (h : HeldTrap) : State :=
  match strandAt s c l with
  | none => s
  | some t0 =>
    let s := endGraft s c l
    let t := { t0 with grafting := none }
    let hd := deliveryHead t h
    let s := putStrand s c l { t with sc := hd.1, traps := keptTraps t h, stopped := false, sphase := .idle,
                                      lphase := .idle, swait := .none, lwait := .none, exited := false, collects := false }
    implicitHead s c l hd.1 hd.2

/-- R377: THE ENTRY OF A TRAP HANDLER, once the record stands at sp: the registers it saves and sets (DEDUCED, log 100). -/
def enterHandler (x : ScalarSide) (scode hoff : Word) : ScalarSide :=
  let head := x.spc
  let x1 := sput (sput { x with tln := sget x 1 } 1 head) 2 (sget x 2 + 32)
  { x1 with rdepth := x.rdepth + 1, tdepth := true, entryd := x.rdepth + 1, spc := scode + hoff }

/-- R378: A TRAP THAT GOES TO FAULT: its gang is pre-empted with the strand's saved head at the head of R376 and held
from placement; once it is saved a FAULT decision is raised. -/
def faultTrap (s : State) (p g gang c : Nat) (r : TrapRec) : State :=
  match gangAt s p gang with
  | none => s
  | some (_, x) =>
    if x.state == .resident || x.state == .saving then
      modGang (preemptGang s p gang) p gang fun y => { y with hold := true, fault := some (r, c) }
    else raiseFault s p g gang c 0 (some r)

/-- R303: the report strand of a block: its lowest-numbered strand that has not executed `exit`. -/
def reportStrand (s : State) (c block : Nat) : Option (Nat × Strand) :=
  ((residents s c).filter fun e => e.2.block == block && !e.2.exited).foldl (fun m e => match m with
    | none => some e
    | some y => if e.2.number < y.2.number then some e else m) none

/-- R307: matrix traps of a block that await delivery go to its report strand as it stands at delivery; with every strand
exited, to a FAULT decision. -/
def rebindTraps (s : State) (c block : Nat) : State :=
  let mine := (residents s c).filter fun e => e.2.block == block
  let held := mine.flatMap fun e => e.2.traps.filter fun h => h.kind == .matrix
  let strip := mine.foldl (fun s e => modStrand s c e.1 fun t => { t with traps := t.traps.filter fun h => h.kind != .matrix }) s
  match held with
  | [] => s
  | _ => match reportStrand s c block, blockAt s block with
    | some (l, _), _ => modStrand strip c l fun t => { t with traps := t.traps ++ held }
    | none, some b => held.foldl (fun s h => faultTrap s b.part b.grid b.gang c h.record) strip
    | none, none => strip

/-- R377: RETURN FROM A TRAP HANDLER. An `sret` (its target already taken from ln) that leaves RDEPTH below
ENTRYD ends the trap level and restores ln from TLN. -/
def endTrapLevel (x : ScalarSide) (restoreLn : Bool) : ScalarSide :=
  if x.tdepth && x.rdepth.toNat < x.entryd.toNat then
    let y := { x with tdepth := false }
    if restoreLn then sput y 1 x.tln else y
  else x

end Sys2Proof.Machine
end

