-- ==== Sys2Proof/Machine/Access.lean ====
section
/-! DEFINITION. Reaching memory: the scratch aperture (spec/06 R180), translation and ownership (spec/19
R396 to R398, spec/18 R365), the L1 with its leases (spec/08 R226 to R232), scratch windows (R237 to
R241), held effects on their way to the homes (spec/07 R202, R208 to R215), loads and stores. -/

namespace Sys2Proof.Machine

open Sys2Proof

/-! ### Partition records (R363) -/

/-- The record as one number of 1,024 bits. -/
def recNat (r : FMap Word) : Nat := (List.range 16).foldl (fun a i => a + (mgetD r i 0).toNat * 2 ^ (64 * i)) 0

def ownsHearth (x : Partition) (h : Nat) : Bool := (recNat x.record).testBit h && h < 192
def ownsEngine (x : Partition) (h : Nat) : Bool := (recNat x.record).testBit (512 + h) && h < 192
def ownsChannel (x : Partition) (k : Nat) : Bool := (recNat x.record).testBit (704 + k) && k < 16
def spLimit (x : Partition) : Nat := bits (recNat x.record) 724 720
def recValid (x : Partition) : Bool := (recNat x.record).testBit 726
def signPolicy (x : Partition) : Bool := (recNat x.record).testBit 725
def arenaBase (x : Partition) : Nat := (mgetD x.record 12 0).toNat
def arenaSize (x : Partition) : Nat := (mgetD x.record 13 0).toNat
def stackArena (x : Partition) : Nat := (mgetD x.record 14 0).toNat
def stackArenaSize (x : Partition) : Nat := (mgetD x.record 15 0).toNat

/-! ### Homes (R223, R224) -/

/-- The isle field of a physical address. -/
def isleOf (pa : Nat) : Nat := pa / 2 ^ 48 % 16

/-- R224: the home of a frame at reset. -/
def homeAtReset (frame : Nat) : Nat := let i := frame / 2 ^ 32 % 16; if i < 12 then i else frame % 12

/-- R223, R224: the home of an address: an isle 0 to 11, or 12 for the I/O die. -/
def homeOf (s : State) (pa : Nat) : Nat :=
  if 14 ≤ isleOf pa then 12 else mgetD s.homeMap (pa / 65536) (homeAtReset (pa / 65536))

/-- R222, R393: the memory of an isle ends below an address; no partition owns what lies past it (DESIGN CHOICE, log 113). -/
def inIsle (pa : Nat) : Bool := pa % 2 ^ 48 < Config.isleBytes (isleOf pa)

/-- R365: the partition owns the channel and the home slice of a frame (DESIGN CHOICE, log 17). -/
def ownsFrame (s : State) (x : Partition) (pa : Nat) : Bool :=
  let r := recNat x.record
  let i := isleOf pa
  let f := pa / 65536
  let ch := bits r (288 + 16 * i + 15) (288 + 16 * i)
  let h := homeOf s pa
  let sl := bits r (192 + 8 * h + 7) (192 + 8 * h)
  inIsle pa && (ch == 0xFFFF || ch.testBit (Config.frameChannel f % 16)) && (sl == 0xFF || sl.testBit (Config.frameSlice f % 8))

/-- R394: the isle-14 targets that exist: host memory, or an expander on a port in the downstream role. -/
def targetOk14 (s : State) (pa : Nat) : Bool :=
  let t := pa / 2 ^ 44 % 16
  t ≤ 1 || (t ≤ 5 && mgetD s.flash.roles (t - 2) 0 == 1)

/-- R397: isle 15 is reached only within the partition's own VF BAR window of 32 MiB (DESIGN CHOICE, log 13). -/
def inOwnBar (p pa : Nat) : Bool :=
  let o := pa % 2 ^ 48
  Config.vfBarBase p ≤ o && o < Config.vfBarBase p + 2 ^ 25

/-- R365, R397: the ownership check of a leaf. -/
def ownsPage (s : State) (p pa : Nat) : Bool :=
  let i := isleOf pa
  if i < 14 then ownsFrame s (partAt s p) pa else if i = 14 then targetOk14 s pa else inOwnBar p pa

/-! ### Translation (R396 to R398) -/

/-- Trap codes of the memory faults (R374). -/
def cAlign : Nat := 0x10
def cScratch : Nat := 0x11
def cTranslation : Nat := 0x12
def cAccess : Nat := 0x13
def cWindow : Nat := 0x14
def cPoison : Nat := 0x15
/-- Stands for no fault: the access must wait for the recall of a half that a CXL host owns (R246, R395). -/
def cRecall : Nat := 0xFF

/-- R397: the levels of a walk, from the root: level, low bit of the index, bits of the index. -/
def walkLevels : List (Nat × Nat × Nat) := [(4, 48, 9), (3, 39, 9), (2, 30, 9), (1, 21, 9), (0, 16, 5)]

/-- R397: one entry: valid, no reserved bit, LEAF as its level allows. -/
def entryOk (level e : Nat) : Bool :=
  e.testBit 0 && bits e 7 4 == 0 && bits e 63 52 == 0 &&
    (if e.testBit 1 then level ≤ 2 else level != 0)

/-- R398, R401: while a frame moves, accesses to it go to its destination from the switch on. -/
def redirect (s : State) (pa : Nat) : Nat :=
  let moves := (s.parts.filterMap fun e => e.2.move) ++ s.retire.move.toList
  match moves.find? fun m => m.switch.isSome && m.src / 65536 == pa / 65536 with
  | some m => m.dst / 65536 * 65536 + pa % 65536
  | none => pa

/-- R397: the walk below a table: page base, page size and entry, or the fault's code. Tables are read at their homes, where
a half that a CXL host owns is recalled first (R246, R395; DEDUCED, log 90). -/
def walkFrom (s : State) (va : Nat) : Nat → List (Nat × Nat × Nat) → Except Nat (Nat × Nat × Nat)
  | _, [] => .error cTranslation
  | table, (level, lo, n) :: rest =>
    let place := redirect s (table + 8 * bits va (lo + n - 1) lo)
    if 14 ≤ isleOf table then .error cTranslation
    else if s.owned.contains (place / 64) then .error cRecall
    else
      let e := memNat s.mem place 8
      let addr := bits e 51 8 * 256
      if !entryOk level e then .error cTranslation
      else if e.testBit 1 then
        if addr % 2 ^ lo ≠ 0 then .error cTranslation else .ok (addr, 2 ^ lo, e)
      else if addr % (if level = 1 then 256 else 4096) ≠ 0 then .error cTranslation
      else walkFrom s va addr rest

/-- R396 to R398: the walk of an address of a partition at this tick. -/
def walk (s : State) (p va : Nat) : Except Nat Trans :=
  let root := (partAt s p).ptroot.toNat
  if !root.testBit 0 then .error cTranslation
  else if bits root 11 8 ≠ 0 then .error cTranslation
  else match walkFrom s va (bits root 51 8 * 256) walkLevels with
    | .error k => .error k
    | .ok (base, size, e) =>
      if !ownsPage s p (base + va % size) then .error cAccess
      else .ok { part := p, vbase := va % 2 ^ 57 / size * size, size := size, pbase := base,
                 w := e.testBit 2, x := e.testBit 3, lease := s.now + Config.transLease }

/-- A cached translation that serves an address: its lease has not ended (R398). -/
def tlbHit (s : State) (c p va : Nat) : Option Trans :=
  (coreOf s c).tlb.find? fun t => t.part == p && t.vbase ≤ va && va < t.vbase + t.size && s.now < t.lease

/-- R396: a translation held by the core, or walked at this tick; while ENABLE is 0 every translated access faults. -/
def transOf (s : State) (c p va : Nat) : Except Nat Trans :=
  if !(partAt s p).ptroot.getLsbD 0 then .error cTranslation
  else match tlbHit s c p va with
    | some t => .ok t
    | none => walk s p va

/-- R397, R398: keeps a translation walked at this tick and raises H_T. -/
def keepTrans (s : State) (c p va : Nat) : State :=
  match tlbHit s c p va with
  | some _ => s
  | none =>
    match walk s p va with
    | .error _ => s
    | .ok t =>
      let s := modCore s c fun k => { k with tlb := k.tlb ++ [t] }
      modPart s p fun x => { x with horizon := max x.horizon t.lease }

/-- R398: a walk for the hub or for a host grants a lease too. -/
def walkLease (s : State) (p : Nat) (as_ : List Nat) : State :=
  if as_.any fun a => match walk s p (a % 2 ^ 57) with | .ok _ => true | .error _ => false then
    modPart s p fun x => { x with horizon := max x.horizon (s.now + Config.transLease) }
  else s

/-- What an access does (R397). -/
inductive Use where
  | read | write | fetch
  deriving DecidableEq, Repr

/-- R365, R397: the physical address of a virtual one, or the fault. Every frame of a large page is checked for itself. -/
def physical (s : State) (c p va : Nat) (u : Use) : Except Nat Nat :=
  match transOf s c p va with
  | .error k => .error k
  | .ok t =>
    if (u == .write && !t.w) || (u == .fetch && !t.x) || !ownsPage s p (t.pbase + va % t.size) then .error cAccess
    else .ok (redirect s (t.pbase + va % t.size))

/-! ### Locations -/

/-- Where scratch bytes lie among the locations of the model: block b, area offset o (DESIGN CHOICE, log 107). -/
def scratchLoc (b o : Nat) : Nat := 2 ^ 60 + b * 2 ^ 20 + o
def isScratch (loc : Nat) : Bool := 2 ^ 60 ≤ loc
def locBlock (loc : Nat) : Nat := (loc - 2 ^ 60) / 2 ^ 20
def locOff (loc : Nat) : Nat := loc % 2 ^ 20

/-- R180: an address of the scratch aperture. -/
def inAperture (a : Word) : Bool := a.toNat / 2 ^ 55 == 511

/-- The block of a gang with a GIDX. -/
def gangBlock (s : State) (gang gidx : Nat) : Option (Nat × Block) :=
  s.blocks.find? fun e => e.2.gang == gang && e.2.gidx == gidx

/-- R180: the area byte an aperture access of n bytes names, or the scratch-range fault. -/
def apertureLoc (s : State) (t : Strand) (a n : Nat) : Except Nat Nat :=
  if bits a 54 23 ≠ 0 then .error cScratch
  else
    let self := a.testBit 22
    let m := bits a 21 20
    let o := bits a 19 0
    if self && m ≠ 0 then .error cScratch
    else
      let target := if self then (blockAt s t.block).map fun b => (t.block, b) else gangBlock s t.gang m
      match target with
      | none => .error cScratch
      | some (b, x) => if o + n ≤ x.area then .ok (scratchLoc b o) else .error cScratch

/-- R249: the locations of the n bytes of an access, or the code of its fault. -/
def locate (s : State) (c : Nat) (t : Strand) (a : Word) (n : Nat) (u : Use) : Except Nat (List Nat) :=
  if inAperture a then (apertureLoc s t a.toNat n).map fun b => (List.range n).map fun i => b + i
  else
    let last := a + BitVec.ofNat 64 (n - 1)
    if !canonical a || !canonical last || inAperture last then .error cTranslation
    else
      let va := a.toNat % 2 ^ 57
      let k := min n (65536 - va % 65536)
      match physical s c t.part va u with
      | .error e => .error e
      | .ok pa =>
        if k = n then .ok ((List.range n).map fun i => pa + i)
        else match physical s c t.part ((va + k) % 2 ^ 57) u with
          | .error e => .error e
          | .ok pb => .ok (((List.range k).map fun i => pa + i) ++ (List.range (n - k)).map fun i => pb + i)

/-- Walks and keeps the translations that an access needs. -/
def keepFor (s : State) (c : Nat) (t : Strand) (a : Word) (n : Nat) : State :=
  if inAperture a then s
  else
    let va := a.toNat % 2 ^ 57
    keepTrans (keepTrans s c t.part va) c t.part ((va + (n - 1)) % 2 ^ 57)

/-- Reads n bytes of code or of a record at a virtual address of a partition, from released values. -/
def readVirtual (s : State) (c p : Nat) (a : Word) (n : Nat) (u : Use) : Except Nat (List Byte) :=
  if !canonical a then .error cTranslation
  else
    (List.range n).foldr (fun i acc => match acc with
      | .error e => .error e
      | .ok l => match physical s c p ((a.toNat + i) % 2 ^ 57) u with
        | .error e => .error e
        | .ok pa => .ok (memByte s.mem pa :: l)) (.ok [])

/-- The value a read at the home of an address returns: the released byte, or, of host memory (R394 TARGET 0
and 1), whatever the host holds there: a free byte (DESIGN CHOICE, log 12). -/
def homeByte (s : State) (pa : Nat) : Byte :=
  if isleOf pa = 14 && pa / 2 ^ 44 % 16 ≤ 1 then Config.hostByte s.fresh pa else memByte s.mem pa

/-- The lease horizon of a line (R229). -/
def horizonOf (s : State) (line : Nat) : Nat := mgetD s.horizon line 0

/-- R403: the interface of a partition is locked, so that its state is frozen. -/
def frozen (s : State) (p : Nat) : Bool :=
  match (partAt s p).tdisp.state with
  | .locked | .run => true
  | _ => false

/-- R394, R251: the word lies in host memory, behind the link partner. -/
def atHost (loc : Nat) : Bool := !isScratch loc && isleOf loc == 14 && loc / 2 ^ 44 % 16 ≤ 1

/-- R404: the requests of a partition to isle 14 are dropped while its interface is in ERROR. -/
def hostDropped (s : State) (part loc : Nat) : Bool :=
  !isScratch loc && isleOf loc == 14 && (partAt s part).tdisp.state == .error

/-- R402: the reads of host memory among the locations that are read for a partition go out, a line at a time, with the TEE bit of
its interface. -/
def noteReads (s : State) (part : Nat) (locs : List Nat) : State :=
  (((locs.filter atHost).map fun a => a / 128).eraseDups).foldl (fun s n =>
    let port := 128 * n / 2 ^ 44 % 16
    let q := mgetD s.ports port Port.reset
    { s with ports := mset s.ports port { q with
        egress := q.egress ++ [{ addr := 128 * n, bytes := [], tee := frozen s part, msix := none, read := true }] } }) s

/-- R401, R416: the migrations and the retirement under way. -/
def movesOf (s : State) : List Move := (s.parts.filterMap fun e => e.2.move) ++ s.retire.move.toList

/-- R417: a move, begun before a place in the order, names one of the frames. -/
def movedBefore (s : State) (order : Nat) (frames : List Nat) : Bool :=
  (movesOf s).any fun m => m.order < order && (frames.contains (m.src / 65536) || frames.contains (m.dst / 65536))

/-- R417: a claim that reached the home map before a place in the order names one of the frames. -/
def claimedBefore (s : State) (order : Nat) (frames : List Nat) : Bool :=
  s.claims.any fun e => e.2.order < order && frames.any e.2.frames.contains

/-- R274 step 1: a frame of the locations is being claimed: requests to it wait at its home. -/
def claimHeld (s : State) (locs : List Nat) : Bool :=
  s.claims.any fun e => locs.any fun a => !isScratch a && e.2.frames.contains (a / 65536)

/-- R246, R274, R395: an access of the hub or of a host to n bytes waits for the recall of a half that a CXL host owns, of the data
or of a translation table, and for a claim of its frame. -/
def hubWaits (s : State) (p a n : Nat) : Bool :=
  !(s.owned.isEmpty && s.claims.isEmpty) && (List.range n).any fun i => match walk s p ((a + i) % 2 ^ 57) with
    | .error k => k == cRecall
    | .ok t => let loc := redirect s (t.pbase + (a + i) % 2 ^ 57 % t.size)
      s.owned.contains (loc / 64) || claimHeld s [loc]

/-- R274 step 1, R401 step 2: a frame of the locations is being claimed or copied: what newly arrives to change it waits at its
home's ingress. -/
def frameHeld (s : State) (locs : List Nat) : Bool :=
  claimHeld s locs || (movesOf s).any fun m => m.switch.isNone && locs.any fun a => a / 65536 == m.src / 65536

/-! ### L1 (R226 to R232, R235) -/

/-- R226: ways of the L1 on a core (DEDUCED, log 91). -/
def waysOf (k : Core) : Nat := 23 - k.spsize

def l1Find (k : Core) (line : Nat) : Option L1Line := k.l1.find? fun x => x.line == line

/-- Replaces a line and makes it the most recently used (the last of the list). -/
def l1Put (k : Core) (x : L1Line) : Core := { k with l1 := k.l1.filter (fun y => y.line != x.line) ++ [x] }

/-- R230: whether the line serves a byte to a load at this tick. -/
def l1Serves (now : Nat) (k : Core) (x : L1Line) (b : Nat) : Bool :=
  x.wmask.getLsbD b ||
    (x.valid && x.halfv.getLsbD (b / 64) && (x.gen == k.gen || x.rop) && now + 2 < x.lease)

/-- R203, R212: a region has been squashed, and its SQUASH has not ended its effects at every home yet. -/
def squashSent (s : State) (region : Nat) : Bool :=
  (s.msgs.any fun m => m.squash && m.region == region) || s.records.any fun r => r.squashed && r.region == region

/-- R226: bytes written to a line by stores of the core, or of a strand that has been placed on it since, that are not yet
completed, oldest first: effect and region. Those of a squashed region are discarded (R203). -/
def coreStores (s : State) (c line : Nat) : List (Nat × Nat × FMap Byte) :=
  s.effects.filterMap fun e =>
    if e.store && !squashSent s e.region && (e.tag.core == c || (residents s c).any fun t => t.2.effects.contains e.id) then match e.kind with
      | .write b =>
        let mine := b.filter fun p => p.1 / 128 == line
        if mine.isEmpty then none else some (e.id, e.region, mine)
      | _ => none
    else none

/-- A region of the core that has not cleared. -/
def unclearedRegion (s : State) (c id : Nat) : Bool := (residents s c).any fun e => e.2.regions.any fun r => r.id == id && !r.cleared

/-- R226, R232: a line as it enters the L1 without fill data: it holds what the core's stores that are not yet completed
have written (DEDUCED, log 16). -/
def enterLine (s : State) (c line : Nat) : L1Line :=
  let st := coreStores s c line
  let bytes := st.flatMap fun e => e.2.2
  { line := line, valid := true, lease := 0, gen := (coreOf s c).gen, ret := 0, rop := false, drop := false,
    quar := ((st.map fun e => e.2.1).filter (unclearedRegion s c)).eraseDups, pin := st.map fun e => e.1, halfv := 0,
    wmask := bytes.foldl (fun m p => m ||| ((1 : BitVec 128) <<< (p.1 % 128))) 0, data := bytesPut [] bytes }

/-- R227, R228: the retention that a hint records, within the quota of sticky lines of the set. -/
def retFor (k : Core) (line hint : Nat) : BitVec 2 :=
  let sticky := (k.l1.filter fun x => x.line % 512 == line % 512 && x.ret == 2).length
  match hint with
  | 2 => if sticky < waysOf k / 2 then 2 else 1
  | 1 => 0
  | _ => 1

/-- R228: a line keeps the highest RET recorded; `.byp` and `.poll` leave it. -/
def bumpRet (k : Core) (x : L1Line) (hint : Nat) : L1Line :=
  if hint = 3 || hint = 5 then x
  else
    let r := if x.ret == 2 then 2 else retFor k x.line hint
    { x with ret := if x.ret.toNat < r.toNat then r else x.ret, rop := x.rop || hint == 4 }

/-- R228: makes room in a set for a new line: true when the set has a free way after the victim goes; the
victim is the unpinned line with V = 0, then of lowest RET, then least recently used. -/
def l1Room (k : Core) (line : Nat) : Option Core :=
  let inSet := k.l1.filter fun x => x.line % 512 == line % 512
  if inSet.length < waysOf k then some k
  else
    let cands := inSet.filter fun x => x.pin.isEmpty && x.quar.isEmpty
    let rank (x : L1Line) : Nat := if !x.valid then 0 else 1 + x.ret.toNat
    let best := cands.foldl (fun m x => match m with
      | none => some x
      | some y => if rank x < rank y then some x else m) none
    match best with
    | none => none
    | some v => some { k with l1 := k.l1.filter fun x => x.line != v.line }

/-! ### Scratchpad words (R208, R239) -/

/-- The window of a block that a chunk belongs to (R237). -/
def windowAt (b : Block) (ch : Nat) : Option (Nat × WinDesc) :=
  b.wins.find? fun e => e.2.valid && e.2.schunk.toNat ≤ ch && ch < e.2.schunk.toNat + e.2.nchunk.toNat

def chunkOf (b : Block) (ch : Nat) : Chunk :=
  mgetD b.chunks ch Chunk.reset

/-- R239: a read touch of a byte needs the chunk filled. -/
def needsFill (now : Nat) (b : Block) (off : Nat) : Bool :=
  match windowAt b (off / 128) with
  | none => false
  | some (_, w) =>
    let k := chunkOf b (off / 128)
    let j := off % 128 / 4
    w.mode != 2 && !k.wdirty.getLsbD j && (!k.wvalid.getLsbD j || k.lease ≤ now + 2)

/-- R239: a write touch of a read-only window. -/
def writeForbidden (b : Block) (off : Nat) : Bool :=
  match windowAt b (off / 128) with
  | none => false
  | some (_, w) => w.mode == 0

/-- R239: a written word is valid and dirty in its window. -/
def markWritten (b : Block) (off : Nat) : Block :=
  if (windowAt b (off / 128)).isNone then b
  else
    let k := chunkOf b (off / 128)
    let m : W32 := (1 : W32) <<< (off % 128 / 4)
    { b with chunks := mset b.chunks (off / 128) { k with wvalid := k.wvalid ||| m, wdirty := k.wdirty ||| m } }

/-- R208: the undo record of an owner's first write to a word of its own core's scratchpad. -/
def recordWord (s : State) (c owner b off : Nat) : State :=
  let w := off / 4 * 4
  let k := coreOf s c
  let seen := k.undo.any fun u => u.owner == owner && (match u.what with | .word b' o _ _ _ => b' == b && o == w | _ => false)
  if seen || owner == 0 then s
  else match blockAt s b with
    | none => s
    | some x =>
      let ch := chunkOf x (w / 128)
      let j := w % 128 / 4
      let u : Undo := { owner := owner, what := .word b w (BitVec.ofNat 32 (memNat x.scratch w 4))
                          (ch.wvalid.getLsbD j) (ch.wdirty.getLsbD j), last := [0, 0, 0, 0] }
      putCore s c { k with undo := u :: k.undo }

/-- An undo record of a word of a block's area. -/
def ofWord (b w : Nat) (u : Undo) : Bool := match u.what with | .word b' o _ _ _ => b' == b && o == w | _ => false

/-- R204: an owner's write to a byte of its core's scratchpad is the latest. -/
def noteLast (undo : List Undo) (owner b off : Nat) : List Undo :=
  let mine := undo.filter (ofWord b (off / 4 * 4))
  let top := mine.foldl (fun m u => max m (u.last.getD (off % 4) 0)) 0
  undo.map fun u => if u.owner == owner && ofWord b (off / 4 * 4) u then { u with last := u.last.set (off % 4) (top + 1) } else u

/-- Writes one byte of a scratch area, undo record first. -/
def scratchPut (s : State) (c owner b off : Nat) (v : Byte) : State :=
  let s := modCore (recordWord s c owner b off) c fun k => { k with undo := noteLast k.undo owner b off }
  modBlock s b fun x => markWritten { x with scratch := memPut x.scratch off v } off

/-- Writes bytes of a scratch area in place, quarantined under an owner (R202, R208). -/
def scratchPuts (s : State) (c owner b : Nat) (l : List (Nat × Byte)) : State :=
  l.foldl (fun s e => scratchPut s c owner b e.1 e.2) s

/-- R204: the unreleased owner that wrote a byte of a core's scratchpad last. -/
def scratchOwner (k : Core) (b off : Nat) : List Nat :=
  let us := k.undo.filter (ofWord b (off / 4 * 4))
  let top := us.foldl (fun m u => max m (u.last.getD (off % 4) 0)) 0
  (us.filter fun u => u.owner != 0 && top != 0 && u.last.getD (off % 4) 0 == top).map fun u => u.owner

/-- R204: the unreleased owners whose values stand in n bytes of a core's scratchpad. -/
def scratchOwners (k : Core) (b off n : Nat) : List Nat := ((List.range n).flatMap fun i => scratchOwner k b (off + i)).eraseDups

/-- Some unreleased owner has written in the word of a byte. -/
def wordHeld (k : Core) (b off : Nat) : Bool := k.undo.any fun u => u.owner != 0 && ofWord b (off / 4 * 4) u

/-- R202, R267: the released value of a scratch byte: the old value of the oldest uncleared undo record of
its word, or the byte as it stands. -/
def releasedByte (k : Core) (b : Block) (bid off : Nat) : Byte :=
  let us := k.undo.filterMap fun u => match u.what with
    | .word b' o old _ _ => if u.owner != 0 && b' == bid && o == off / 4 * 4 then some old else none
    | _ => none
  match us.getLast? with
  | some old => (old >>> (8 * (off % 4))).setWidth 8
  | none => memByte b.scratch off

/-- R209: undo records still free. -/
def undoFree (k : Core) : Nat := 8192 - (k.undo.filter fun u => u.owner != 0).length

/-- R202, R209: hearth write buffer entries in use: an entry is sent, and its unit freed, at clearance. -/
def hwbUsed (s : State) (c : Nat) : Nat := ((coreOf s c).hwb.filter fun h => h.due.isNone).length

/-- An image of bytes at an offset, changed where a word of it begins. -/
def overlay (off : Nat) (img : List Byte) (word : Nat) (bs : List Byte) : List Byte :=
  (List.range img.length).map fun i =>
    if word ≤ off + i && off + i < word + 4 then bs.getD (off + i - word) 0 else img.getD i 0

/-- An operation from outside every region on n bytes of a scratch area: it acts on the bytes as they stand and on
every value that an undo record still holds of them, so that a squash does not take it back, nor the marks of a window. -/
def arrayApply (s : State) (b off n : Nat) (f : List Byte → List Byte) : State :=
  match blockAt s b with
  | none => s
  | some x =>
    let img := (List.range n).map fun i => memByte x.scratch (off + i)
    let step (acc : List Byte × List Undo) (u : Undo) : List Byte × List Undo :=
      match u.what with
      | .word b' w old v d =>
        if b' == b && w < off + n && off < w + 4 then
          let cur := overlay off acc.1 w (leBytes 4 old.toNat)
          let new := f cur
          let bytes := (List.range 4).map fun j =>
            if off ≤ w + j && w + j < off + n then new.getD (w + j - off) 0 else (old >>> (8 * j)).setWidth 8
          let live := (windowAt x (w / 128)).isSome && !writeForbidden x w
          (cur, acc.2 ++ [{ u with what := .word b' w (BitVec.ofNat 32 (leNat bytes)) (v || live) (d || live) }])
        else (acc.1, acc.2 ++ [u])
      | _ => (acc.1, acc.2 ++ [u])
    let s := modCore s x.core fun k => { k with undo := (k.undo.foldl step (img, [])).2 }
    let s := modBlock s b fun y => (List.range n).foldl (fun y i => if writeForbidden y (off + i) then y else markWritten y (off + i))
      { y with scratch := memPuts y.scratch (placed off (f img)) }
    if meetsMet s b then wakeCore s x.core 4 else s

/-! ### Held effects (R202, R211 to R215) -/

/-- Whether the agent that runs is a lane stream. -/
def issuedByLane : Agent → Bool
  | .lane _ _ => true
  | _ => false

/-- A held effect leaves for its home and is counted against its tag (R211, R212). Effects of copies and
of cleared regions carry their own CLOSE. `store`: the core keeps its bytes until it completes (R226). -/
def sendEffect (s : State) (c l region : Nat) (serial : BitVec 8) (home : Nat) (kind : EffectKind)
    (own : Option Nat) (copy : Option Nat) (seq place : Word) (store : Bool := false) : State :=
  let t := strandAt s c l
  let e : Effect := { id := s.nextId, part := (t.map fun t => t.part).getD 0, grid := (t.map fun t => t.grid).getD 0,
                      tag := tagOf s c l serial, region := region, home := home, kind := kind,
                      stage := .flight, order := 0, entry := 0, ownClose := own, copy := copy, slice := none, lane := issuedByLane s.agent,
                      store := store, seq := seq, place := place }
  { s with effects := s.effects ++ [e], nextId := s.nextId + 1 }

/-- Counts an effect against its region's tag for a home, as an effect of class Q_pkg (R196, R212). -/
def countSent (t : Strand) (region home eff : Nat) : Strand :=
  let t := modRegion t region fun r => { r with sent := mset r.sent home (mgetD r.sent home 0 + 1), effect := true, cls := 2 }
  { t with effects := t.effects ++ [eff] }

/-- R236: the effects of one stream of a strand whose completions have not arrived, in the order of issue. -/
def ownEffects (s : State) (t : Strand) (lane : Bool) : List Effect :=
  s.effects.filter fun e => t.effects.contains e.id && e.lane == lane && e.copy.isNone

/-- R202: a strand issues a held effect of its region `region`. -/
def issueEffect (s : State) (c l region home : Nat) (kind : EffectKind) (seq place : Word)
    (store : Bool := false) : State :=
  match strandAt s c l with
  | none => s
  | some t =>
    match regionAt t region with
    | none => s
    | some r =>
      let id := s.nextId
      let s := sendEffect s c l region r.serial home kind none none seq place store
      modStrand s c l fun t => countSent t region home id

/-- R226, R232: the core's line with a store's bytes; `eff` is the effect, `region` its region. -/
def storeLine (k : Core) (x : L1Line) (region eff hint : Nat) (bs : List (Nat × Byte)) : L1Line :=
  { bumpRet k x hint with
    data := bytesPut x.data bs, wmask := bs.foldl (fun m p => m ||| ((1 : BitVec 128) <<< (p.1 % 128))) x.wmask,
    drop := x.drop || hint == 3,
    quar := if x.quar.contains region then x.quar else x.quar ++ [region], pin := x.pin ++ [eff] }

/-- R226, R228, R232: a store's bytes enter the core's copy of their line, which it allocates when there is none. -/
def l1Store (s : State) (c line region eff hint : Nat) (bs : List (Nat × Byte)) : State :=
  let k := coreOf s c
  match l1Find k line with
  | some x => putCore s c (l1Put k (storeLine k x region eff hint bs))
  | none => match l1Room k line with
    | some k' => putCore s c (l1Put k' (storeLine k (enterLine s c line) region eff hint bs))
    | none => s

/-- R228: the lines that stores enter all find a way; `k` is the core as those before them leave it (DEDUCED, log 114). -/
def roomFor (k : Core) : List Nat → Bool
  | [] => true
  | n :: ns =>
    if (l1Find k n).isSome then roomFor k ns
    else match l1Room k n with
      | none => false
      | some k' => roomFor (l1Put k' { line := n, valid := true, lease := 0, gen := k.gen, ret := 0, rop := false, drop := false, quar := [],
                                       pin := [0], halfv := 0, wmask := 0, data := [] }) ns

/-- The distinct lines of a list of located bytes, in order. -/
def linesOf (locs : List Nat) : List Nat := (locs.map fun a => a / 128).eraseDups

/-- The last value given to each location, in rising order of location (R245) (DEDUCED, log 81). -/
def lastWins (bs : List (Nat × Byte)) : FMap Byte := msets [] bs

/-! ### Loads -/

/-- R204: the region of the core whose store stands in WMASK at a location. -/
def storeOwners (s : State) (c loc : Nat) : List Nat :=
  (((coreStores s c (loc / 128)).reverse.find? fun e => (mget e.2.2 loc).isSome).map fun e => e.2.1).toList

/-- A byte of an entry of a hearth write buffer. -/
def entryByte (h : HwbEntry) (loc : Nat) : Option Byte := if locBlock loc = h.block then mget h.bytes (locOff loc) else none

/-- An entry is of a strand's scalar or lane stream. -/
def entryOfStream (t : Strand) (lane : Bool) (h : HwbEntry) : Bool := h.issuer == (t.block, t.number) && h.lane == lane

/-- R236: the byte of the latest store of a strand, in either stream, that was made before an identifier and is not yet
performed: in the hearth write buffer of its core, or on its way to, or held at, a home (DEDUCED, log 130). -/
def ownStore (s : State) (c : Nat) (t : Strand) (before loc : Nat) : Option Byte :=
  if isScratch loc then
    ((coreOf s c).hwb.reverse.find? fun h => h.issuer == (t.block, t.number) && h.id < before && (entryByte h loc).isSome).bind fun h => entryByte h loc
  else
    ((s.effects.filter fun e => t.effects.contains e.id && e.copy.isNone && e.id < before).reverse.find? fun e => match e.kind, e.stage with
      | _, .done _ _ => false
      | .write b, _ => (mget b loc).isSome
      | _, _ => false).bind fun e => match e.kind with | .write b => mget b loc | _ => none

/-- A byte that a load made before an identifier may take now: from scratch, or from the L1 when its line serves it (R230). -/
def serveByte (s : State) (c : Nat) (t : Strand) (before loc : Nat) : Option Byte :=
  if isScratch loc then
    (blockAt s (locBlock loc)).map fun b =>
      if b.core == c && locBlock loc == t.block then memByte b.scratch (locOff loc)
      else (ownStore s c t before loc).getD (releasedByte (coreOf s b.core) b (locBlock loc) (locOff loc))
  else
    match l1Find (coreOf s c) (loc / 128) with
    | some x => if l1Serves s.now (coreOf s c) x (loc % 128) then some (memByte x.data loc) else none
    | none => none

/-- R204: what a load of a location forwards from. -/
def byteOwners (s : State) (c : Nat) (t : Strand) (loc : Nat) : List Nat :=
  if isScratch loc then if locBlock loc == t.block then scratchOwner (coreOf s c) (locBlock loc) (locOff loc) else []
  else storeOwners s c loc

/-- Adds locations and their bytes to what an operation has captured. -/
def capture (m : FMap Byte) (l : List (Nat × Byte)) : FMap Byte := msets m l

/-- How a load is made. -/
structure LoadSpec where
  region  : Nat
  scalar  : Bool
  flag    : Option Nat
  dests   : List Dest
  hint    : Nat
  /-- Scope of a load acquire. -/
  acquire : Option (BitVec 3)
  place   : Word
  index   : BitVec 6
  seq     : Word

/-- The bytes that an operation still awaits. -/
def awaitedLocs (o : MemOp) : List Nat :=
  (o.dests.flatMap fun d => d.locs).filter fun a => o.lines.contains (a / 128) && (mget o.got a).isNone

/-- R223, R236: an access of a stream comes after an operation of it that is still under way: they share a byte, or both
name device registers. -/
def comesAfter (o : MemOp) (locs : List Nat) : Bool :=
  (awaitedLocs o).any fun a => locs.contains a || (isleOf a == 15 && !isScratch a && locs.any fun b => !isScratch b && isleOf b == 15)

/-- R236: an earlier load of the stream has not yet read bytes that a later access of it names. -/
def loadOrder (t : Strand) (scalar : Bool) (locs : List Nat) : Bool := t.ops.any fun o => o.scalar == scalar && comesAfter o locs

/-- R239: a read touch of a scratch byte needs its chunk filled. -/
def needsTouch (s : State) (a : Nat) : Bool := isScratch a && (blockAt s (locBlock a)).any fun b => needsFill s.now b (locOff a)

/-- Bytes that a reduction or an add of the strand's stream changes. -/
def sumLocs (k : EffectKind) : List Nat :=
  match k with
  | .write _ => []
  | .add a _ => (List.range 8).map fun i => a + i
  | .reduce _ ty a _ => (List.range (if ty == 6 || ty == 7 then 8 else 4)).map fun i => a + i

/-- Bytes that a reduction or an add in a hearth write buffer changes. -/
def entrySums (h : HwbEntry) : List Nat :=
  match h.add, h.reduce with
  | some _, _ => (List.range 8).map fun i => scratchLoc h.block (h.off + i)
  | none, some (_, ty, _) => (List.range (if ty == 6 || ty == 7 then 8 else 4)).map fun i => scratchLoc h.block (h.off + i)
  | none, none => []

/-- R223, R236, R258: what a load of a stream must see performed first: its own reductions and adds to the bytes, and of
device registers every earlier store of the stream. -/
def loadWaits (s : State) (c : Nat) (t : Strand) (lane : Bool) (locs : List Nat) : List Nat :=
  let device := locs.any fun a => !isScratch a && isleOf a == 15
  ((ownEffects s t lane).filter fun e => (lane && (sumLocs e.kind).any locs.contains) || (device && match e.kind with
      | .write b => b.any fun x => isleOf x.1 == 15
      | _ => false)).map (fun e => e.id)
    ++ ((coreOf s c).hwb.filter fun h => lane && entryOfStream t lane h && (entrySums h).any locs.contains).map fun h => h.id

/-- What an operation waits for is still under way. -/
def waitsStand (s : State) (c : Nat) (o : MemOp) : Bool :=
  o.waits.any fun n => s.effects.any (fun e => e.id == n) || (coreOf s c).hwb.any fun h => h.id == n

/-- R230, R233, R239: whether a line's bytes cannot be taken now: the line does not serve them all, the hint is `.poll`, it
is a `.sys` acquire, the isle is never cached, a window's chunk must be filled, or an earlier operation comes first. -/
def mustFetch (s : State) (c : Nat) (t : Strand) (q : LoadSpec) (waits : List Nat) (line : Nat) (locs : List Nat) : Bool :=
  let mine := locs.filter fun a => a / 128 == line
  let outside := !isScratch (128 * line)
  (outside && (q.hint == 5 || q.acquire == some 4 || 14 ≤ isleOf (128 * line))) || !waits.isEmpty || loadOrder t q.scalar mine
    || mine.any fun a => (serveByte s c t s.nextId a).isNone || needsTouch s a

/-- R227, R229: a fill of a line is under way, and serves this access as well, or starts now. -/
def startFill (k : Core) (line hint : Nat) (byp : Bool) : Core :=
  let joins (f : Fill) : Bool := f.line == line && f.answer.isNone && f.byp == byp
  if isScratch (128 * line) then k
  else if k.fills.any joins then
    { k with fills := k.fills.map fun f => if joins f then { f with hints := f.hints ++ [BitVec.ofNat 3 hint] } else f }
  else { k with fills := k.fills ++ [{ line := line, hints := [BitVec.ofNat 3 hint], answer := none, stamp := 0,
                                       gen := k.gen, byp := byp }] }

/-- R239: the virtual address of a chunk of a window. -/
def chunkAddr (w : WinDesc) (ch : Nat) : Nat := (w.gbase.toNat * 128 + 128 * (ch - w.schunk.toNat)) % 2 ^ 57

/-- R223, R239: the physical address of a chunk's global line; one in the scratch aperture has no translation (DEDUCED, log 129). -/
def chunkPhysical (s : State) (c p : Nat) (w : WinDesc) (ch : Nat) (u : Use) : Except Nat Nat :=
  if chunkAddr w ch / 2 ^ 55 = 3 then .error cTranslation else physical s c p (chunkAddr w ch) u

/-- R239: the chunk of a byte that an access touches starts its fill, which is translated now and lands later (DEDUCED, log 132). -/
def startTouch (s : State) (a : Nat) : State :=
  match blockAt s (locBlock a) with
  | none => s
  | some b =>
    if !needsTouch s a || (chunkOf b (locOff a / 128)).filling.isSome then s
    else match (windowAt b (locOff a / 128)).map fun w => (w.2, chunkPhysical s b.core b.part w.2 (locOff a / 128) .read) with
      | some (w, .ok pa) =>
        modBlock (keepTrans s b.core b.part (chunkAddr w (locOff a / 128))) (locBlock a) fun b =>
          { b with chunks := mset b.chunks (locOff a / 128) { chunkOf b (locOff a / 128) with filling := some pa } }
      | _ => s

def startTouches (s : State) (locs : List Nat) : State := locs.foldl startTouch s

/-- R191: outstanding memory requests of a core. -/
def outstanding (s : State) (c : Nat) : Nat :=
  ((residents s c).map fun e => e.2.ops.length).foldl (· + ·) 0

/-- R252: issues a load whose locations are known and whose checks have passed (DEDUCED, log 108). -/
def issueLoad (s : State) (c l : Nat) (q : LoadSpec) : State :=
  match strandAt s c l with
  | none => s
  | some t =>
    let locs := q.dests.flatMap fun d => d.locs
    let lines := linesOf locs
    let waits := loadWaits s c t (!q.scalar) locs
    let own (a : Nat) : Bool := isScratch a && locBlock a == t.block && !needsTouch s a
    let awaited := lines.filter fun n => mustFetch s c t q waits n locs && locs.any fun a => a / 128 == n && !own a
    let ready := locs.filter fun a => !awaited.contains (a / 128) || own a
    let got := capture [] (ready.filterMap fun a => (serveByte s c t s.nextId a).map fun b => (a, b))
    let owners := ready.flatMap (byteOwners s c t)
    let hits := lines.filter fun n => !awaited.contains n && !isScratch (128 * n)
    let byp := q.hint == 3 || q.hint == 5
    let o : MemOp := { id := s.nextId, region := q.region, scalar := q.scalar, flag := q.flag, flagB := none,
                       dests := q.dests, lines := awaited, got := got, asked := s.nextId, waits := waits, landed := false,
                       effects := [],
                       poll := q.hint == 5, byp := byp, acquire := q.acquire, place := q.place, index := q.index,
                       seq := q.seq }
    let pend := q.dests.flatMap fun d => (d.reg, o.id) :: (if d.pair then [(d.reg + 1, o.id)] else [])
    let t' := addDeps { t with ops := t.ops ++ [o],
                               vpend := if q.scalar then t.vpend else t.vpend ++ pend.eraseDups,
                               spend := if q.scalar then t.spend ++ pend else t.spend } q.region owners
    let s := startTouches (putStrand { s with nextId := s.nextId + 1 } c l t') locs
    let s := modCore s c fun k =>
      let k := awaited.foldl (fun k n => startFill k n q.hint (byp || 14 ≤ isleOf (128 * n))) k
      hits.foldl (fun k n => match l1Find k n with
        | some x => l1Put k (bumpRet k x q.hint)
        | none => k) k
    bump s c l q.region 5 hits.length

/-- R239, R250: the fill of a window's chunk that a touch of a byte would start cannot be translated, or its line carries an
uncorrectable-error mark: the fault that the access takes. -/
def byteFault (s : State) (a : Nat) : Option Nat :=
  match blockAt s (locBlock a) with
  | none => none
  | some b =>
    if !needsTouch s a || (chunkOf b (locOff a / 128)).filling.isSome then none
    else match windowAt b (locOff a / 128) with
      | none => none
      | some (_, w) => match chunkPhysical s b.core b.part w (locOff a / 128) .read with
        | .error k => some k
        | .ok pa => if s.poison.contains (pa / 128) then some cPoison else none

/-- R239, R250: the first fault, in the order of R250, of the fills that an access to these bytes would start. -/
def touchFault (s : State) (locs : List Nat) : Option Nat :=
  let found := locs.filterMap (byteFault s)
  match found with
  | [] => none
  | k :: ks => some (ks.foldl min k)

/-- R250: a line of a load carries an uncorrectable-error mark and the L1 does not serve it. -/
def poisoned (s : State) (c : Nat) (t : Strand) (locs : List Nat) : Bool :=
  locs.any fun a => !isScratch a && s.poison.contains (a / 128) && (serveByte s c t s.nextId a).isNone

/-- R250: a line that an operation reads at the home carries an uncorrectable-error mark, whatever the L1 holds. -/
def homePoisoned (s : State) (locs : List Nat) : Bool := locs.any fun a => !isScratch a && s.poison.contains (a / 128)

/-! ### Stores -/

/-- R209: what a store still has to wait for: a resource code, when a unit that it takes is not free. The first store of a
region to a line takes a unit of the quarantined lines, also where another region holds one of that line (DEDUCED, log 131). An entry of the hearth
write buffer holds what a store writes into one 128-byte line of a neighbour's scratch (DESIGN CHOICE, log 125). -/
def storeShort (s : State) (c : Nat) (t : Strand) (region : Nat) (locs : List Nat) : Option Nat :=
  let k := coreOf s c
  let words := ((locs.filter fun a => isScratch a && locBlock a == t.block).map fun a => locOff a / 4 * 4).eraseDups.filter fun w =>
    !(k.undo.any fun u => u.owner == region && ofWord t.block w u)
  let lines := linesOf (locs.filter fun a => !isScratch a && isleOf a < 14)
  let quar := (k.l1.map fun x => x.quar.length).foldl (· + ·) 0
  let fresh := lines.filter fun n => !(((l1Find k n).map fun x => x.quar.contains region).getD false)
  let away := (locs.filter fun a => isScratch a && locBlock a != t.block).map (fun a => a / 128) |>.eraseDups
  if undoFree k < words.length then some 2
  else if (!fresh.isEmpty && 256 < quar + fresh.length) || !roomFor k lines then some 3
  else if !away.isEmpty && 64 < hwbUsed s c + away.length then some 4
  else none

/-- R191, R209: what a store waits for: a holding unit, or a place among the core's memory requests. -/
def storeNeeds (s : State) (c : Nat) (t : Strand) (region : Nat) (locs : List Nat) : Option Nat :=
  match storeShort s c t region locs with
  | some k => some k
  | none => if 1024 ≤ outstanding s c then some 6 else none

/-- R202: the bytes of a store depart: own scratch in place, a gang member's through the hearth write
buffer, global lines as held effects with a quarantined line. The answer lists the effects. -/
def storeBytes (s : State) (c l region hint : Nat) (bs : FMap Byte) (seq place : Word) : State × List Nat :=
  match strandAt s c l with
  | none => (s, [])
  | some t =>
    let own := bs.filter fun e => isScratch e.1 && locBlock e.1 == t.block
    let away := bs.filter fun e => isScratch e.1 && locBlock e.1 != t.block
    let glob := bs.filter fun e => !isScratch e.1
    let s := scratchPuts s c region t.block (own.map fun e => (locOff e.1, e.2))
    let s := if own.isEmpty then s else modStrand s c l fun t => markEffect t region 0
    let s := ((away.map fun e => e.1 / 128).eraseDups).foldl (fun s n =>
      let part := away.filter fun e => e.1 / 128 == n
      let h : HwbEntry := { id := s.nextId, part := t.part, grid := t.grid, due := none, owner := region, slot := l, block := locBlock (128 * n), off := locOff (128 * n),
                            bytes := part.map (fun e => (locOff e.1, e.2)), add := none, reduce := none, issuer := (t.block, t.number),
                            lane := issuedByLane s.agent, seq := seq, place := place }
      modStrand (modCore { s with nextId := s.nextId + 1 } c fun k => { k with hwb := k.hwb ++ [h] }) c l
        fun t => markEffect t region 1) s
    (linesOf (glob.map fun e => e.1)).foldl (fun acc n =>
      let s := acc.1
      let part := glob.filter fun e => e.1 / 128 == n
      let id := s.nextId
      let held := isleOf (128 * n) < 14
      let s := if held then l1Store s c n region id hint part else s
      (issueEffect s c l region (homeOf s (128 * n)) (.write part) seq place held, acc.2 ++ [id])) (s, [])

/-- R252, R259: an operation of a strand that awaits the acceptance of its effects; with `.poll` it sets DEMOTE when it
completes. -/
def trackStore (s : State) (c l region : Nat) (scalar poll : Bool) (flag : Option Nat) (effs : List Nat) (seq : Word) : State :=
  let o : MemOp := { id := s.nextId, region := region, scalar := scalar, flag := none, flagB := flag,
                     dests := [], lines := [], got := [], asked := s.nextId, waits := [], landed := true, effects := effs,
                     poll := poll, byp := false, acquire := none, place := 0, index := 0, seq := seq }
  modStrand { s with nextId := s.nextId + 1 } c l fun t => { t with ops := t.ops ++ [o] }

/-- R202, R252: a store whose checks have passed. -/
def issueStore (s : State) (c l region hint : Nat) (scalar : Bool) (flag : Option Nat) (bs : List (Nat × Byte))
    (seq place : Word) : State :=
  let r := storeBytes s c l region hint (lastWins bs) seq place
  trackStore r.1 c l region scalar (hint == 5) flag r.2 seq

/-! ### Acquire and release (R233 to R235) -/

/-- R235: the end of a sweep: lines of the old generation that did not come through the read-only path are gone, and an
answer on its way that the old generation asked for is asked for again. -/
def sweepCore (k : Core) : Core :=
  { k with l1 := k.l1.map (fun x => if x.gen != k.gen && !x.rop then { x with valid := false } else x), sweeping := false,
           fills := k.fills.map fun f => if f.gen != k.gen then { f with answer := none, gen := k.gen } else f }

/-- R235, R241: the flip of a core's generation bit and the end of a block's window leases. A flip starts
a sweep. -/
def flip (s : State) (c b : Nat) : State :=
  let s := modCore s c fun k => { k with gen := !k.gen, sweeping := true }
  modBlock s b fun x => { x with chunks := x.chunks.map fun e => (e.1, { e.2 with lease := 0 }) }

/-- R235: an acquire at a scope; `.st` and `.cor` do nothing more. A flip waits for the previous sweep, so
the answer is none while one runs. -/
def acquireAt (s : State) (c b : Nat) (scope : BitVec 3) : Option State :=
  if scope.toNat < 2 then some s
  else if (coreOf s c).sweeping then none
  else some (flip s c b)

/-- R234 step 1: every clause enqueued before has issued and every earlier operation has completed. -/
def quiet (t : Strand) : Bool := t.st.queue.isEmpty && t.st.current.isNone && t.ops.isEmpty

/-- R234 step 2: what a release at `.hth` or wider waits for, once the head is taken: own scratch writes of
older regions cleared, neighbour writes past ec + Q_die, global effects completed, GWCT passed. -/
def releaseDone (s : State) (c l : Nat) (t : Strand) : Bool :=
  let older := t.regions.filter fun r => r.close.isSome
  let k := coreOf s c
  older.all (fun r => (!r.effect || r.cleared))
    && !(k.hwb.any fun h => h.slot == l)
    && !(k.adds.any fun a => older.any fun r => r.id == a.region)
    && t.effects.isEmpty && t.gwct < s.now

end Sys2Proof.Machine
end

