-- ==== Sys2Proof/Machine/ScalarOps.lean ====
section
/-! DEFINITION. What every scalar instruction shares (spec/04 R97 to R99, spec/09 R254, R271): who runs,
the scoreboard, the register-ECC check, the rename reserve, and the retirement of an instruction. -/

namespace Sys2Proof.Machine

open Sys2Proof

/-- The strand whose scalar side is running. -/
def withScalar (s : State) (f : Nat → Nat → Strand → State) : Out :=
  match s.agent with
  | .scalar c l =>
    match strandAt s c l with
    | some t => .next (f c l t)
    | none => .fault .noAgent
  | _ => .fault .noAgent

/-- R185: the scalar side is descheduled; its instruction is tried again. -/
def scalarWait (s : State) (c l : Nat) (w : Wait) : State := modStrand s c l fun t => { t with swait := w }

/-- R254: a register is the destination of a load that has not landed. -/
def loadPending (t : Strand) (r : Nat) : Bool := r != 0 && t.spend.any fun e => e.1 == r

/-- R271: the batch whose token a register holds or awaits. -/
def tokenBatch (t : Strand) (r : Nat) : Option Batch :=
  if r = 0 then none
  else (t.tpend.find? fun e => e.1 == r).bind fun e => t.batches.find? fun b => b.number == e.2

/-- R271: a register is pending on a token that is not yet written. -/
def tokenPending (t : Strand) (r : Nat) : Bool := ((tokenBatch t r).map fun b => b.token.isNone).getD false

/-- R271: the first read of a token that has been written: the read performs an acquire at `.hth`. -/
def tokenUnread (t : Strand) (r : Nat) : Bool := ((tokenBatch t r).map fun b => b.token.isSome && !b.read).getD false

/-- R210: a wait for a token whose batch holds a copy of the open region needs an implicit head. -/
def tokenNeedsHead (s : State) (t : Strand) (r : Nat) : Bool :=
  ((tokenBatch t r).map fun b => b.token.isNone && b.copies.any fun k =>
    s.copies.any fun y => y.id == k && y.region == openId t).getD false
    && ((openRegion t).map fun r => r.effect).getD false

/-- R271: the tokens of these registers have been read. -/
def readTokens (t : Strand) (rs : List Nat) : Strand :=
  let nums := (t.tpend.filter fun e => rs.contains e.1).map fun e => e.2
  { t with batches := t.batches.map (fun b => if nums.contains b.number && b.token.isSome then { b with read := true } else b),
           tpend := t.tpend.filter fun e => !(rs.contains e.1) }

/-- R203, R209: lane rename units in use on a core, those of squashed writes that have not landed included. -/
def laneUnits (s : State) (c : Nat) : Nat :=
  ((residents s c).map fun e => ((e.2.regions.filter fun r => !r.cleared).map fun r => r.lanes.length).foldl (· + ·) 0).foldl (· + ·)
    (((coreOf s c).lateUnits.map fun e => e.2).foldl (· + ·) 0)

/-- R209: scalar rename units in use on a core. -/
def scalarUnits (s : State) (c : Nat) : Nat :=
  ((residents s c).map fun e => ((e.2.regions.filter fun r => !r.cleared).map fun r => r.scalars.length).foldl (· + ·) 0).foldl (· + ·) 0

/-- R209: the first writes to registers after a head find too few units of the scalar reserve. -/
def scalarReserveShort (s : State) (c : Nat) (t : Strand) (ds : List Nat) : Bool :=
  let fresh := ds.eraseDups.filter fun d => d != 0 && !(((openRegion t).map fun r => r.scalars.contains d).getD true)
  !fresh.isEmpty && 1024 < scalarUnits s c + fresh.length

/-- R209: the open region has written a scalar register. -/
def noteScalar (t : Strand) (d : Nat) : Strand :=
  if d = 0 then t else modRegion t (openId t) fun r => if r.scalars.contains d then r else { r with scalars := d :: r.scalars }

/-- R38: a source holds an uncorrectable error. -/
def sourcePoisoned (t : Strand) (rs : List Nat) : Bool := rs.any fun r => r != 0 && t.sc.spoison.contains r

/-- R97, R38, R62, R254, R271: what comes before a scalar instruction reads registers `rs` and writes `ds`: it waits for
pending registers, performs the acquire of a token's first read and takes the register-ECC trap of a poisoned source; then `k`
acts. -/
def scalarRegs (s : State) (c l : Nat) (t : Strand) (rs ds : List Nat) (k : State → Strand → State) : State :=
  if (ds ++ rs).any (loadPending t) then scalarWait s c l .pending
  else if rs.any (tokenNeedsHead s t) then if !headRoom t then scalarWait s c l .region else scalarWait (implicitHead s c l t.sc t.st) c l .token
  else if (ds ++ rs).any (tokenPending t) then scalarWait s c l .token
  else if scalarReserveShort s c t ds then scalarWait s c l (.resource 1)
  else if !(t.tpend.any fun e => (ds ++ rs).contains e.1) then
    if sourcePoisoned t rs then scalarTrap s c l 0x06 0 else k s t
  else
    let unread := rs.filter (tokenUnread t)
    match (if unread.isEmpty then some s else acquireAt s c t.block 2) with
    | none => scalarWait s c l .clearing
    | some s' =>
      if sourcePoisoned t rs then scalarTrap s' c l 0x06 0
      else
        let t' := readTokens t (unread ++ ds)
        k (putStrand s' c l t') t'

/-- What comes before every scalar instruction that reads registers `rs` and writes `d`. -/
def scalarRun (s : State) (rs : List Nat) (d : Nat) (k : State → Nat → Nat → Strand → State) : Out :=
  withScalar s fun c l t => scalarRegs s c l t rs [d] fun s t => k s c l t

/-- R97, R98: a scalar instruction retires: its strand takes the new scalar side, the sequence counter
advances and the instruction is counted (R373). -/
def finish (s : State) (c l d : Nat) (x : ScalarSide) : State :=
  let s := modStrand s c l fun t =>
    { noteScalar t d with sc := { x with seq := x.seq + 1 }, swait := .none, sphase := .idle }
  match strandAt s c l with
  | some t => bump s c l (lastId t) 0 1
  | none => s

/-- SPC advances to the next instruction. -/
def nextPc (x : ScalarSide) : ScalarSide := { x with spc := x.spc + 4 }

/-- R100: an instruction that reads registers and writes one. -/
def scalarValue (s : State) (rs : List Nat) (d : BitVec 7) (v : ScalarSide → Word) : Out :=
  scalarRun s rs d.toNat fun s c l t => finish s c l d.toNat (nextPc (sput t.sc d.toNat (v t.sc)))

/-- R61: the reserved-encoding trap of a scalar instruction. -/
def scalarReserved (s : State) : Out := withScalar s fun c l _ => scalarTrap s c l 0x02 0x03

end Sys2Proof.Machine
end

