-- ==== Sys2Proof/Machine/ScalarMem.lean ====
section
/-! DEFINITION. Scalar loads and stores, fences, releases and the saved path stack (spec/09 R253, R254, R264,
spec/08 R233 to R236, spec/04 R116). -/

namespace Sys2Proof.Machine

open Sys2Proof

/-- R46: the length of an access size in bytes, and whether a load extends by sign. -/
def sizeBytes (z : BitVec 3) : Nat := 2 ^ (z.toNat / 2)
def sizeSigned (z : BitVec 3) : Bool := z.getLsbD 0

/-- R46, R253: the address of a scalar access. -/
def scalarAddr (x : ScalarSide) (a : BitVec 7) (o : BitVec 6) (z : BitVec 3) : Word :=
  sget x a.toNat + BitVec.ofInt 64 (o.toInt * (sizeBytes z : Int))

/-- R235: a load acquire of the strand has not completed. -/
def acquirePending (t : Strand) : Bool := t.ops.any fun o => o.acquire.isSome

/-- R235: a scalar instruction that accesses memory; it waits for an earlier acquire of the strand. -/
def memRun (s : State) (rs : List Nat) (d : Nat) (k : State → Nat → Nat → Strand → State) : Out :=
  scalarRun s rs d fun s c l t => if acquirePending t then scalarWait s c l .pending else k s c l t

/-- R239: a read touch of the locations needs window fills, which an instruction that reads at once waits for. -/
def touchWaits (s : State) (locs : List Nat) : Bool := locs.any (needsTouch s)

/-- R246: a byte of a line half that a CXL host owns: the access waits for the recall. -/
def hostOwned (s : State) (locs : List Nat) : Bool := locs.any fun a => !isScratch a && s.owned.contains (a / 64)

/-- R250: the faults of a read of n bytes, in the order of the table. -/
def readFault (s : State) (c : Nat) (t : Strand) (a : Word) (n : Nat) (aligned : Bool) : Except Nat (List Nat) :=
  if aligned && a.toNat % n ≠ 0 then .error cAlign
  else match locate s c t a n .read with
    | .error k => .error k
    | .ok locs =>
      match touchFault s locs with
      | some k => .error k
      | none => if poisoned s c t locs then .error cPoison else .ok locs

/-- R250: the faults of a write of n bytes. -/
def writeFault (s : State) (c : Nat) (t : Strand) (a : Word) (n : Nat) (aligned : Bool) : Except Nat (List Nat) :=
  if aligned && a.toNat % n ≠ 0 then .error cAlign
  else match locate s c t a n .write with
    | .error k => .error k
    | .ok locs =>
      if locs.any fun x => isScratch x && ((blockAt s (locBlock x)).map fun b => writeForbidden b (locOff x)).getD false
      then .error cWindow else .ok locs

/-- R236, R239, R246, R274: what an instruction that reads bytes at once waits for: an earlier load of its stream, the recall of a
half that a CXL host owns where the L1 does not serve it, and the fill of a window's chunk. -/
def readWait (s : State) (c : Nat) (t : Strand) (locs : List Nat) : Option Wait :=
  let away := locs.filter fun a => (serveByte s c t s.nextId a).isNone
  if loadOrder t true locs || hostOwned s away || claimHeld s away then some .pending
  else if touchWaits s locs then some .fill else none

/-- A scalar load whose form is legal (R253, R254): faults at once, or an outstanding operation (DEDUCED, log 9). -/
def scalarLoad (s : State) (c l : Nat) (t : Strand) (d a : BitVec 7) (o : BitVec 6) (z : BitVec 3)
    (hint : Nat) (acquire : Option (BitVec 3)) : State :=
  let addr := scalarAddr t.sc a o z
  let n := sizeBytes z
  match readFault s c t addr n true with
  | .error k => scalarFault s c l k addr
  | .ok locs =>
    let s := keepFor s c t addr n
    if 1024 ≤ outstanding s c then scalarWait s c l (.resource 6)
    else
      let dest : Dest := { lane := 64, reg := d.toNat, addr := addr, locs := locs, signed := sizeSigned z, pair := false }
      let q : LoadSpec := { region := openId t, scalar := true, flag := none, dests := [dest], hint := hint,
                            acquire := acquire, place := t.sc.spc, index := 0, seq := t.sc.seq }
      let s := issueLoad s c l q
      match strandAt s c l with
      | some t => finish s c l d.toNat (nextPc t.sc)
      | none => s

/-- R253. -/
def execSld (d a : BitVec 7) (o : BitVec 6) (z h : BitVec 3) (s : State) : Out :=
  if z == 7 || 5 < h.toNat then scalarReserved s
  else memRun s [a.toNat] d.toNat fun s c l t => scalarLoad s c l t d a o z h.toNat none

/-- R253, R235. No later access performs until the acquire has completed: the strand waits for it. -/
def execSldAcquire (d a : BitVec 7) (o : BitVec 6) (z k : BitVec 3) (s : State) : Out :=
  if z == 7 || !scopeOk k then scalarReserved s
  else memRun s [a.toNat] d.toNat fun s c l t => scalarLoad s c l t d a o z 0 (some k)

/-- The store of a scalar register at an address: faults, waits for holding units, or departs; an earlier load of its bytes that is
still pending reads before it (R236, `fillByte`, `readsFirst`). -/
def scalarStoreAt (s : State) (c l : Nat) (t : Strand) (addr : Word) (n hint : Nat) (v : Word) : State :=
  match writeFault s c t addr n true with
  | .error k => scalarFault s c l k addr
  | .ok locs =>
    let s := keepFor s c t addr n
    if (storeNeeds s c t (openId t) locs).isSome then scalarWait s c l (.resource ((storeNeeds s c t (openId t) locs).getD 6))
    else
      let s := issueStore s c l (openId t) hint true none (locs.zip (leBytes n v.toNat)) t.sc.seq t.sc.spc
      match strandAt s c l with
      | some t => finish s c l 0 (nextPc t.sc)
      | none => s

/-- R253. -/
def execSst (d a : BitVec 7) (o : BitVec 6) (z h : BitVec 3) (s : State) : Out :=
  if z.getLsbD 0 || 3 < h.toNat then scalarReserved s
  else memRun s [d.toNat, a.toNat] 0 fun s c l t =>
    scalarStoreAt s c l t (scalarAddr t.sc a o z) (sizeBytes z) h.toNat (sget t.sc d.toNat)

/-! ### Write-back of windows (R240, R241) -/

/-- The bytes of a chunk's dirty words at a global line. -/
def dirtyBytes (b : Block) (ch : Nat) (line : Nat) : FMap Byte :=
  let k := chunkOf b ch
  ((List.range 32).filter fun j => k.wdirty.getLsbD j).flatMap fun j =>
    (List.range 4).map fun i => (128 * line + 4 * j + i, memByte b.scratch (128 * ch + 4 * j + i))

/-- The dirty chunks of a block's windows: window and chunk. -/
def dirtyChunks (b : Block) (only : Option Nat) : List (Nat × WinDesc × Nat) :=
  (b.wins.filter fun e => e.2.valid && (only.isNone || only == some e.1)).flatMap fun e =>
    ((b.chunks.filter fun k => k.2.wdirty != 0 && e.2.schunk.toNat ≤ k.1 && k.1 < e.2.schunk.toNat + e.2.nchunk.toNat).map
      fun k => (e.1, e.2, k.1))

/-- R240: the first fault of a write-back, with its address. -/
def writeBackFault (s : State) (c : Nat) (t : Strand) (only : Option Nat) : Option (Nat × Word) :=
  match blockAt s t.block with
  | none => none
  | some b => (dirtyChunks b only).findSome? fun e =>
      match chunkPhysical s c t.part e.2.1 e.2.2 .write with
      | .error k => some (k, BitVec.ofInt 64 (sgn 57 (chunkAddr e.2.1 e.2.2)))
      | .ok _ => none

/-- R209: the undo records of a write-back are not all free. -/
def writeBackShort (s : State) (c : Nat) (t : Strand) (only : Option Nat) : Bool :=
  match blockAt s t.block with
  | none => false
  | some b => undoFree (coreOf s c) < (dirtyChunks b only).length

/-- R240: a write-back of a window, or of every window: one masked write for each dirty chunk, in a region. -/
def writeBack (s : State) (c l : Nat) (t : Strand) (reg : Nat) (only : Option Nat) : State :=
  match blockAt s t.block with
  | none => s
  | some b => (dirtyChunks b only).foldl (fun s e =>
      match chunkPhysical s c t.part e.2.1 e.2.2 .write with
      | .error _ => s
      | .ok pa =>
        let k := chunkOf b e.2.2
        let s := keepTrans s c t.part (chunkAddr e.2.1 e.2.2)
        let s := issueEffect s c l reg (homeOf s pa) (.write (dirtyBytes b e.2.2 (pa / 128))) t.sc.seq t.sc.spc
        let s := modCore s c fun q => { q with undo := { owner := reg, what := .dirty t.block e.2.2 k.wdirty } :: q.undo }
        let own := ((List.range 32).filter fun j => k.wdirty.getLsbD j).flatMap fun j =>
          scratchOwners (coreOf s c) t.block (128 * e.2.2 + 4 * j) 4
        let s := modStrand s c l fun t => addDeps t reg own
        modBlock s t.block fun x => { x with chunks := mmod x.chunks e.2.2 fun k => { k with wdirty := 0 } }) s

/-! ### Release (R234) -/

/-- R234 steps 1 and 2 up to the wait: the scalar side waits for the strand's clauses and operations, the
windows are written back, and an implicit head is taken when the open region has issued an effect. -/
def releaseBegin (s : State) (c l : Nat) (t : Strand) : State :=
  if !quiet t then scalarWait s c l .release
  else if !headRoom t then scalarWait s c l .region
  else match writeBackFault s c t none with
    | some (k, a) => scalarFault s c l k a
    | none =>
      if writeBackShort s c t none then scalarWait s c l (.resource 2) else
      let s := writeBack s c l t (openId t) none
      match strandAt s c l with
      | none => s
      | some t =>
        let s := if ((openRegion t).map fun r => r.effect).getD false then implicitHead s c l t.sc t.st else s
        modStrand s c l fun t => { t with sphase := .releasing, swait := .release }

/-- R233, R234: what the scalar side does at a release of a scope: `.next` effects go on to `k`. -/
def releaseThen (s : State) (c l : Nat) (t : Strand) (scope : BitVec 3) (k : State → Strand → State) : State :=
  match t.sphase with
  | .releasing => if releaseDone s c l t then k s t else scalarWait s c l .release
  | .released => k s t
  | _ =>
    if scope.toNat < 2 then if quiet t then k s t else scalarWait s c l .release
    else releaseBegin s c l t

/-- R253, R234: a store release: the release, then the store as a held effect of the next region. -/
def execSstRelease (d a : BitVec 7) (o : BitVec 6) (z k : BitVec 3) (s : State) : Out :=
  if z.getLsbD 0 || !scopeOk k then scalarReserved s
  else memRun s [d.toNat, a.toNat] 0 fun s c l t =>
    let addr := scalarAddr t.sc a o z
    match writeFault s c t addr (sizeBytes z) true with
    | .error e => scalarFault s c l e addr
    | .ok _ => releaseThen s c l t k fun s t => scalarStoreAt s c l t addr (sizeBytes z) 0 (sget t.sc d.toNat)

/-- R235: the acquire of a scalar instruction, after earlier operations of the strand that it orders; then
the instruction retires. -/
def acquireThen (s : State) (c l : Nat) (t : Strand) (scope : BitVec 3) (k : State → State) : State :=
  match acquireAt s c t.block scope with
  | none => scalarWait s c l .clearing
  | some s' => k s'

/-- R264. Every fence is ordered after the accesses of both streams before it (R236). -/
def execFence (k : BitVec 2) (scope : BitVec 3) (s : State) : Out :=
  if k == 0 || !scopeOk scope then scalarReserved s
  else memRun s [] 0 fun s c l t =>
    let fin (s : State) : State := match strandAt s c l with
      | some t => finish s c l 0 (nextPc t.sc)
      | none => s
    if k == 1 then if quiet t then acquireThen s c l t scope fin else scalarWait s c l .release
    else releaseThen s c l t scope fun s t => if k == 2 then fin s else acquireThen s c l t scope fin

/-! ### The saved path stack (R116, R31) -/

/-- R31: the 16 bytes of a path-stack entry. -/
def entryBytes (e : PathEntry) : List Byte :=
  leBytes 8 (e.addr.toNat % 2 ^ 57 / 4 * 4 + (if e.join then 1 else 0)) ++ leBytes 8 e.mask.toNat

/-- R31: an entry from its 16 bytes; none when a reserved bit is set. -/
def entryOf (l : List Byte) : Option PathEntry :=
  let lo := leNat (l.take 8)
  if bits lo 63 57 ≠ 0 || lo.testBit 1 then none
  else some { mask := BitVec.ofNat 64 (leNat (l.drop 8)), addr := canonPc lo, join := lo.testBit 0 }

/-- R116: the whole path stack goes to memory as default-hint stores at strand scope. -/
def execPqsave (a : BitVec 7) (s : State) : Out :=
  memRun s [a.toNat] 0 fun s c l t =>
    let addr := sget t.sc a.toNat
    let n := 16 * (t.sc.path.length + 1)
    if addr.toNat % 16 ≠ 0 then scalarFault s c l cAlign addr
    else match writeFault s c t addr n false with
      | .error k => scalarFault s c l k addr
      | .ok locs =>
        let s := keepFor s c t addr n
        if (storeNeeds s c t (openId t) locs).isSome then scalarWait s c l (.resource ((storeNeeds s c t (openId t) locs).getD 6))
        else
          let image := leBytes 16 t.sc.path.length ++ t.sc.path.flatMap entryBytes
          let s := issueStore s c l (openId t) 0 true none (locs.zip image) t.sc.seq t.sc.spc
          match strandAt s c l with
          | some t => finish s c l 0 (nextPc { t.sc with path := [] })
          | none => s

/-- The bytes of locations as the strand's own reads see them now: the L1 and scratch where they serve, else an earlier store
of the strand (R236), else the released value at the home (R230, R232). -/
def seenByte (s : State) (c : Nat) (t : Strand) (a : Nat) : Byte :=
  (serveByte s c t s.nextId a).getD ((ownStore s c t s.nextId a).getD (homeByte s a))

/-- The entries of a path-stack image, bottom first; none when one has a reserved bit set. -/
def readEntries : Nat → List Byte → Option (List PathEntry)
  | 0, _ => some []
  | n + 1, l =>
    match entryOf (l.take 16) with
    | none => none
    | some e => (readEntries n (l.drop 16)).map fun r => e :: r

/-- R116: the path stack is replaced by an image from memory. -/
def execPqload (a : BitVec 7) (s : State) : Out :=
  memRun s [a.toNat] 0 fun s c l t =>
    let addr := sget t.sc a.toNat
    if addr.toNat % 16 ≠ 0 then scalarFault s c l cAlign addr
    else if !t.sc.path.isEmpty then scalarTrap s c l 0x08 0
    else match readFault s c t addr 16 false with
      | .error k => scalarFault s c l k addr
      | .ok hd =>
        match readWait s c t hd with
        | some w => scalarWait (startTouches s hd) c l w
        | none =>
        let head := leNat (hd.map (seenByte s c t))
        let count := head % 32
        if 32 ≤ head || 16 < count then scalarTrap s c l 0x03 0
        else match (if count = 0 then .ok [] else readFault s c t (addr + 16) (16 * count) false) with
          | .error k => scalarFault s c l k (addr + 16)
          | .ok locs =>
            match readWait s c t locs with
            | some w => scalarWait (startTouches s locs) c l w
            | none =>
            match readEntries count (locs.map (seenByte s c t)) with
            | none => scalarTrap s c l 0x03 0
            | some p =>
              let s := modStrand { keepFor s c t addr (16 * (count + 1)) with fresh := s.fresh + 1 } c l fun t =>
                addDeps t (openId t) ((hd ++ locs).flatMap (byteOwners s c t))
              match strandAt s c l with
              | some t => finish s c l 0 (nextPc { t.sc with path := p })
              | none => s

end Sys2Proof.Machine
end

