-- ==== Sys2Proof/Machine/Fetch.lean ====
section
/-! DEFINITION. Where instruction words lie and how they are fetched (spec/02 R40, spec/16 R323, spec/19
R397): sections, words, clause headers (R54, R55) and recipe records (R123). -/

namespace Sys2Proof.Machine

open Sys2Proof

/-- The launch record of a strand's grid. -/
def recordOf (s : State) (p g : Nat) : Option LaunchRec := (gridAt s p g).map fun x => x.record

/-- R40: n bytes from an address lie inside a section. -/
def inSection (base : Word) (len : Nat) (a : Word) (n : Nat) : Bool := (a - base).toNat + n ≤ len

/-- R40, R397: fetches n bytes of code: outside its section the instruction-fetch fault, else the fault of
the translation, or poison (R250). -/
def fetchBytes (s : State) (c p : Nat) (base : Word) (len : Nat) (a : Word) (n : Nat) : Except Nat (List Byte) :=
  if !inSection base len a n then .error 0x01
  else match readVirtual s c p a n .fetch with
    | .error k => .error k
    | .ok l =>
      match physical s c p (a.toNat % 2 ^ 57) .fetch with
      | .ok pa => if s.poison.contains (pa / 128) then .error cPoison else .ok l
      | .error k => .error k

/-- R246: a byte of a word to be fetched lies in a half that a CXL host owns: the fetch waits for the recall. -/
def codeOwned (s : State) (c p : Nat) (a : Word) (n : Nat) : Bool :=
  !s.owned.isEmpty && (List.range n).any fun i => match physical s c p ((a.toNat + i) % 2 ^ 57) .fetch with
    | .ok pa => s.owned.contains (pa / 64)
    | .error k => k == cRecall

/-- R398: a fetch of n bytes of code keeps the translations that it walks. -/
def keepCode (s : State) (c p : Nat) (a : Word) (n : Nat) : State :=
  if canonical a then keepTrans (keepTrans s c p (a.toNat % 2 ^ 57)) c p ((a.toNat + (n - 1)) % 2 ^ 57) else s

/-- The fault address that a fetch fault reports: none for the instruction-fetch fault (R375). -/
def fetchAddr (code : Nat) (a : Word) : Word := if code = 0x01 then 0 else a

/-- R40: the bytes of a scalar word. -/
def fetchScalar (s : State) (c : Nat) (t : Strand) (a : Word) (n : Nat) : Except Nat (List Byte) :=
  match recordOf s t.part t.grid with
  | none => .error 0x01
  | some r => fetchBytes s c t.part r.scode r.ssize a n

/-- R40: the address of lane unit n. -/
def laneUnit (r : LaunchRec) (n : Nat) : Word := r.lcode + BitVec.ofNat 64 (12 * n)

/-- R246: lane unit n of a strand waits for a recall. -/
def laneOwned (s : State) (c : Nat) (t : Strand) (n : Nat) : Bool :=
  (recordOf s t.part t.grid).any fun r => codeOwned s c t.part (laneUnit r n) 12

/-- R40, R323: the 12 bytes of a lane unit. -/
def fetchLane (s : State) (c : Nat) (t : Strand) (n : Nat) : Except Nat (List Byte) :=
  match recordOf s t.part t.grid with
  | none => .error 0x01
  | some r => fetchBytes s c t.part r.lcode (12 * r.lunits) (laneUnit r n) 12

/-- R40, R323: the 12 bytes of a matrix instruction of a block. -/
def fetchMatrix (s : State) (c : Nat) (b : Block) (n : Nat) : Except Nat (List Byte) :=
  match recordOf s b.part b.grid with
  | none => .error 0x01
  | some r => if r.munits ≤ n then .error 0x01
    else fetchBytes s c b.part r.mcode (12 * r.munits) (r.mcode + BitVec.ofNat 64 (12 * n)) 12

/-- R54, R55: a clause header, or none when it is malformed. -/
def readHeader (w : Nat) : Option Header :=
  let a := bits w 75 72
  let b := bits w 71 68
  if bits w 95 88 ≠ 0xC0 || (12 ≤ a && a ≤ 14) || (12 ≤ b && b ≤ 14) || bits w 54 0 ≠ 0 then none
  else some { wait := BitVec.ofNat 12 (bits w 87 76), flagA := BitVec.ofNat 4 a, flagB := BitVec.ofNat 4 b,
              len := BitVec.ofNat 5 (bits w 67 63), mbox := BitVec.ofNat 8 (bits w 62 55) }

/-- R123: the ranges of a recipe: ascending, apart, FIRST ≤ LAST ≤ 767 and no reserved bit. -/
def rangesOf : Nat → Nat → List Byte → Option (List (Nat × Nat))
  | 0, _, _ => some []
  | n + 1, least, l =>
    let w := leNat (l.take 4)
    let first := bits w 9 0
    let last := bits w 19 10
    if bits w 31 20 ≠ 0 || first < least || last < first || 767 < last then none
    else (rangesOf n (last + 1) (l.drop 4)).map fun r => (first, last) :: r

/-- R123, R124: no reserved bit of a recipe's head is set and NRANGE is legal. Bits that must be 0 count as reserved
(DEDUCED, log 20). -/
def recipeHeadOk (head : Nat) : Bool :=
  !(head.testBit 0 || head.testBit 128 || bits head 159 157 ≠ 0 || bits head 191 186 ≠ 0
    || bits head 255 197 ≠ 0 || 24 < bits head 196 192 || (!head.testBit 156 && bits head 185 160 ≠ 0))

/-- R123: a recipe from its head and its ranges. -/
def readRecipe (head : Nat) (ranges : List (Nat × Nat)) : Recipe :=
  { slive := BitVec.ofNat 128 (bits head 127 0), plive := BitVec.ofNat 24 (bits head 151 128),
    ilive := BitVec.ofNat 4 (bits head 155 152), remv := head.testBit 156, remat := BitVec.ofNat 26 (bits head 185 160),
    ranges := ranges }

end Sys2Proof.Machine
end

