-- ==== Sys2Proof/Machine/Formats.lean ====
section
/-! DEFINITION. Number formats, rounding, saturation, group sums and conversions (spec/03 R70 to R96), over
exact rational values. -/

namespace Sys2Proof

/-- An exact value (R72 to R78): a signed rational with signed zero, an infinity, or NaN. The denominator
of a finite value is never 0. -/
inductive Num where
  | nan
  | inf (neg : Bool)
  | fin (neg : Bool) (n d : Nat)
  deriving DecidableEq, Repr

namespace Num

/-- The value of an integer. -/
def ofInt (x : Int) : Num := .fin (x < 0) x.natAbs 1
/-- Zero with a sign. -/
def zero (neg : Bool) : Num := .fin neg 0 1
def isNan : Num → Bool | .nan => true | _ => false
def isZero : Num → Bool | .fin _ n _ => n == 0 | _ => false
def sign : Num → Bool | .nan => false | .inf s => s | .fin s _ _ => s
def neg : Num → Num | .nan => .nan | .inf s => .inf (!s) | .fin s n d => .fin (!s) n d

/-- The numerator with its sign, over the denominator. -/
def signed (s : Bool) (n : Nat) : Int := if s then -(n : Int) else (n : Int)

/-- Multiplication by 2^e, exact. -/
def scale (x : Num) (e : Int) : Num :=
  match x with
  | .fin s n d => if 0 ≤ e then .fin s (n * 2 ^ e.toNat) d else .fin s n (d * 2 ^ (-e).toNat)
  | y => y

/-- Exact product; 0 × ∞ is NaN (R93, R150). -/
def mul : Num → Num → Num
  | .nan, _ => .nan
  | _, .nan => .nan
  | .inf s, .inf t => .inf (s != t)
  | .inf s, .fin t n _ => if n = 0 then .nan else .inf (s != t)
  | .fin s n _, .inf t => if n = 0 then .nan else .inf (s != t)
  | .fin s n d, .fin t m e => .fin (s != t) (n * m) (d * e)

/-- Exact quotient (R150 `vfdiv`, R85). -/
def div : Num → Num → Num
  | .nan, _ => .nan
  | _, .nan => .nan
  | .inf _, .inf _ => .nan
  | .inf s, .fin t _ _ => .inf (s != t)
  | .fin s _ _, .inf t => .fin (s != t) 0 1
  | .fin s n d, .fin t m e =>
    if m = 0 then (if n = 0 then .nan else .inf (s != t)) else .fin (s != t) (n * e) (d * m)

/-- One addition to an exact sum; an exact zero is +0 unless both addends are −0 (R93, R150). -/
def add : Num → Num → Num
  | .nan, _ => .nan
  | _, .nan => .nan
  | .inf s, .inf t => if s = t then .inf s else .nan
  | .inf s, .fin _ _ _ => .inf s
  | .fin _ _ _, .inf t => .inf t
  | .fin s n d, .fin t m e =>
    let x := signed s n * (e : Int) + signed t m * (d : Int)
    if x = 0 then .fin (s && t && n == 0 && m == 0) 0 1 else .fin (x < 0) x.natAbs (d * e)

/-- R93: the exact sum of terms; its order does not matter. -/
def gsum : List Num → Num
  | [] => zero false
  | [x] => x
  | x :: t => add x (gsum t)

/-- Magnitudes compare as n × e against m × d. -/
def magLt (n d m e : Nat) : Bool := n * e < m * d

/-- Numeric order of two values that are not NaN; +0 and −0 are equal. -/
def lt : Num → Num → Bool
  | .nan, _ => false
  | _, .nan => false
  | .inf s, .inf t => s && !t
  | .inf s, .fin _ _ _ => s
  | .fin _ _ _, .inf t => !t
  | .fin s n d, .fin t m e => signed s n * (e : Int) < signed t m * (d : Int)

def eq (a b : Num) : Bool := !a.isNan && !b.isNan && !lt a b && !lt b a

end Num

/-! ### Float formats -/

/-- R71, R73: a float format: exponent and mantissa width, bias, the largest finite pattern, the canonical
NaN, and whether it has infinities. -/
structure FloatFmt where
  e    : Nat
  m    : Nat
  bias : Nat
  top  : Nat
  qnan : Nat
  hasInf : Bool
  deriving DecidableEq, Repr

def fp32 : FloatFmt := { e := 8, m := 23, bias := 127, top := 0x7F7FFFFF, qnan := 0x7FC00000, hasInf := true }
def bf16 : FloatFmt := { e := 8, m := 7, bias := 127, top := 0x7F7F, qnan := 0x7FC0, hasInf := true }
def f16 : FloatFmt := { e := 5, m := 10, bias := 15, top := 0x7BFF, qnan := 0x7E00, hasInf := true }
def f8a : FloatFmt := { e := 4, m := 3, bias := 7, top := 0x7E, qnan := 0x7F, hasInf := false }
def f8b : FloatFmt := { e := 5, m := 2, bias := 15, top := 0x7B, qnan := 0x7E, hasInf := true }

/-- The width of a format. -/
def FloatFmt.width (f : FloatFmt) : Nat := 1 + f.e + f.m

/-- The value of a magnitude pattern by the zero, subnormal and normal rules of R72. -/
def FloatFmt.mag (f : FloatFmt) (p : Nat) : Num :=
  let ex := p / 2 ^ f.m
  let mant := p % 2 ^ f.m
  let n := if ex = 0 then mant else 2 ^ f.m + mant
  let k : Int := (max ex 1 : Nat) - f.bias - f.m
  Num.scale (.fin false n 1) k

/-- R72: decodes a pattern. -/
def FloatFmt.decode (f : FloatFmt) (x : Nat) : Num :=
  let neg := x.testBit (f.e + f.m)
  let p := x % 2 ^ (f.e + f.m)
  if p ≤ f.top then (if neg then (f.mag p).neg else f.mag p)
  else if f.hasInf && p == f.top + 1 then .inf neg
  else .nan

/-- R86, R88: a nonnegative rational to an integer: nearest even, or toward zero. -/
def roundNat (rz : Bool) (n d : Nat) : Nat :=
  let q := n / d
  let r := n % d
  if !rz && (d < 2 * r || (d == 2 * r && q % 2 == 1)) then q + 1 else q

/-- The largest l with 2^l at or below n / d, for n ≠ 0. -/
def floorLog (n d : Nat) : Int :=
  let l : Int := (Nat.log2 n : Int) - (Nat.log2 d : Int)
  let below : Bool := if 0 ≤ l then n < d * 2 ^ l.toNat else n * 2 ^ (-l).toNat < d
  if below then l - 1 else l

/-- R86: the magnitude pattern of n / d in a format whose exponents extend without bound. Patterns rise
with magnitudes. -/
def FloatFmt.round (f : FloatFmt) (rz : Bool) (n d : Nat) : Nat :=
  if n = 0 then 0
  else
    let ex := max (floorLog n d) (1 - (f.bias : Int))
    let k := ex - (f.m : Int)
    let q := if 0 ≤ k then roundNat rz n (d * 2 ^ k.toNat) else roundNat rz (n * 2 ^ (-k).toNat) d
    (ex + f.bias - 1).toNat * 2 ^ f.m + q

/-- A magnitude pattern with its sign. -/
def FloatFmt.pack (f : FloatFmt) (neg : Bool) (p : Nat) : Nat := (if neg then 2 ^ (f.e + f.m) else 0) + p

/-- R91: encodes a value; the flag is the sticky bit. Formats without infinity always saturate. -/
def FloatFmt.encode (f : FloatFmt) (rz sat : Bool) (x : Num) : Nat × Bool :=
  match x with
  | .nan => (f.qnan, false)
  | .inf s => if sat || !f.hasInf then (f.pack s f.top, true) else (f.pack s (f.top + 1), false)
  | .fin s n d =>
    let p := f.round rz n d
    if p ≤ f.top then (f.pack s p, false)
    else if sat || !f.hasInf then (f.pack s f.top, true)
    else if rz then (f.pack s f.top, false)
    else (f.pack s (f.top + 1), false)

/-- An arithmetic result in a float type: one rounding, the SATEN = 0 column of R91 (R150). -/
def FloatFmt.result (f : FloatFmt) (rz : Bool) (x : Num) : Nat := (f.encode rz false x).1

/-! ### I8 and the integer targets -/

/-- R76, R90, R91: encodes into I8. -/
def encodeI8 (rz : Bool) : Num → Nat × Bool
  | .nan => (0, true)
  | .inf s => (if s then 0x80 else 0x7F, true)
  | .fin s n d =>
    let q := roundNat rz n d
    if s then (if 128 < q then (0x80, true) else ((256 - q) % 256, false))
    else if 127 < q then (0x7F, true) else (q, false)

/-- R96: a conversion into an integer lane type of w bits. -/
def encodeInt (signed : Bool) (w : Nat) (rz : Bool) (x : Num) : Nat :=
  let lo : Int := if signed then -(2 ^ (w - 1) : Nat) else 0
  let hi : Int := if signed then (2 ^ (w - 1) : Nat) - 1 else (2 ^ w : Nat) - 1
  match x with
  | .nan => 0
  | .inf s => wrapNat w (if s then lo else hi)
  | .fin s n d =>
    let q : Int := Num.signed s (roundNat rz n d)
    wrapNat w (max lo (min hi q))

/-! ### Q4X (R77 to R79, R89, R90) -/

/-- The magnitude of an outlier with step x and mantissa bit f, in units of 2^(B − 1). -/
def outlierMag (c : Nat) : Nat := 2 ^ (c / 2 % 4) * (2 + c % 2)

/-- R78: the value of a carrier under base B. -/
def outlier (b : Int) (c : Nat) : Num := Num.scale (.fin (c.testBit 3) (outlierMag c) 1) (b - 1)

/-- R77: an ordinary nibble. -/
def ordinary (c : Nat) : Num := Num.ofInt (sgn 4 c)

/-- R78: decodes a pair: the even and the odd element. -/
def decodePair (b : Int) (x : Nat) : Num × Num :=
  let lo := x % 16
  let hi := x / 16 % 16
  if lo = 8 then (outlier b hi, Num.zero false)
  else if hi = 8 then (Num.zero false, outlier b lo)
  else (ordinary lo, ordinary hi)

/-- R89, R90: magnitudes in units of 1/128, exact for every OEXP from −6 to +5: outlier code c. -/
def outlier128 (b : Int) (c : Nat) : Nat := outlierMag c * 2 ^ (b + 6).toNat

/-- R90: the largest finite magnitude, in units of 1/128. -/
def pairMax128 (b : Int) : Nat := max (7 * 128) (outlier128 b 7)

/-- R89: a rounded magnitude of V: an ordinary integer, or the outlier code (x, f). -/
inductive QMag where
  | ord (n : Nat)
  | out (c : Nat)
  deriving DecidableEq, Repr

def QMag.val (b : Int) : QMag → Nat
  | .ord n => n * 128
  | .out c => outlier128 b c

/-- R89: which of two neighbours a tie goes to: an integer before an outlier, the even integer, f = 0. -/
def QMag.beats : QMag → QMag → Bool
  | .ord n, .ord _ => n % 2 == 0
  | .ord _, .out _ => true
  | .out _, .ord _ => false
  | .out c, .out _ => c % 2 == 0

/-- R89: V; a member of both sets is ordinary. -/
def pairSet (b : Int) : List QMag :=
  (List.range 8).map QMag.ord ++
    ((List.range 8).filter fun c => !(outlier128 b c % 128 == 0 && outlier128 b c ≤ 896)).map QMag.out

/-- R89 step 1: the member of V that a magnitude n / d rounds to, when it is at most M. -/
def roundPair (b : Int) (rz : Bool) (n d : Nat) : QMag :=
  let v := pairSet b
  -- the largest member at or below, and the smallest above
  let below := v.foldl (fun m x => if x.val b * d ≤ n * 128 && m.val b ≤ x.val b then x else m) (.ord 0)
  let above := v.foldl (fun m x => if n * 128 < x.val b * d then
      (match m with
       | none => some x
       | some y => if x.val b < y.val b then some x else m) else m) (none : Option QMag)
  match above with
  | none => below
  | some y =>
    let dl := n * 128 - below.val b * d
    let dh := y.val b * d - n * 128
    if rz || dl = 0 || dl < dh then below
    else if dh < dl then y
    else if below.beats y then below else y

/-- R89, R91: one value of a pair: sign, magnitude and sticky bit. A magnitude above M saturates (DEDUCED, log 18). -/
def pairValue (b : Int) (rz : Bool) : Num → Bool × QMag × Bool
  | .nan => (false, .ord 0, true)
  | .inf s => (s, topPair, true)
  | .fin s n d => if pairMax128 b * d < n * 128 then (s, topPair, true) else (s, roundPair b rz n d, false)
where
  /-- R90: the largest member. -/
  topPair : QMag := if outlier128 b 7 ≤ 896 then .ord 7 else .out 7

/-- R89 steps 2 and 3: the byte of a pair and its sticky bit. -/
def encodePair (b : Int) (rz : Bool) (even odd : Num) : Nat × Bool :=
  let p := pairValue b rz even
  let q := pairValue b rz odd
  let nib (s : Bool) (n : Nat) : Nat := if s then (16 - n) % 16 else n
  let car (s : Bool) (c : Nat) : Nat := (if s then 8 else 0) + c
  let byte := match p.2.1, q.2.1 with
    | .ord m, .ord n => nib p.1 m + 16 * nib q.1 n
    | .out c, .ord _ => 8 + 16 * car p.1 c
    | .ord _, .out c => 0x80 + car q.1 c
    | .out c, .out k => if outlier128 b c < outlier128 b k then 0x80 + car q.1 k else 8 + 16 * car p.1 c
  (byte, p.2.2 || q.2.2)

/-! ### Format slots (R80 to R85) -/

/-- The fields of a slot record (R81). -/
def slotFmt (r : BitVec 128) : Nat := bits r.toNat 3 0
def slotBlen (r : BitVec 128) : Nat := bits r.toNat 5 4
def slotKind (r : BitVec 128) : Nat := bits r.toNat 7 6
def slotRz (r : BitVec 128) : Bool := r.getLsbD 8
def slotSat (r : BitVec 128) : Bool := r.getLsbD 9
def slotArm (r : BitVec 128) : Bool := r.getLsbD 10
def slotOexp (r : BitVec 128) : Int := sgn 8 (bits r.toNat 23 16)
def slotSoff (r : BitVec 128) : Int := sgn 32 (bits r.toNat 63 32)

/-- R82: a slot that a grid may be launched with. -/
def slotOk (r : BitVec 128) : Bool :=
  slotFmt r ≤ 6 && slotKind r != 3 && (slotBlen r == 0) == (slotKind r == 0)
    && (slotBlen r == 0 || 3 ≤ slotFmt r)
    && (if slotFmt r = 6 then -6 ≤ slotOexp r && slotOexp r ≤ 5 else slotOexp r == 0)
    && (slotKind r != 0 || slotSoff r == 0)
    && (slotKind r != 2 || slotSoff r % 2 == 0)
    && bits r.toNat 15 11 == 0 && bits r.toNat 31 24 == 0 && bits r.toNat 127 64 == 0

/-- The float format of a FMT code 0 to 4. -/
def floatOf (c : Nat) : FloatFmt := if c = 0 then fp32 else if c = 1 then bf16 else if c = 2 then f16 else if c = 3 then f8a else f8b

/-- R70: the width of an element by FMT code. -/
def fmtWidth (c : Nat) : Nat := if c = 0 then 32 else if c ≤ 2 then 16 else if c ≤ 5 then 8 else 4

/-- R81: the elements of a block, by BLEN code. -/
def blockLen (c : Nat) : Nat := if c = 0 then 0 else 8 * 2 ^ c

/-- R84: the value of a block scale by kind, from its raw bits; NaN when it is not finite. -/
def scaleValue (kind x : Nat) : Num :=
  if kind = 1 then (if x % 256 = 255 then .nan else Num.scale (.fin false 1 1) ((x % 256 : Nat) - 127))
  else match bf16.decode (x % 65536) with
    | .inf _ => .nan
    | v => v

/-- R72, R76, R78: element j of a packed word or byte array given as a number, without scale. -/
def decodeElem (r : BitVec 128) (x j : Nat) : Num :=
  let c := slotFmt r
  if c = 6 then
    let p := decodePair (slotOexp r) (x / 2 ^ (8 * (j / 2)) % 256)
    if j % 2 = 0 then p.1 else p.2
  else
    let e := x / 2 ^ (fmtWidth c * j) % 2 ^ fmtWidth c
    if c = 5 then Num.ofInt (sgn 8 e) else (floatOf c).decode e

/-- R83, R84: an element times its block scale. -/
def scaled (v : Num) (sc : Num) : Num := if sc.isNan then .nan else Num.mul v sc

/-- R85, R95: the value to be encoded: v / σ; none when σ is zero or not finite. -/
def unscaled (v : Num) (sc : Num) : Option Num := if sc.isNan || sc.isZero then none else some (Num.div v sc)

/-- R95: encodes one element of a slot format other than Q4X, with its sticky bit. -/
def encodeElem (r : BitVec 128) (v sc : Num) : Nat × Bool :=
  match unscaled v sc with
  | none => (0, true)
  | some x => if slotFmt r = 5 then encodeI8 (slotRz r) x else (floatOf (slotFmt r)).encode (slotRz r) (slotSat r) x

/-- R95: encodes a Q4X pair, each value with its own block scale. -/
def encodeQ (r : BitVec 128) (a b sa sb : Num) : Nat × Bool :=
  match unscaled a sa, unscaled b sb with
  | some x, some y => encodePair (slotOexp r) (slotRz r) x y
  | _, _ => (0, true)

/-- R90: the largest finite value of a slot's format, by sign. -/
def slotMax (r : BitVec 128) (neg : Bool) : Num :=
  let c := slotFmt r
  if c = 6 then .fin neg (pairMax128 (slotOexp r)) 128
  else if c = 5 then .fin neg (if neg then 128 else 127) 1
  else
    let v := (floatOf c).mag (floatOf c).top
    if neg then v.neg else v

/-- IEEE binary32 addition under RNE, of two patterns (R94, R169, R260). -/
def addF32 (a b : Nat) : Nat := fp32.result false (Num.add (fp32.decode a) (fp32.decode b))

end Sys2Proof
end

