-- ==== Sys2Proof/Machine/Launch.lean ====
section
/-! DEFINITION. Launch records and their checks (spec/16 R319 to R321), the arenas (R324), package queues
(R327, R328), and where gangs fit (spec/06 R178, R179, R188), with the scheduling events that a changed
fit raises (spec/17 R337). -/

namespace Sys2Proof.Machine

open Sys2Proof

/-! ### Records (R319, R320) -/

/-- R319: the fields of a record of 256 bytes, read as one number. -/
def parseRecord (n : Nat) : LaunchRec :=
  { scode := BitVec.ofNat 64 (bits n 63 0), lcode := BitVec.ofNat 64 (bits n 127 64), mcode := BitVec.ofNat 64 (bits n 191 128),
    ssize := bits n 223 192, lunits := bits n 249 224, munits := bits n 279 256, gblocks := bits n 319 288,
    bstr := bits n 323 320, gang := bits n 325 324, cores := n.testBit 326, prio := bits n 331 328,
    queue := bits n 337 332, vblk := bits n 348 344, windows := bits n 355 352, nslice := bits n 372 360,
    scratch := bits n 403 384, acct := bits n 431 416, arg := BitVec.ofNat 64 (bits n 511 448),
    ctr := BitVec.ofNat 64 (bits n 575 512), amt := BitVec.ofNat 64 (bits n 639 576), saddr := BitVec.ofNat 64 (bits n 703 640),
    iqfirst := BitVec.ofNat 32 (bits n 735 704), iqcount := bits n 767 736, sbase := BitVec.ofNat 64 (bits n 831 768),
    sstride := bits n 863 832, spool := BitVec.ofNat 64 (bits n 959 896), parent := 0,
    slots := (List.range 8).map fun i => BitVec.ofNat 128 (bits n (1151 + 128 * i) (1024 + 128 * i)) }

/-- R319: the reserved bits of a record, PARENT among them, by their highest and lowest bit. -/
def reservedRecordBits : List (Nat × Nat) :=
  [(255, 250), (287, 280), (327, 327), (343, 338), (351, 349), (359, 356), (383, 373), (415, 404), (447, 432),
   (895, 864), (1023, 960)]

/-- R320: a code base: a canonical multiple of 4. -/
def codeBaseOk (a : Word) : Bool := canonical a && a.toNat % 4 == 0

/-- R320: the rules whose breach gives status 0x04. `q` is the queue of the register block written. -/
def recordOk (n : Nat) (q : Option Nat) : Bool :=
  let r := parseRecord n
  (reservedRecordBits.all fun e => bits n e.1 e.2 == 0)
    && codeBaseOk r.scode && codeBaseOk r.lcode && codeBaseOk r.mcode && (r.mcode == 0) == (r.munits == 0)
    && r.ssize != 0 && r.ssize % 4 == 0
    && 1 ≤ r.gblocks && 1 ≤ r.vblk && r.vblk ≤ 24 && r.windows ≤ 8 && r.nslice ≤ 4096 && r.scratch ≤ 1048448
    && (r.bstr + 1) * r.vblk ≤ 256
    && r.ctr.toNat % 8 == 0 && r.saddr.toNat % 8 == 0
    && r.sbase.toNat % 16 == 0 && (r.sstride == 0 || (r.sstride % 16 == 0 && 64 ≤ r.sstride))
    && (r.sbase == 0 || r.sstride != 0)
    && r.spool.toNat % 65536 == 0
    && (q.isNone || q == some r.queue)

/-- The queue block of a partition. -/
def queueOf (x : Partition) (q : Nat) : QueueBlock := mgetD x.queues q QueueBlock.reset
def modQueue (s : State) (p q : Nat) (f : QueueBlock → QueueBlock) : State :=
  modPart s p fun x => { x with queues := mset x.queues q (f (queueOf x q)) }

/-- R130: the status of a record that has been read: 0x04 before 0x03 before 0x02; 0 accepts. -/
def recordStatus (x : Partition) (n : Nat) (q : Option Nat) : Nat :=
  let r := parseRecord n
  if !recordOk n q then 4
  else if !(r.slots.all slotOk) then 3
  else if 256 ≤ (queueOf x r.queue).records.length then 2
  else 0

/-! ### Space on cores (R178, R179) -/

/-- R179: the scratch area of a block of a grid; 0 when it has none. -/
def areaOf (r : LaunchRec) : Nat :=
  if r.scratch = 0 && r.windows = 0 && r.munits = 0 then 0 else (r.scratch + 128 + 4095) / 4096 * 4096

/-- The number of strands, register blocks and scratch bytes still free on a core. -/
def freeSlots (s : State) (c : Nat) : Nat := 64 - (residents s c).length
def freeRegs (s : State) (c : Nat) : Nat := 256 - (coreOf s c).blocks.length
def freeScratch (s : State) (c : Nat) : Nat :=
  65536 * (coreOf s c).spsize - ((s.blocks.filter fun e => e.2.core == c).map fun e => e.2.area).foldl (· + ·) 0

/-- R188: the core's item queue is free for a grid with an item range. -/
def itemsFree (s : State) (c p launch : Nat) (r : LaunchRec) : Bool :=
  r.iqcount == 0 || (coreOf s c).itemGrid.isNone || (coreOf s c).itemGrid == some (p, launch)

/-- R178: a block of a record fits on a core; `griddle` when its saved state holds one. -/
def blockFits (s : State) (c p launch : Nat) (r : LaunchRec) (griddle : Bool) : Bool :=
  r.bstr + 1 ≤ freeSlots s c && (r.bstr + 1) * r.vblk ≤ freeRegs s c && areaOf r ≤ freeScratch s c
    && (!griddle || !(coreOf s c).griddle.held) && itemsFree s c p launch r

/-! ### Arenas (R324) -/

/-- The bytes of one stack. -/
def stackBytes (r : LaunchRec) : Nat := if r.sstride = 0 then 65536 else r.sstride

/-- A range is free of the ranges taken. -/
def rangeFree (used : List (Nat × Nat)) (b n : Nat) : Bool := used.all fun u => b + n ≤ u.1 || u.1 + u.2 ≤ b

/-- R324: where the hub takes n bytes of an arena is not architected: a free choice among the places that
are free, aligned (DESIGN CHOICE, log 6); none when there is no such place. -/
def takeRange (s : State) (used : List (Nat × Nat)) (base size n align : Nat) : Option Nat :=
  let ok (b : Nat) : Bool := base ≤ b && b + n ≤ base + size && b % align == 0 && rangeFree used b n
  let free := base + align * (Config.arenaChoice s.fresh % (size / align + 1))
  let up (b : Nat) : Nat := (b + align - 1) / align * align
  let cands := (up base :: used.map fun u => up (u.1 + u.2)).filter ok
  if ok free then some free
  else match cands with
    | [] => none
    | b :: t => some (t.foldl min b)

/-- The lowest place of an arena that n bytes fit in, aligned. -/
def lowRange (used : List (Nat × Nat)) (base size n align : Nat) : Option Nat :=
  let up (b : Nat) : Nat := (b + align - 1) / align * align
  let cands := (up base :: used.map fun u => up (u.1 + u.2)).filter fun b => b + n ≤ base + size && rangeFree used b n
  match cands with
  | [] => none
  | b :: t => some (t.foldl min b)

/-- The places of k stacks of n bytes in a stack arena where each is found by `f`, from the ranges in use. -/
def stackPlaces (f : List (Nat × Nat) → Nat → Option Nat) (n : Nat) : Nat → List (Nat × Nat) → Option (List Nat)
  | 0, _ => some []
  | k + 1, used => match f used k with
    | none => none
    | some b => (stackPlaces f n k ((b, n) :: used)).map fun l => b :: l

/-- R324: the stacks of k strands: where the hub chooses, or packed from the bottom when its choice would leave one out. -/
def takeStacks (k : Nat) (s : State) (p n : Nat) : Option (List Nat × State) :=
  let x := partAt s p
  let free := stackPlaces (fun used i => takeRange { s with fresh := s.fresh + i } used (stackArena x) (stackArenaSize x) n 16) n k x.stackUse
  let packed := stackPlaces (fun used _ => lowRange used (stackArena x) (stackArenaSize x) n 16) n k x.stackUse
  (match free with | some l => some l | none => packed).map fun l =>
    (l, { modPart s p fun y => { y with stackUse := (l.map fun b => (b, n)) ++ y.stackUse } with fresh := s.fresh + k })

/-- Returns a stack or a pool. -/
def returnStack (s : State) (p b : Nat) : State := modPart s p fun x => { x with stackUse := x.stackUse.filter fun u => u.1 != b }
def returnArena (s : State) (p b : Nat) : State := modPart s p fun x => { x with arena := x.arena.filter fun u => u.1 != b }

/-! ### Gangs and heads (R176, R330, R345) -/

/-- The blocks of gang number i of a grid: first block and count. -/
def gangBlocks (r : LaunchRec) (i : Nat) : Nat × Nat :=
  let f := i * (r.gang + 1)
  (f, min (r.gang + 1) (r.gblocks - f))

/-- R176: the number of gangs of a grid. -/
def gangCount (r : LaunchRec) : Nat := (r.gblocks + r.gang) / (r.gang + 1)

/-- A gang to be placed: a saved one, or the number of an unplaced one. -/
inductive NextGang where
  | saved (g : Gang)
  | fresh (index : Nat)
  deriving DecidableEq, Repr

/-- R330, R354: saved gangs that may be placed go ahead of the unplaced ones, in ascending order. -/
def waitingGangs (g : Grid) : List Gang := g.gangs.filter fun x => x.state == .saved && !x.hold

/-- The next gang of a live grid that is offered to placement. A co-resident grid is placed again only whole (R354). -/
def nextGang (g : Grid) : Option NextGang :=
  if g.code.isSome || g.parked || g.killed then none
  else if g.record.cores && g.gangs.any (fun x => x.state == .saving || (x.state == .saved && x.hold)) then none
  else match waitingGangs g with
    | x :: t => some (.saved (t.foldl (fun m y => if y.index < m.index then y else m) x))
    | [] => if g.gangs.length < gangCount g.record then some (.fresh g.gangs.length) else none

/-- R345: the head of a queue: an accepted grid with a gang that waits, or a record. -/
inductive Head where
  | grid (g : Grid)
  | record (r : QueuedRec)
  deriving DecidableEq, Repr

/-- R345: the head of queue q. Accepted grids are kept in the order of their acceptance. -/
def headOf (x : Partition) (q : Nat) : Option Head :=
  match x.grids.find? fun g => g.record.queue == q && (nextGang g).isSome with
  | some g => some (.grid g)
  | none => (queueOf x q).records.head?.map Head.record

def Head.record! : Head → LaunchRec | .grid g => g.record | .record r => r.record
def Head.launch : Head → Nat | .grid g => g.launch | .record _ => 0
def Head.arrived : Head → Nat | .grid g => g.arrived | .record r => r.arrived

/-- Blocks of the next gang of a head, and which of them hold a saved griddle. -/
def Head.gang (h : Head) : Nat × List Bool :=
  match h with
  | .grid g => match nextGang g with
    | some (.saved x) => (x.count, x.blocks.map fun b => (b.2.saved.map fun k => k.held).getD false)
    | some (.fresh i) => let n := (gangBlocks g.record i).2; (n, List.replicate n false)
    | none => (0, [])
  | .record r => let n := (gangBlocks r.record 0).2; (n, List.replicate n false)

/-- R324: the strands of the head's next gang that still need an arena stack, in bytes each. -/
def Head.stackNeed (h : Head) : Nat :=
  let r := h.record!
  if r.sbase != 0 then 0
  else match h with
    | .grid g => match nextGang g with
      | some (.fresh i) => (gangBlocks g.record i).2 * (r.bstr + 1)
      | _ => 0
    | .record _ => (gangBlocks r 0).2 * (r.bstr + 1)

/-- A hearth the partition owns and has been handed (R364). -/
def holdsHearth (x : Partition) (h : Nat) : Bool := ownsHearth x h && recValid x && !x.awaiting.contains (0, h)

/-- The hearths a partition holds, in ascending package order (R344). -/
def heldHearths (x : Partition) : List Nat := (List.range 192).filter (holdsHearth x)

/-- R178: every block of the head's next gang fits on its core of c, c + 1, … of a hearth. -/
def blocksFitAt (s : State) (p : Nat) (h : Head) (hearth off : Nat) : Bool :=
  let g := h.gang
  off + g.1 ≤ 4 && g.1 != 0
    && (List.range g.1).all fun i => blockFits s (4 * hearth + off + i) p h.launch h.record! (g.2.getD i false)

/-- R178, R324, R345: the head's next gang fits on cores c, c + 1, … of a hearth, and its stacks in the stack arena. -/
def gangFitsAt (s : State) (p : Nat) (h : Head) (hearth off : Nat) : Bool :=
  blocksFitAt s p h hearth off
    && (h.stackNeed == 0 || (takeStacks h.stackNeed s p (stackBytes h.record!)).isSome)

/-- R331, R225: no hearth of the partition could hold one gang of the grid when empty. -/
def tooLarge (x : Partition) (r : LaunchRec) : Bool := (heldHearths x).isEmpty || 65536 * x.spsize < areaOf r

/-- R324: the stacks of one gang need more than the whole stack arena. -/
def stacksTooLarge (x : Partition) (r : LaunchRec) : Bool :=
  r.sbase == 0 && stackArenaSize x < min (r.gang + 1) r.gblocks * (r.bstr + 1) * stackBytes r

/-- R324, R331: a record whose grid can never be placed: a decision that names it accepts it, and it fails (DEDUCED, log 21). -/
def neverFits (x : Partition) (h : Head) : Bool :=
  match h with
  | .grid _ => false
  | .record q => tooLarge x q.record || stacksTooLarge x q.record

/-- R178, R337: the lowest core offset of a hearth at which the head's next gang fits; none when it does not fit. -/
def fitOf (s : State) (p : Nat) (h : Head) (hearth : Nat) : Option Nat := (List.range 4).find? fun o => gangFitsAt s p h hearth o

/-- R345: FIT of a head for the hearth of an event, where there is one: a co-resident head offers 0. -/
def viewFit (s : State) (p : Nat) (h : Head) (hearth : Option Nat) : Option Nat :=
  if h.record!.cores then some 0 else hearth.bind (fitOf s p h)

/-- The heads of the queues of a partition. -/
def headsOf (x : Partition) : List (Nat × Head) :=
  (List.range 64).filterMap fun q => (headOf x q).map fun h => (q, h)

/-- R337: some head fits on the hearth. -/
def hearthOffers (s : State) (p hearth : Nat) : Bool :=
  (headsOf (partAt s p)).any fun e => (fitOf s p e.2 hearth).isSome

/-! ### Raising DISPATCH and PREEMPT (R337, R348) -/

/-- The blocks on a core, and the gangs with their grids. -/
def gangsOn (s : State) (c : Nat) : List Nat := ((s.blocks.filter fun e => e.2.core == c).map fun e => e.2.gang).eraseDups

/-- R348 word 3 of DISPATCH: cores of a hearth that hold no gang (DEDUCED, log 43). -/
def freeMask (s : State) (hearth : Nat) : Nat :=
  (List.range 4).foldl (fun a o => if (gangsOn s (4 * hearth + o)).isEmpty then a + 2 ^ o else a) 0

/-- R337: raises DISPATCH for a hearth when some head fits there. -/
def offerHearth (s : State) (p sub hearth : Nat) : State :=
  if hearthOffers s p hearth then raiseEvent s p { plainEvent s 0 sub hearth with mask := freeMask s hearth } else s

/-- R337: a record arrival or a freed core offers every hearth with a fit (DEDUCED, log 22). -/
def offerAll (s : State) (p sub : Nat) : State :=
  (heldHearths (partAt s p)).foldl (fun s h => offerHearth s p sub h) s

/-- The resident gangs of a partition with their grids. -/
def residentGangs (x : Partition) : List (Grid × Gang) :=
  x.grids.flatMap fun g => (g.gangs.filter fun y => y.state == .resident).map fun y => (g, y)

/-- R337: the victim for a waiter of a priority: the resident gang of lowest PRIO below it, the latest
placed among equals. -/
def preemptVictim (x : Partition) (prio : Nat) : Option (Grid × Gang) :=
  let better (a b : Grid × Gang) : Bool :=
    a.1.record.prio < b.1.record.prio || (a.1.record.prio == b.1.record.prio && b.2.placed ≤ a.2.placed)
  ((residentGangs x).filter fun e => e.1.record.prio < prio).foldl (fun m e => match m with
    | none => some e
    | some b => if better e b then some e else m) none

/-- R348: words 5 and 7 of an event. -/
def prioWord (r : LaunchRec) (q : Bool) : Word :=
  BitVec.ofNat 64 (r.prio + 16 * r.acct + (if q then r.queue * 2 ^ 24 else 0))

/-- R337 SUB 1: a waiter that no held hearth offers a fit, and the victim for it. -/
def victimFor (s : State) (p : Nat) (h : Head) : Option (Grid × Gang) :=
  let x := partAt s p
  if (heldHearths x).any fun e => (fitOf s p h e).isSome then none else preemptVictim x h.record!.prio

/-- R337: the grids with a gang that waits, and the records, of every queue. -/
def waitersOf (x : Partition) : List (Nat × Head) :=
  (List.range 64).flatMap fun q =>
    ((x.grids.filter fun g => g.record.queue == q && (nextGang g).isSome).map fun g => (q, Head.grid g))
      ++ (queueOf x q).records.map fun r => (q, Head.record r)

/-- What tells a waiter from another: a record, or a gang of a grid each time that it comes to wait (DEDUCED, log 135). -/
def waiterKey (e : Nat × Head) : Nat × Nat × Nat :=
  match e.2 with
  | .grid g => match nextGang g with
    | some (.saved x) => (e.1, g.launch, 1 + x.index + 65536 * (1 + x.placed))
    | some (.fresh i) => (e.1, g.launch, 1 + i)
    | none => (e.1, g.launch, 0)
  | .record r => (e.1, 0, r.id)

/-- R337 SUB 1: raises PREEMPT for each waiter for which the condition has become true. -/
def checkWaiters (s : State) (p : Nat) : State :=
  let heads := waitersOf (partAt s p)
  let key := waiterKey
  let now := heads.filter fun e => (victimFor s p e.2).isSome
  let was := (partAt s p).waiters
  let s := now.foldl (fun s e =>
    if was.contains (key e) then s
    else match victimFor s p e.2 with
      | none => s
      | some (g, v) => raiseEvent s p { plainEvent s 1 1 (hearthOf v.core) with
          core := v.core, gang := v.id, grid := g.launch, info := prioWord g.record false, waiter := e.2.launch,
          winfo := prioWord e.2.record! true, since := s.now - v.placed }) s
  modPart s p fun x => { x with waiters := now.map key }

/-- R337: what a record arrival, freed cores and a placement offer: every hearth with a fit, and the waiting heads
without one. -/
def reoffer (s : State) (p sub : Nat) : State := checkWaiters (offerAll s p sub) p

/-- R337, R361: a slot or register blocks that free on a core offer each hearth on which a fit has appeared since `old`. -/
def reofferNew (old s : State) (p : Nat) : State :=
  if (headsOf (partAt s p)).isEmpty then s
  else checkWaiters (((heldHearths (partAt s p)).filter fun h => !hearthOffers old p h).foldl (fun s h => offerHearth s p 0 h) s) p

/-- R327: a record that has reached the queue at this tick comes from a source that ranks behind: the arrival is at a later
tick (DEDUCED, log 118). -/
def outranked (s : State) (p q source : Nat) : Bool :=
  (queueOf (partAt s p) q).records.any fun r => r.arrived == s.now && source < r.source

/-- R327, R328: an accepted record enters its queue; a new head may raise PREEMPT, and DISPATCH is offered. -/
def enqueueRecord (s : State) (p n depth parent source : Nat) : State :=
  let r := parseRecord n
  let e : QueuedRec := { record := { r with parent := parent }, arrived := s.now, depth := depth, parent := parent, id := s.nextId, source := source }
  let s := modQueue { s with nextId := s.nextId + 1 } p r.queue fun q => { q with records := q.records ++ [e], pushes := q.pushes + 1 }
  reoffer s p 1

end Sys2Proof.Machine
end

