-- ==== Sys2Proof/Machine/Accounts.lean ====
section
/-! DEFINITION. Budget accounts and their charges (spec/18 R366, R367), and the ENGINE events of waiting copies
and descriptors (spec/17 R358). -/

namespace Sys2Proof.Machine

open Sys2Proof

/-- An account of a partition; account 0 is always valid (R366). -/
def accountOf (x : Partition) (a : Nat) : Account := mgetD x.accounts a Account.reset
def accountValid (x : Partition) (a : Nat) : Bool := a == 0 || (accountOf x a).valid

/-- R367: BALANCE is 0 or less. -/
def exhausted (x : Partition) (a : Nat) : Bool := (accountOf x a).balance.toInt ≤ 0

/-- R367: the parts of a unit that are kept: a core-tick is 262,144 of them, a byte moved 1,000 × RATE. -/
def unitParts : Nat := 262144000

/-- R367: BALANCE less a number of units, saturating at −2^63. -/
def lowerBalance (b : Word) (n : Nat) : Word :=
  let x := b.toInt - (n : Int)
  if x < -(2 ^ 63 : Nat) then BitVec.ofInt 64 (-(2 ^ 63 : Nat)) else BitVec.ofInt 64 x

/-- R367: an account charged with parts of units. -/
def chargeAccount (a : Account) (parts : Nat) : Account :=
  let total := a.frac + parts
  { a with frac := total % unitParts, balance := lowerBalance a.balance (total / unitParts) }

/-- R337 SUB 2: one PREEMPT for each resident gang of an exhausted account. -/
def exhaustionEvents (s : State) (p a : Nat) : State :=
  (residentGangs (partAt s p)).foldl (fun s e =>
    if acctOf s p e.1.launch = a then
      raiseEvent s p { plainEvent s 1 2 (hearthOf e.2.core) with
        core := e.2.core, gang := e.2.id, grid := e.1.launch, info := prioWord e.1.record false, since := s.now - e.2.placed }
    else s) s

/-! ### ENGINE events (R358) -/

/-- The priority of a copy's grid. -/
def copyPrio (s : State) (y : Copy) : Nat := ((gridAt s y.part y.grid).map fun g => g.record.prio).getD 0

/-- R358: the holder for a copy that waits, among the active copies of its engine that belong to another account and are
exhausted or of lower PRIO: an exhausted account first, then the lowest PRIO; the latest to arrive among equals. -/
def engineHolder (s : State) (w : Copy) : Option Copy :=
  let rank (y : Copy) : Nat := if exhausted (partAt s y.part) y.acct then 0 else 1 + copyPrio s y
  let may (y : Copy) : Bool := y.engine == w.engine && y.active && (y.part != w.part || y.acct != w.acct)
    && (exhausted (partAt s y.part) y.acct || copyPrio s y < copyPrio s w)
  (s.copies.filter may).foldl (fun m y => match m with
    | none => some y
    | some h => if rank y < rank h || (rank y == rank h && h.id < y.id) then some y else m) none

/-- R358: a copy that waits at its engine. -/
def copyWaits (y : Copy) : Bool := !y.active && !y.done && !y.paused && !y.suspended

/-- R358: raises the ENGINE events of an engine on which 8 copies are active: at most one of a waiter for each holder. -/
def engineEvents (s : State) (engine : Nat) : State :=
  if (s.copies.filter fun y => y.engine == engine && y.active).length < 8 then s
  else (s.copies.filter fun y => y.engine == engine && copyWaits y).foldl (fun s w => match engineHolder s w with
    | none => s
    | some h =>
      let ex := exhausted (partAt s h.part) h.acct
      if w.raised.contains h.id then s
      else
        let s := { s with copies := s.copies.map fun y => if y.id == w.id then { y with raised := h.id :: y.raised } else y }
        raiseEvent s h.part { plainEvent s 3 (if ex then 0 else 1) engine with
          grid := h.grid, info := prioAcct s h.part h.grid, waiter := w.grid, winfo := prioAcct s w.part w.grid,
          gang := h.id, core := w.id }) s

/-- The priority of a descriptor's grid. -/
def descPrio (s : State) (d : CollDesc) : Nat := ((gridAt s d.part d.grid).map fun g => g.record.prio).getD 0

/-- R358: the ENGINE events of a collective channel: its running descriptor is the holder. -/
def channelEvents (s : State) (k : Nat) : State :=
  match (mgetD s.channels k Channel.reset).descs with
  | [] => s
  | h :: rest =>
    let ex := exhausted (partAt s h.part) h.acct
    rest.foldl (fun s w =>
      if (w.part == h.part && w.acct == h.acct) || w.raised.contains h.id || !(ex || descPrio s h < descPrio s w) then s
      else
        let mark (c : Channel) : Channel :=
          { c with descs := c.descs.map fun d => if d.id == w.id then { d with raised := h.id :: d.raised } else d }
        let s := { s with channels := mset s.channels k (mark (mgetD s.channels k Channel.reset)) }
        raiseEvent s h.part { plainEvent s 3 (if ex then 0 else 1) 0 with
          grid := h.grid, info := prioAcct s h.part h.grid, waiter := w.grid, winfo := prioAcct s w.part w.grid,
          gang := h.id, core := w.id, channel := some k }) s

/-- R367: an account that has become exhausted raises PREEMPT and ENGINE events. -/
def noteExhausted (s : State) (p a : Nat) : State :=
  let engines := (s.copies.filter fun y => y.part == p && y.active && y.acct == a).map fun y => y.engine
  (List.range 16).foldl channelEvents (engines.eraseDups.foldl engineEvents (exhaustionEvents s p a))

/-- R367: an account changes, and raises its events when that exhausts it. -/
def changeBalance (s : State) (p a : Nat) (f : Account → Account) : State :=
  let before := exhausted (partAt s p) a
  let s := modAccount s p a f
  if before || !exhausted (partAt s p) a then s else noteExhausted s p a

/-- R367: charges parts of units. -/
def charge (s : State) (p a parts : Nat) : State := changeBalance s p a fun x => chargeAccount x parts

/-- R367: engine use: bytes × RATE / 262,144 units, and the byte count of the account. -/
def chargeBytes (s : State) (p a n : Nat) : State :=
  let s := modAccount s p a fun x => { x with bytes := x.bytes + BitVec.ofNat 64 n }
  charge s p a (n * (accountOf (partAt s p) a).rate.toNat * 1000)

/-- The cores that hold gangs charged to an account. -/
def accountCores (s : State) (p a : Nat) : List Nat :=
  ((residentOrSaving (partAt s p)).filter fun e => acctOf s p e.1.launch == a).flatMap (fun e =>
    (List.range e.2.count).map fun i => e.2.core + i) |>.eraseDups
where
  /-- Gangs that hold cores: resident, or being saved (R369). -/
  residentOrSaving (x : Partition) : List (Grid × Gang) :=
    x.grids.flatMap fun g => (g.gangs.filter fun y => y.state == .resident || y.state == .saving).map fun y => (g, y)

/-- R367, R373: an account with its core time up to this tick charged: what its registers read. -/
def accruedAccount (s : State) (p a : Nat) : Account :=
  let y := accountOf (partAt s p) a
  let ticks := (s.now - y.upto) * (accountCores s p a).length
  chargeAccount { y with upto := s.now, charged := y.charged + BitVec.ofNat 64 ticks,
                         gross := addWord y.gross 15 ticks, net := addWord y.net 15 ticks } (ticks * 262144)

/-- R367, R373: charges an account its core time up to this tick. -/
def accrue (s : State) (p a : Nat) : State := changeBalance s p a fun _ => accruedAccount s p a

/-- Charges every account that holds cores, before the cores it holds change. -/
def accrueAll (s : State) (p : Nat) : State :=
  (((partAt s p).grids.map fun g => acctOf s p g.launch).eraseDups).foldl (fun s a => accrue s p a) s

end Sys2Proof.Machine
end

