-- ==== Sys2Proof/Machine/Counters.lean ====
section
/-! DEFINITION. Counters and meets (spec/09 R265 to R268, spec/11 R294). -/

namespace Sys2Proof.Machine

open Sys2Proof

/-- Where a counter lies (R265, R266). -/
inductive CounterAt where
  | own (off : Nat)
  | member (block off : Nat)
  | home (pa : Nat)
  deriving DecidableEq, Repr

/-- R250, R251, R265: where the counter at an address lies, or the fault of a counter instruction. -/
def counterAt (s : State) (c : Nat) (t : Strand) (a : Word) (u : Use) : Except Nat CounterAt :=
  if a.toNat % 8 ≠ 0 then .error cAlign
  else match locate s c t a 8 u with
    | .error k => .error k
    | .ok locs =>
      let x := locs.headD 0
      if isScratch x then
        if u == .write && ((blockAt s (locBlock x)).map fun b => writeForbidden b (locOff x)).getD false then .error cWindow
        else if locBlock x == t.block then .ok (.own (locOff x)) else .ok (.member (locBlock x) (locOff x))
      else if 14 ≤ isleOf x then .error cAccess
      else if u == .read && s.poison.contains (x / 128) then .error cPoison
      else .ok (.home x)

/-- The bytes of a counter. -/
def counterLocs (t : Strand) : CounterAt → List Nat
  | .own off => (List.range 8).map fun i => scratchLoc t.block (off + i)
  | .member b off => (List.range 8).map fun i => scratchLoc b (off + i)
  | .home pa => (List.range 8).map fun i => pa + i

/-- R236, R239, R246, R274: what an instruction that reads a counter waits for first. The value is read at the home, or in the array. -/
def counterWait (s : State) (t : Strand) (w : CounterAt) : Option Wait :=
  let locs := counterLocs t w
  if loadOrder t true locs || hostOwned s locs || claimHeld s locs then some .pending else if touchWaits s locs then some .fill else none

/-- R239, R250: the fault of the window fill that a counter instruction needs. -/
def counterFault (s : State) (t : Strand) (w : CounterAt) : Option Nat := touchFault s (counterLocs t w)

/-- R266: a counter never passes 2^64 - 1. -/
def satAdd (old amt : Word) : Word := if old.toNat + amt.toNat < 2 ^ 64 then old + amt else -1
def addOverflows (old amt : Word) : Bool := 2 ^ 64 ≤ old.toNat + amt.toNat

/-- The word at an area offset of a block as its own core sees it. -/
def areaWord (s : State) (b off : Nat) : Word :=
  BitVec.ofNat 64 (((blockAt s b).map fun x => memNat x.scratch off 8).getD 0)

/-- The released word at an area offset of a block (R267). -/
def releasedWord (s : State) (b off : Nat) : Word :=
  match blockAt s b with
  | none => 0
  | some x => BitVec.ofNat 64 (leNat ((List.range 8).map fun i => releasedByte (coreOf s x.core) x b (off + i)))

/-- R267: watches whose target the memory now meets send their wakes. -/
def noteWatches (s : State) : State :=
  let met (w : Watch) : Watch :=
    let v := if isScratch w.addr then (releasedWord s (locBlock w.addr) (locOff w.addr)).toNat else memNat s.mem w.addr 8
    if w.target.toNat ≤ v then { w with woken := true } else w
  { s with watches := s.watches.map met, cores := s.cores.map fun e => (e.1, { e.2 with watches := e.2.watches.map met }) }

/-- R267: the pending adds of a core to a counter at a home that the home's value does not include yet. A reply comes
after the completions that the home has sent before it (DEDUCED, log 61). -/
def liveAdds (s : State) (c pa : Nat) : List PendingAdd :=
  (coreOf s c).adds.filter fun a => a.addr == pa && !(s.effects.any fun e => e.id == a.effect && match e.stage with
    | .done _ _ => true
    | _ => false)

/-- R267: the value of a counter that a strand reads, by scope: `.st` and `.cor` through the core, wider at
the home. -/
def counterValue (s : State) (c : Nat) (scope : BitVec 3) : CounterAt → Nat → Word
  | .own off, b => if scope.toNat < 2 then areaWord s b off else releasedWord s b off
  | .member b off, _ => releasedWord s b off
  | .home pa, _ =>
    let base := BitVec.ofNat 64 (memNat s.mem pa 8)
    if scope.toNat < 2 then (liveAdds s c pa).foldl (fun v e => satAdd v e.amount) base
    else base

/-- R204, R267: the unreleased regions whose adds a read through the core includes. -/
def counterOwners (s : State) (c : Nat) (scope : BitVec 3) : CounterAt → Nat → List Nat
  | .own off, b => if scope.toNat < 2 then scratchOwners (coreOf s c) b off 8 else []
  | .member _ _, _ => []
  | .home pa, _ => if scope.toNat < 2 then (liveAdds s c pa).map fun e => e.region else []

/-- R266: the counter-overflow trap of an add of the strand that has become known. `region` decides when it
is deliverable: at once when the region has cleared. The strand resumes at its next instruction. -/
def overflowTrap (s : State) (c l region : Nat) (seq place : Word) (now : Bool) : State :=
  modStrand s c l fun t =>
    let h : HeldTrap := { record := trapRec 0x17 .scalar 0 0 place 0 0, kind := .counter, region := region, seq := seq,
                          ready := if now then some s.now else none, resume := t.sc.spc }
    if now then { t with traps := t.traps ++ [h] }
    else { t with regions := closeAll s c t, traps := t.traps ++ [h], stopped := true }

/-- R266, R378: the overflow of an add whose strand is no longer in its slot: held in the saved image of the strand that `mine`
finds, or, when the strand is gone, a FAULT decision. -/
def goneTrap (s : State) (part grid core : Nat) (mine : Strand → Bool) (region : Nat) (seq place : Word) : State :=
  let rec' := trapRec 0x17 .scalar 0 0 place 0 0
  let h (t : Strand) : HeldTrap := { record := rec', kind := .counter, region := region, seq := seq, ready := some s.now, resume := t.sc.spc }
  match gridAt s part grid with
  | none => s
  | some g =>
    if g.gangs.any (fun x => x.strands.any mine) then
      let mark (t : Strand) : Strand := if mine t then { t with traps := t.traps ++ [h t] } else t
      modGrid s part grid fun y => { y with gangs := y.gangs.map fun x => { x with strands := x.strands.map mark } }
    else
      let gang := g.gangs.find? fun x => x.core ≤ core && core < x.core + x.count
      raiseFault s part grid ((gang.map fun x => x.id).getD 0) core 0 (some rec')

/-- R380: a region has made an add of an amount at an address. -/
def noteAdd (s : State) (c l reg : Nat) (addr amt : Word) : State :=
  modStrand s c l fun t => modRegion t reg fun r => { r with adds := r.adds ++ [(addr, amt)] }

/-- R266: makes the add of a `cadd` whose checks and release are done (DEDUCED, log 67). -/
def performAdd (s : State) (c l : Nat) (t : Strand) (w : CounterAt) (addr amt : Word) : State :=
  let reg := openId t
  match w with
  | .own off =>
    if (storeShort s c t reg (counterLocs t w)).isSome then scalarWait s c l (.resource 2)
    else
      let old := areaWord s t.block off
      let own := counterOwners s c 0 w t.block
      let s := scratchPuts s c reg t.block (placed off (leBytes 8 (satAdd old amt).toNat))
      let s := modStrand (noteAdd s c l reg addr amt) c l fun t => addDeps (markEffect t reg 0) reg own
      match strandAt s c l with
      | none => s
      | some t2 =>
        let s := finish s c l 0 (nextPc t2.sc)
        if addOverflows old amt then overflowTrap s c l reg t.sc.seq t.sc.spc false else s
  | .member b off =>
    if 64 ≤ hwbUsed s c then scalarWait s c l (.resource 4)
    else
      let h : HwbEntry := { id := s.nextId, part := t.part, grid := t.grid, due := none, owner := reg, slot := l, block := b, off := off, bytes := [], add := some amt,
                            reduce := none, issuer := (t.block, t.number), lane := false, seq := t.sc.seq, place := t.sc.spc }
      let s := modStrand (modCore { noteAdd s c l reg addr amt with nextId := s.nextId + 1 } c fun k => { k with hwb := k.hwb ++ [h] }) c l
        fun t => markEffect t reg 1
      match strandAt s c l with
      | some t => finish s c l 0 (nextPc t.sc)
      | none => s
  | .home pa =>
    if 256 ≤ (coreOf s c).adds.length then scalarWait s c l (.resource 5)
    else if 1024 ≤ outstanding s c then scalarWait s c l (.resource 6)
    else
      let id := s.nextId
      let s := issueEffect (noteAdd s c l reg addr amt) c l reg (homeOf s pa) (.add pa amt) t.sc.seq t.sc.spc
      let s := modCore s c fun k => { k with adds := k.adds ++ [{ effect := id, addr := pa, amount := amt, region := reg }] }
      let s := trackStore s c l reg true false none [id] t.sc.seq
      match strandAt s c l with
      | some t => finish s c l 0 (nextPc t.sc)
      | none => s

/-- The checks of an instruction that reads a counter: the fault of a window fill, or a wait; then `k`. -/
def counterRead (s : State) (c l : Nat) (t : Strand) (addr : Word) (w : CounterAt) (k : State → State) : State :=
  match counterFault s t w with
  | some e => scalarFault s c l e addr
  | none => match counterWait s t w with
    | some x => scalarWait (startTouches s (counterLocs t w)) c l x
    | none => k s

/-- R266: a release at a scope, then the add. -/
def execCadd (a b : BitVec 7) (scope : BitVec 3) (s : State) : Out :=
  if !scopeOk scope then scalarReserved s
  else memRun s [a.toNat, b.toNat] 0 fun s c l t =>
    match counterAt s c t (sget t.sc a.toNat) .write with
    | .error k => scalarFault s c l k (sget t.sc a.toNat)
    | .ok w =>
      releaseThen (keepFor s c t (sget t.sc a.toNat) 8) c l t scope fun s t =>
        match w with
        | .home pa => performAdd s c l t (.home pa) (sget t.sc a.toNat) (sget t.sc b.toNat)
        | w => counterRead s c l t (sget t.sc a.toNat) w fun s => performAdd s c l t w (sget t.sc a.toNat) (sget t.sc b.toNat)

/-- R267: watches that lie at one holder: a near isle's home, or a core for scratch counters. -/
def placeWatch (s : State) (c l : Nat) (w : CounterAt) (block : Nat) (target : Word) : State :=
  let at_ (loc : Nat) : Watch := { core := c, slot := l, addr := loc, target := target, woken := false }
  let mine (x : Watch) : Bool := x.core == c && x.slot == l
  match w with
  | .home pa =>
    let h := homeOf s pa
    if s.watches.any mine then s
    else if 4096 ≤ (s.watches.filter fun x => homeOf s x.addr == h).length then s
    else { s with watches := s.watches ++ [at_ pa] }
  | .own off => placeCore c (at_ (scratchLoc block off)) mine
  | .member b off => placeCore (((blockAt s b).map fun x => x.core).getD c) (at_ (scratchLoc b off)) mine
where
  /-- A watch in the scratch array of a core, when one of its 64 is free. -/
  placeCore (k : Nat) (x : Watch) (mine : Watch → Bool) : State :=
    if (coreOf s k).watches.any mine || 64 ≤ (coreOf s k).watches.length then s
    else modCore s k fun q => { q with watches := q.watches ++ [x] }

/-- R267: a strand's watches are gone once its wait ends. -/
def dropWatches (s : State) (c l : Nat) : State :=
  let other (w : Watch) : Bool := !(w.core == c && w.slot == l)
  { s with watches := s.watches.filter other,
           cores := s.cores.map fun e => (e.1, { e.2 with watches := e.2.watches.filter other }) }

/-- R267: the end of a counter wait: the reading region depends on the regions whose adds it read, the
acquire is performed and the instruction retires. -/
def endCounterWait (s : State) (c l : Nat) (t : Strand) (w : CounterAt) (scope : BitVec 3) : State :=
  let owners := counterOwners s c scope w t.block
  acquireThen s c l t scope fun s =>
    let s := modStrand (dropWatches s c l) c l fun t => { addDeps t (openId t) owners with wake := false }
    match strandAt s c l with
    | some t => finish s c l 0 (nextPc t.sc)
    | none => s

/-- R267. -/
def execCwait (a b : BitVec 7) (scope : BitVec 3) (s : State) : Out :=
  if !scopeOk scope then scalarReserved s
  else memRun s [a.toNat, b.toNat] 0 fun s c l t =>
    let addr := sget t.sc a.toNat
    let target := sget t.sc b.toNat
    match counterAt s c t addr .read with
    | .error k => scalarFault s c l k addr
    | .ok w =>
      let s := keepFor s c t addr 8
      let read (k : State → State) : State := if target == 0 then k s else counterRead s c l t addr w k
      read fun s =>
      if t.sc.trapPend then scalarTrapAt s c l 0x0D t.sc.sticky.toNat 0 t.sc.spc .saturation
      else if target == 0 then endCounterWait s c l t w scope
      else if t.sphase != .headed && !headRoom t then scalarWait s c l .region
      else if t.sphase != .headed then
        let s := if ((openRegion t).map fun r => r.effect).getD false then implicitHead s c l t.sc t.st else s
        let s := modStrand s c l fun t => { t with sphase := .headed, wake := false }
        if target.toNat ≤ (counterValue s c scope w t.block).toNat then
          match strandAt s c l with
          | some t => endCounterWait s c l t w scope
          | none => s
        else scalarWait (placeWatch s c l w t.block target) c l .counter
      else if target.toNat ≤ (counterValue s c scope w t.block).toNat then endCounterWait s c l t w scope
      else scalarWait (placeWatch (modStrand s c l fun t => { t with wake := false }) c l w t.block target) c l .counter

/-- R268: reads through the core in the own area, the released value elsewhere. -/
def execCread (d a : BitVec 7) (s : State) : Out :=
  memRun s [a.toNat] d.toNat fun s c l t =>
    let addr := sget t.sc a.toNat
    match counterAt s c t addr .read with
    | .error k => scalarFault s c l k addr
    | .ok w =>
      let scope : BitVec 3 := match w with | .own _ => 1 | _ => 3
      counterRead s c l t addr w fun s =>
      let v := counterValue s c scope w t.block
      let s := modStrand (keepFor s c t addr 8) c l fun t => addDeps t (openId t) (counterOwners s c scope w t.block)
      match strandAt s c l with
      | some t => finish s c l d.toNat (nextPc (sput t.sc d.toNat v))
      | none => s

/-- R294: waits on a meet point of the own block, as the core sees it, then acquires at `.cor`. -/
def execMeet (a : BitVec 7) (n : BitVec 4) (s : State) : Out :=
  memRun s [a.toNat] 0 fun s c l t =>
    let off := 8 * n.toNat
    let addr : Word := BitVec.ofNat 64 (511 * 2 ^ 55 + 2 ^ 22 + off)
    match apertureLoc s t addr.toNat 8 with
    | .error k => scalarFault s c l k addr
    | .ok _ =>
      if t.sc.trapPend then scalarTrapAt s c l 0x0D t.sc.sticky.toNat 0 t.sc.spc .saturation
      else if (sget t.sc a.toNat).toNat ≤ (areaWord s t.block off).toNat then endCounterWait s c l t (.own off) 1
      else scalarWait (modStrand s c l fun t => { t with meet := some (off, (sget t.sc a.toNat).toNat) }) c l .counter

end Sys2Proof.Machine
end

