-- ==== Sys2Proof/Machine/ScalarArith.lean ====
section
/-! DEFINITION. Scalar integer arithmetic, logic, shifts, selection and immediates (spec/04 R100 to R104). -/

namespace Sys2Proof.Machine

open Sys2Proof

/-- R100: an S-format operation of two registers. -/
def aluRR (d a b : BitVec 7) (op : Word → Word → Word) (s : State) : Out :=
  scalarValue s [a.toNat, b.toNat] d fun x => op (sget x a.toNat) (sget x b.toNat)

/-- R100: an I-format operation with a sign-extended immediate. -/
def aluRI (d a : BitVec 7) (i : BitVec 12) (op : Word → Word → Word) (s : State) : Out :=
  scalarValue s [a.toNat] d fun x => op (sget x a.toNat) (i.signExtend 64)

/-- R100: a one-source operation. -/
def aluR (d a : BitVec 7) (op : Word → Word) (s : State) : Out :=
  scalarValue s [a.toNat] d fun x => op (sget x a.toNat)

/-- R101: quotients and remainders with their fixed edge results. -/
def divSigned (a b : Word) : Word := if b = 0 then -1 else BitVec.ofInt 64 (a.toInt.tdiv b.toInt)
def divUnsigned (a b : Word) : Word := if b = 0 then -1 else BitVec.ofNat 64 (a.toNat / b.toNat)
def remSigned (a b : Word) : Word := if b = 0 then a else BitVec.ofInt 64 (a.toInt.tmod b.toInt)
def remUnsigned (a b : Word) : Word := if b = 0 then a else BitVec.ofNat 64 (a.toNat % b.toNat)

/-- R100: the upper halves of the 128-bit products. -/
def mulHighSigned (a b : Word) : Word := BitVec.ofInt 64 ((a.toInt * b.toInt) / 2 ^ 64)
def mulHighUnsigned (a b : Word) : Word := BitVec.ofNat 64 (a.toNat * b.toNat / 2 ^ 64)

/-- R102: shifts by the low 6 bits of a count. -/
def shiftLeft (a n : Word) : Word := a <<< (n.toNat % 64)
def shiftRight (a n : Word) : Word := a >>> (n.toNat % 64)
def shiftRightArith (a n : Word) : Word := a.sshiftRight (n.toNat % 64)

def execSadd (d a b : BitVec 7) (s : State) : Out := aluRR d a b (· + ·) s
def execSaddImm (d a : BitVec 7) (i : BitVec 12) (s : State) : Out := aluRI d a i (· + ·) s
def execSsub (d a b : BitVec 7) (s : State) : Out := aluRR d a b (· - ·) s
def execSmul (d a b : BitVec 7) (s : State) : Out := aluRR d a b (· * ·) s
def execSmulhI64 (d a b : BitVec 7) (s : State) : Out := aluRR d a b mulHighSigned s
def execSmulhN64 (d a b : BitVec 7) (s : State) : Out := aluRR d a b mulHighUnsigned s
def execSdivI64 (d a b : BitVec 7) (s : State) : Out := aluRR d a b divSigned s
def execSdivN64 (d a b : BitVec 7) (s : State) : Out := aluRR d a b divUnsigned s
def execSremI64 (d a b : BitVec 7) (s : State) : Out := aluRR d a b remSigned s
def execSremN64 (d a b : BitVec 7) (s : State) : Out := aluRR d a b remUnsigned s
def execSand (d a b : BitVec 7) (s : State) : Out := aluRR d a b (· &&& ·) s
def execSandImm (d a : BitVec 7) (i : BitVec 12) (s : State) : Out := aluRI d a i (· &&& ·) s
def execSor (d a b : BitVec 7) (s : State) : Out := aluRR d a b (· ||| ·) s
def execSorImm (d a : BitVec 7) (i : BitVec 12) (s : State) : Out := aluRI d a i (· ||| ·) s
def execSxor (d a b : BitVec 7) (s : State) : Out := aluRR d a b (· ^^^ ·) s
def execSxorImm (d a : BitVec 7) (i : BitVec 12) (s : State) : Out := aluRI d a i (· ^^^ ·) s
def execSandn (d a b : BitVec 7) (s : State) : Out := aluRR d a b (fun x y => x &&& ~~~y) s
def execSshl (d a b : BitVec 7) (s : State) : Out := aluRR d a b shiftLeft s
def execSshlImm (d a : BitVec 7) (n : BitVec 6) (s : State) : Out := aluR d a (fun x => x <<< n.toNat) s
def execSshr (d a b : BitVec 7) (s : State) : Out := aluRR d a b shiftRight s
def execSshrImm (d a : BitVec 7) (n : BitVec 6) (s : State) : Out := aluR d a (fun x => x >>> n.toNat) s
def execSsra (d a b : BitVec 7) (s : State) : Out := aluRR d a b shiftRightArith s
def execSsraImm (d a : BitVec 7) (n : BitVec 6) (s : State) : Out := aluR d a (fun x => x.sshiftRight n.toNat) s
def execSminI64 (d a b : BitVec 7) (s : State) : Out := aluRR d a b (fun x y => if x.toInt ≤ y.toInt then x else y) s
def execSmaxI64 (d a b : BitVec 7) (s : State) : Out := aluRR d a b (fun x y => if x.toInt ≤ y.toInt then y else x) s
def execSminN64 (d a b : BitVec 7) (s : State) : Out := aluRR d a b (fun x y => if x.toNat ≤ y.toNat then x else y) s
def execSmaxN64 (d a b : BitVec 7) (s : State) : Out := aluRR d a b (fun x y => if x.toNat ≤ y.toNat then y else x) s
def execSclz (d a : BitVec 7) (s : State) : Out := aluR d a (fun x => BitVec.ofNat 64 (clz 64 x.toNat)) s
def execSpopc (d a : BitVec 7) (s : State) : Out := aluR d a (fun x => BitVec.ofNat 64 (popCount 64 x.toNat)) s
def execSmov (d a : BitVec 7) (s : State) : Out := aluR d a (fun x => x) s

/-- R104: reads s[d] as its condition. -/
def execSsel (d a b : BitVec 7) (s : State) : Out :=
  scalarValue s [d.toNat, a.toNat, b.toNat] d fun x =>
    if sget x d.toNat ≠ 0 then sget x a.toNat else sget x b.toNat

/-- R45: the conditions by code. -/
def condition (c : Nat) (a b : Word) : Bool :=
  match c with
  | 0 => a == b
  | 1 => a != b
  | 2 => a.toInt < b.toInt
  | 3 => b.toInt ≤ a.toInt
  | 4 => a.toNat < b.toNat
  | _ => b.toNat ≤ a.toNat

/-- R104, R45. -/
def execScmp (d a b : BitVec 7) (c : BitVec 4) (s : State) : Out :=
  if !conditionOk c then scalarReserved s
  else aluRR d a b (fun x y => if condition c.toNat x y then 1 else 0) s

/-- R103. -/
def execSli (d : BitVec 7) (i : BitVec 19) (s : State) : Out := scalarValue s [] d fun _ => i.signExtend 64

/-- R103: reads and writes s[d]. -/
def execSlui (d : BitVec 7) (i : BitVec 19) (s : State) : Out :=
  scalarValue s [d.toNat] d fun x => (sget x d.toNat <<< (19 : Nat)) ||| i.setWidth 64

end Sys2Proof.Machine
end

