-- ==== Sys2Proof/Machine/ScalarControl.lean ====
section
/-! DEFINITION. Branches, jumps, calls, EXEC and the path stack, clause feeding and the strand's own system
instructions (spec/04 R105 to R121, R131 to R134). -/

namespace Sys2Proof.Machine

open Sys2Proof

/-! ### Path stack and demotion (R112, R114) -/

/-- R112: the pop, over the stack with its top first: the entry that is taken and what is left below it. -/
def popTop : List PathEntry → Option (PathEntry × List PathEntry)
  | [] => none
  | e :: rest => if !e.join && e.mask == 0 then popTop rest else some (e, rest)

/-- R112 `pop_resume`; none when the stack runs empty. -/
def popResume (compat : Bool) (x : ScalarSide) : Option ScalarSide :=
  match popTop x.path.reverse with
  | none => none
  | some (e, rest) => some { x with path := rest.reverse, exec := execMask compat e.mask, spc := e.addr }

/-- The number of entries at and below the topmost JOIN (j + 1 in R114). -/
def belowJoin (path : List PathEntry) : Nat := path.length - (path.reverse.takeWhile fun e => !e.join).length

/-- R114: demotion to a target. Sibling paths wait above the topmost JOIN: the path goes below them. None when the
pop finds only paths without lanes (DEDUCED, log 102). -/
def demote (compat : Bool) (x : ScalarSide) (target : Word) : Option ScalarSide :=
  let j := belowJoin x.path
  if j < x.path.length then
    let p := x.path.take j ++ [{ mask := x.exec, addr := target, join := false }] ++ x.path.drop j
    (popResume compat { x with path := p }).map fun y => { y with demote := false }
  else some { x with spc := target, demote := false }

/-- R106: a taken branch; a backward one with DEMOTE set performs demotion. -/
def takeBranch (compat : Bool) (x : ScalarSide) (off : Int) : Option ScalarSide :=
  let target := branchTarget x.spc off
  if off ≤ 0 && x.demote then demote compat x target else some { x with spc := target }

/-- R112: the instruction retires, or takes the path-stack-underflow trap. -/
def finishPop (s : State) (c l : Nat) (x : Option ScalarSide) : State :=
  match x with
  | none => scalarTrap s c l 0x09 0
  | some y => finish s c l 0 y

/-- R106: a conditional branch. -/
def branch (a b : BitVec 7) (o : BitVec 12) (code : Nat) (s : State) : Out :=
  scalarRun s [a.toNat, b.toNat] 0 fun s c l t =>
    finishPop s c l (if condition code (sget t.sc a.toNat) (sget t.sc b.toNat)
      then takeBranch t.compat t.sc o.toInt else some (nextPc t.sc))

def execSbEq (a b : BitVec 7) (o : BitVec 12) (s : State) : Out := branch a b o 0 s
def execSbNe (a b : BitVec 7) (o : BitVec 12) (s : State) : Out := branch a b o 1 s
def execSbLt (a b : BitVec 7) (o : BitVec 12) (s : State) : Out := branch a b o 2 s
def execSbGe (a b : BitVec 7) (o : BitVec 12) (s : State) : Out := branch a b o 3 s
def execSbLtn (a b : BitVec 7) (o : BitVec 12) (s : State) : Out := branch a b o 4 s
def execSbGen (a b : BitVec 7) (o : BitVec 12) (s : State) : Out := branch a b o 5 s

/-- R111, R31: pushes an entry, or takes the path-stack-overflow trap. -/
def pushPath (s : State) (c l : Nat) (t : Strand) (e : PathEntry) : State :=
  if Config.pathDepth ≤ t.sc.path.length then scalarTrap s c l 0x08 0
  else finish s c l 0 (nextPc { t.sc with path := t.sc.path ++ [e] })

/-- R111. -/
def execPqpush (a : BitVec 7) (o : BitVec 12) (s : State) : Out :=
  scalarRun s [a.toNat] 0 fun s c l t =>
    let m := sget t.sc a.toNat &&& t.sc.exec
    if m == 0 then finish s c l 0 (nextPc t.sc)
    else pushPath s c l t { mask := m, addr := branchTarget t.sc.spc o.toInt, join := false }

/-- R111. -/
def execPqjoin (o : BitVec 12) (s : State) : Out :=
  scalarRun s [] 0 fun s c l t =>
    pushPath s c l t { mask := t.sc.exec, addr := branchTarget t.sc.spc o.toInt, join := true }

/-- R106. -/
def execSj (o : BitVec 26) (s : State) : Out :=
  scalarRun s [] 0 fun s c l t => finishPop s c l (takeBranch t.compat t.sc o.toInt)

/-- R107: the effect of a call: ln, RDEPTH and the jump. -/
def callTo (x : ScalarSide) (target : Word) : ScalarSide :=
  { sput x 1 (x.spc + 4) with rdepth := x.rdepth + 1, spc := target }

/-- R107. -/
def execScall (o : BitVec 26) (s : State) : Out :=
  scalarRun s [] 1 fun s c l t =>
    if t.sc.rdepth == 0xFFFF then scalarTrap s c l 0x0A 0
    else finish s c l 1 (callTo t.sc (branchTarget t.sc.spc o.toInt))

/-- R108: a register target that is aligned and canonical. -/
def targetFine (a : Word) : Bool := a.toNat % 4 == 0 && canonical a

/-- R106, R108. -/
def execSjr (a : BitVec 7) (s : State) : Out :=
  scalarRun s [a.toNat] 0 fun s c l t =>
    let x := sget t.sc a.toNat
    if !targetFine x then scalarTrap s c l 0x01 0 else finish s c l 0 { t.sc with spc := x }

/-- R107, R108: RDEPTH is tested before the target. -/
def execScallr (a : BitVec 7) (s : State) : Out :=
  scalarRun s [a.toNat] 1 fun s c l t =>
    let x := sget t.sc a.toNat
    if t.sc.rdepth == 0xFFFF then scalarTrap s c l 0x0A 0
    else if !targetFine x then scalarTrap s c l 0x01 0
    else finish s c l 1 (callTo t.sc x)

/-- R107, R108, R377: an `sret` that leaves RDEPTH below ENTRYD ends the trap level. -/
def execSret (s : State) : Out :=
  scalarRun s [1] 0 fun s c l t =>
    let x := sget t.sc 1
    if t.sc.rdepth == 0 then scalarTrap s c l 0x0B 0
    else if !targetFine x then scalarTrap s c l 0x01 0
    else finish s c l 0 (endTrapLevel { t.sc with rdepth := t.sc.rdepth - 1, spc := x } true)

/-- R118, R13: enqueues a clause with the captured EXEC and constants. -/
def execLrun (n : BitVec 26) (s : State) : Out :=
  scalarRun s [] 0 fun s c l t =>
    if Config.queueDepth ≤ queueCount t then scalarWait s c l .queueSlot
    else
      let q : Queued := { clause := n, exec := t.sc.exec, ks := t.sc.ks, seq := t.sc.seq, region := openId t,
                          header := none, remat := false }
      finish (putStrand s c l { t with st := { t.st with queue := t.st.queue ++ [q] } }) c l 0 (nextPc t.sc)

/-- R109 step 3: seals the open copy batch without a token (R271). -/
def sealBatch (t : Strand) (reg : Nat) : Strand :=
  let num := t.nextBatch
  let open_ := t.batches.find? fun b => !b.sealed
  let b : Batch := { number := num, copies := (open_.map fun b => b.copies).getD [], sealed := true, reg := reg,
                     region := openId t, token := none, read := false }
  { t with batches := t.batches.filter (fun b => b.sealed) ++ [b],
           nextBatch := if num + 1 = 2 ^ 24 then 1 else num + 1 }

/-- R109: the strand ends. TRAPPEND delivers the saturation trap at the `exit` (R92), which then executes. -/
def execExit (s : State) : Out :=
  scalarRun s [] 0 fun s c l t =>
    if !t.sc.path.isEmpty then scalarTrap s c l 0x0C 0
    else if t.sc.trapPend then scalarTrapAt s c l 0x0D t.sc.sticky.toNat 0 t.sc.spc .saturation
    else
      let s := putStrand s c l (if t.batches.any fun b => !b.sealed && !b.copies.isEmpty then sealBatch t 0 else t)
      let s := finish s c l 0 t.sc
      rebindTraps (settle (modStrand s c l fun t =>
        { t with exited := true, regions := t.regions.map fun r => if r.sclose.isNone then { r with sclose := some s.now } else r }) c l) c t.block

/-- R110: narrows EXEC. -/
def execSexec (a : BitVec 7) (s : State) : Out :=
  scalarRun s [a.toNat] 0 fun s c l t =>
    finish s c l 0 (nextPc { t.sc with exec := execMask t.compat (t.sc.exec &&& sget t.sc a.toNat) })

/-- R113. -/
def execPqnext (s : State) : Out :=
  scalarRun s [] 0 fun s c l t =>
    finishPop s c l ((popResume t.compat t.sc).map fun x => { x with demote := false })

/-- R115: demotes, and is recorded as having issued in the scalar slot at this cycle (R182) (DEDUCED, log 105). -/
def execSyield (s : State) : Out :=
  scalarRun s [] 0 fun s c l t =>
    match demote t.compat t.sc (t.sc.spc + 4) with
    | none => scalarTrap s c l 0x09 0
    | some x => modStrand (finish s c l 0 x) c l fun t => { t with issued := ((coreOf s c).cycle + 1) :: t.issued.drop 1 }

/-- R117. -/
def execLk (k : BitVec 2) (a : BitVec 7) (s : State) : Out :=
  scalarRun s [a.toNat] 0 fun s c l t =>
    finish s c l 0 (nextPc { t.sc with ks := mset t.sc.ks k.toNat ((sget t.sc a.toNat).setWidth 32) })

/-- R120: earlier clauses have issued, then the named flags are clear. -/
def execLwait (f : BitVec 12) (s : State) : Out :=
  scalarRun s [] 0 fun s c l t =>
    if !t.st.queue.isEmpty || t.st.current.isSome then scalarWait s c l .flags
    else if (List.range 12).any fun n => f.getLsbD n && flagCount t n != 0 then scalarWait s c l .flags
    else finish s c l 0 (nextPc t.sc)

/-- R22, R55: a queued or issuing clause counts as a writer of a mailbox. -/
def mayWrite (t : Strand) (n : Nat) : Bool :=
  (t.st.queue.any fun q => match q.header with | some h => h.mbox.getLsbD n | none => true)
    || (t.st.current.any fun r => r.header.mbox.getLsbD n)

/-- R105, R20 to R22: reads a mailbox and clears it with its full bit. An empty one is not read, so that an error in it traps nothing (R37,
R38; DESIGN CHOICE, log 147). -/
def execSmovMailbox (d : BitVec 7) (m : BitVec 3) (s : State) : Out :=
  scalarRun s [] d.toNat fun s c l t =>
    let n := m.toNat
    if !mailFull t.sc n then
      if mayWrite t n then scalarWait s c l .mailbox else scalarTrap s c l 0x07 n
    else if t.sc.mpoison.getLsbD n then scalarTrap s c l 0x06 0
    else finish s c l d.toNat (nextPc (sput (mailTake t.sc n) d.toNat (mgetD t.sc.mdata n 0)))

/-- R131: package time. -/
def execStime (d : BitVec 7) (s : State) : Out := scalarValue s [] d fun _ => BitVec.ofNat 64 s.now

/-- R133: the strand position register. -/
def strandPosition (s : State) (t : Strand) : Word :=
  let b := blockAt s t.block
  let cores := ((gridAt s t.part t.grid).map fun g => g.record.cores).getD false
  BitVec.ofNat 64 (t.number % 16 + ((b.map fun b => b.bsize).getD 0) % 16 * 16 + ((b.map fun b => b.gidx).getD 0) % 4 * 2 ^ 8
    + ((b.map fun b => b.gsize).getD 0) % 4 * 2 ^ 10 + t.depth % 16 * 2 ^ 12 + (if t.compat then 2 ^ 16 else 0)
    + (if cores then 2 ^ 17 else 0))

/-- R377: TSTATE. -/
def trapState (x : ScalarSide) : Word := BitVec.ofNat 64 ((if x.tdepth then 1 else 0) + x.entryd.toNat * 2 ^ 16)

/-- R187: the wake-reason register. -/
def wakeReason (k : Core) : Word := BitVec.ofNat 64 (k.wakeBits.toNat + k.wakes.toNat * 2 ^ 32)

/-- R132: the value of a readable system register. -/
def readSystem (s : State) (c : Nat) (t : Strand) (n : Nat) : Word :=
  match n with
  | 0x000 => execMask t.compat t.sc.exec
  | 0x001 => BitVec.ofNat 64 (t.sc.sticky.toNat + (if t.sc.trapPend then 2 ^ 7 else 0))
  | 0x002 => strandStatus t
  | 0x003 => t.sc.mfull.setWidth 64
  | 0x004 => trapState t.sc
  | 0x005 => t.sc.tln
  | 0x010 => strandPosition s t
  | _ => wakeReason (coreOf s c)

/-- R132. The full bits (0x003) are read without a look at the mailboxes' SECDED words (R37, R38; DESIGN CHOICE, log 147). -/
def execSrd (d : BitVec 7) (n : BitVec 12) (s : State) : Out :=
  if !readableNumber n then scalarReserved s
  else scalarRun s [] d.toNat fun s c l t => finish s c l d.toNat (nextPc (sput t.sc d.toNat (readSystem s c t n.toNat)))

/-- R132: EXEC whole, SATF write-1-to-clear, or TLN. -/
def writeSystem (compat : Bool) (x : ScalarSide) (n : Nat) (v : Word) : ScalarSide :=
  match n with
  | 0x000 => { x with exec := execMask compat v }
  | 0x001 => { x with sticky := x.sticky &&& ~~~(v.setWidth 7) }
  | _ => { x with tln := v }

/-- R132. -/
def execSwr (a : BitVec 7) (n : BitVec 12) (s : State) : Out :=
  if !writableNumber n then scalarReserved s
  else scalarRun s [a.toNat] 0 fun s c l t =>
    finish s c l 0 (nextPc (writeSystem t.compat t.sc n.toNat (sget t.sc a.toNat)))

/-- R134, R376: a trap whose head is the instruction after it; the instruction counts as executed (R98). -/
def trapAfter (s : State) (c l code detail : Nat) (resume : Word) : State :=
  modStrand (scalarTrapAt s c l code detail 0 resume .own) c l fun t => { t with sc := { t.sc with seq := t.sc.seq + 1 } }

/-- R134: the software trap resumes at the instruction after it. -/
def execTrap (n : BitVec 12) (s : State) : Out :=
  withScalar s fun c l t => trapAfter s c l 0x0E n.toNat (t.sc.spc + 4)

/-- R134, R381: the breakpoint trap, or a halt when the debugger has armed breakpoints on the grid: the `brk` has then executed,
and the strand stands after it (DESIGN CHOICE, log 122). -/
def execBrk (n : BitVec 12) (s : State) : Out :=
  withScalar s fun c l t =>
    let p := partAt s t.part
    if p.brkarm && p.dgrid.toNat == t.grid then
      modStrand (finish s c l 0 (nextPc t.sc)) c l fun t => { t with halted := true }
    else trapAfter s c l 0x0F n.toNat (t.sc.spc + 4)

/-- R134. -/
def execNop (s : State) : Out := scalarRun s [] 0 fun s c l t => finish s c l 0 (nextPc t.sc)

end Sys2Proof.Machine
end

