-- ==== Sys2Proof/Machine/ScalarRegion.lean ====
section
/-! DEFINITION. Region heads, instructions that perform like atomics, item loops and `glaunch` (spec/04 R122 to
R130, spec/07 R210, spec/16 R320, R321, R334). -/

namespace Sys2Proof.Machine

open Sys2Proof

/-! ### Regions -/

/-- R124: the range words of a record up to the first that cannot be fetched, with that word's fault and address. -/
def rangeWords (s : State) (c : Nat) (t : Strand) (a : Word) : Nat → List Byte × Option (Nat × Word)
  | 0 => ([], none)
  | n + 1 => match fetchScalar s c t a 4 with
    | .error k => ([], some (k, a))
    | .ok w =>
      let r := rangeWords s c t (a + 4) n
      (w ++ r.1, r.2)

/-- R62, R124: the recipe that a `region` names, or the trap code and detail: what the words it can fetch break comes before
the fetch fault of a word that it cannot. -/
def recipeOf (s : State) (c : Nat) (t : Strand) (o : BitVec 26) : Except (Nat × Nat × Word) Recipe :=
  let a := t.sc.spc + BitVec.ofInt 64 (4 * o.toInt)
  match fetchScalar s c t a 32 with
  | .error k => .error (k, 0, fetchAddr k a)
  | .ok hd =>
    let head := leNat hd
    let f := rangeWords s c t (a + 32) (bits head 196 192)
    match (if recipeHeadOk head then rangesOf (f.1.length / 4) 0 f.1 else none) with
    | none => .error (0x02, 0x03, 0)
    | some ranges =>
      let r := readRecipe head ranges
      if ranges.any fun e => 32 * t.vblk ≤ e.2 then .error (0x05, 0, 0)
      else match f.2 with
        | some (k, at') => .error (k, 0, fetchAddr k at')
        | none =>
          if !r.remv then .ok r
          else match fetchLane s c t r.remat.toNat with
            | .error k => .error (k, 0, match recordOf s t.part t.grid with
              | some g => fetchAddr k (laneUnit g r.remat.toNat)
              | none => 0)
            | .ok _ => .ok r

/-- R246, R395: the record that a `region` names, or the header of its REMAT clause, lies in a half that a CXL host owns: the `region` waits
for the recall. -/
def recipeOwned (s : State) (c : Nat) (t : Strand) (o : BitVec 26) : Bool :=
  let a := t.sc.spc + BitVec.ofInt 64 (4 * o.toInt)
  !s.owned.isEmpty && (codeOwned s c t.part a 32 || match fetchScalar s c t a 32 with
    | .error _ => false
    | .ok hd => codeOwned s c t.part (a + 32) (4 * bits (leNat hd) 196 192)
        || match recipeOf s c t o with
          | .ok r => r.remv && laneOwned s c t r.remat.toNat
          | .error e => e.1 == cRecall)

/-- R122 to R124: a region head. It waits while the strand holds four unreleased regions. At the head of a resumption it goes
on in the region of the REMAT clause (R371). -/
def execRegion (o : BitVec 26) (s : State) : Out :=
  scalarRun s [] 0 fun s c l t =>
    let resumed := (openRegion t).any fun r => r.resumed && !r.explicit
    if !resumed && !headRoom t then scalarWait s c l .region
    else if recipeOwned s c t o then scalarWait s c l .pending
    else match recipeOf s c t o with
      | .error (k, d, a) => scalarTrapAt s c l k d a t.sc.spc .own
      | .ok r =>
        let s := if resumed then resumedHead s c l r else explicitHead s c l r
        match strandAt s c l with
        | some t => finish s c l 0 (nextPc t.sc)
        | none => s

/-! ### Performing after clearance (R210) -/

/-- Every region of the strand has cleared. -/
def allCleared (t : Strand) : Bool := t.regions.all fun r => r.cleared

/-- R210, R373: an instruction that performed like an atomic retires and an implicit head opens after it, which keeps what
it wrote. Its count goes to both forms at once, since it is never repeated. -/
def finishAtomic (s : State) (c l : Nat) (res : Results) (x : ScalarSide) : State :=
  match strandAt s c l with
  | none => s
  | some t =>
    let s := bumpBoth s t.part t.grid 0 1
    let y := { x with seq := x.seq + 1 }
    let s := putStrand s c l { t with sc := y, swait := .none, sphase := .idle }
    implicitHead s c l y t.st res

/-- R210: the scalar side waits until the earlier clauses have issued, closes its region, waits until every
region has cleared, and performs. `release`: a release at `.hth` or wider comes first (R321, R275). -/
def atomicThen (s : State) (c l : Nat) (t : Strand) (release : Bool) (k : State → Strand → State) : State :=
  match t.sphase with
  | .closing =>
    if allCleared t && headRoom t && (!release || releaseDone s c l t) then k s t else scalarWait s c l .clearing
  | _ =>
    if !t.st.queue.isEmpty || t.st.current.isSome || (release && !quiet t) then scalarWait s c l .clearing
    else match (if release then writeBackFault s c t none else none) with
      | some (e, a) => scalarFault s c l e a
      | none =>
        if release && writeBackShort s c t none then scalarWait s c l (.resource 2) else
        let s := if release then writeBack s c l t (openId t) none else s
        modStrand (closeStrand s c l) c l fun t => { t with sphase := .closing, swait := .clearing }

/-! ### Item loops (R127, R334) -/

/-- R334: items of a grid that no lane has received. -/
def itemsRemain (s : State) (p g : Nat) : Bool :=
  (match gridAt s p g with
   | some x => x.cursor < x.record.iqcount || !x.returned.isEmpty
   | none => false)
    || s.cores.any fun e => e.2.itemGrid == some (p, g) && !e.2.items.isEmpty

/-- R127: hands items to the finished lanes, in ascending order: the register words and lanes served, the
lanes without an item, and the items left. -/
def handOut : List Nat → List W32 → List (Nat × W32) × List Nat × List W32
  | [], items => ([], [], items)
  | l :: ls, [] => let r := handOut ls []; (r.1, l :: r.2.1, r.2.2)
  | l :: ls, i :: items => let r := handOut ls items; ((l, i) :: r.1, r.2.1, r.2.2)

/-- A predicate of a strand as a mask: p0 reads 1 (R27). -/
def predMask (x : LaneSide) (n : Nat) : Word := if n = 0 then -1 else mgetD x.preds n 0

/-- Writes a lane register word and clears its error and its poison (R38). -/
def lanePut (x : LaneSide) (r l : Nat) (v : W32) : LaneSide :=
  { x with vregs := mset x.vregs (64 * r + l) v, vpoison := x.vpoison.filter (fun k => k != 64 * r + l),
           verr := x.verr.filter fun k => k != 64 * r + l }

/-- R127: hands the core's items to the finished lanes, in ascending order, as far as they reach; true when a finished lane must await
an item. The lanes are served one by one: those that have been keep what they got while the rest wait (DEDUCED, log 23). -/
def iqServe (s : State) (c : Nat) (t : Strand) (p v : Nat) : State × Strand × Bool :=
  let k := coreOf s c
  let done := lanesOf (t.sc.exec &&& predMask t.ln p).toNat
  let mine := if k.itemGrid == some (t.part, t.grid) then k.items else []
  let h := handOut done mine
  let s' := putCore s c { k with items := if k.itemGrid == some (t.part, t.grid) then h.2.2 else k.items }
  let ln := h.1.foldl (fun x e => lanePut x v e.1 e.2) t.ln
  let ln := { ln with preds := mset ln.preds p (predMask ln p &&& ~~~(maskOf (h.1.map fun e => e.1))) }
  let waits := !h.2.1.isEmpty && itemsRemain s' t.part t.grid
  let exec := if waits then t.sc.exec else t.sc.exec &&& ~~~(maskOf h.2.1)
  (s', { t with ln := ln, sc := { t.sc with exec := exec }, served := t.served ++ h.1.map fun e => e.1 }, waits)

/-- R127: the end of an `iqloop` whose lanes have all been served: the count goes to the mailbox. -/
def iqCount (t : Strand) (p v m : Nat) : Strand × Results :=
  let n : Word := BitVec.ofNat 64 (popCount 64 t.sc.exec.toNat)
  ({ t with sc := mailPut t.sc m n, served := [] }, { lanes := t.served.map fun e => 64 * v + e, preds := [p] })

/-- R127, R128. -/
def execIqloop (p : BitVec 5) (v : BitVec 10) (m : BitVec 3) (s : State) : Out :=
  if p == 0 || 23 < p.toNat || 767 < v.toNat then scalarReserved s
  else scalarRun s [] 0 fun s c l t =>
    if 32 * t.vblk ≤ v.toNat then scalarTrap s c l 0x05 0
    else if t.vpend.any fun e => e.1 == v.toNat then scalarWait s c l .pending
    else atomicThen s c l t false fun s t =>
      let e := iqServe s c t p.toNat v.toNat
      if e.2.2 || mailFull e.2.1.sc m.toNat then scalarWait (putStrand e.1 c l e.2.1) c l .items
      else
        let x := iqCount e.2.1 p.toNat v.toNat m.toNat
        finishAtomic (putStrand e.1 c l x.1) c l x.2 (nextPc x.1.sc)

/-! ### glaunch (R129, R130) -/

/-- R129: the status word. -/
def launchStatus (code depth : Nat) : Word := BitVec.ofNat 64 (code + (if code = 0 then depth * 2 ^ 8 else 0))

/-- R129, R130: the checks of `glaunch` in order, with the record's number when it was read and accepted, or
the trap of the read. -/
def launchChecks (s : State) (c : Nat) (t : Strand) (a : Word) : Except Nat (Nat × Nat) :=
  if t.number ≠ 0 then .ok (5, 0)
  else if 10 ≤ t.depth then .ok (1, 0)
  else if a.toNat % 256 ≠ 0 then .ok (4, 0)
  else match readFault s c t a 256 false with
    | .error k => .error k
    | .ok locs =>
      if homePoisoned s locs then .error cPoison else
      let n := leNat (locs.map fun x => if isScratch x then seenByte s c t x else homeByte s x)
      .ok (recordStatus (partAt s t.part) n none, n)

/-- R236, R239, R246, R274: what an instruction that has cleared, and reads released bytes at once, waits for. -/
def copyWait (s : State) (t : Strand) (locs : List Nat) : Option Wait :=
  if loadOrder t true locs || hostOwned s locs || claimHeld s locs then some .pending else if touchWaits s locs then some .fill else none

/-- The wait of a `glaunch` before it reads its record, with the record's locations. -/
def launchWait (s : State) (c : Nat) (t : Strand) (a : Word) : Option (Wait × List Nat) :=
  if t.number ≠ 0 || 10 ≤ t.depth || a.toNat % 256 ≠ 0 then none
  else match readFault s c t a 256 false with
    | .error _ => none
    | .ok locs => (copyWait s t locs).map fun w => (w, locs)

/-- The locations of the record that a `glaunch` has read. -/
def launchLocs (s : State) (c : Nat) (t : Strand) (a : Word) : List Nat :=
  if t.number ≠ 0 || 10 ≤ t.depth || a.toNat % 256 ≠ 0 then []
  else match readFault s c t a 256 false with
    | .error _ => []
    | .ok locs => locs

/-- R129, R321. -/
def execGlaunch (d a : BitVec 7) (s : State) : Out :=
  memRun s [a.toNat] d.toNat fun s c l t =>
    atomicThen s c l t true fun s t =>
      let addr := sget t.sc a.toNat
      match launchWait s c t addr with
      | some (w, locs) => scalarWait (startTouches s locs) c l w
      | none => match launchChecks s c t addr with
      | .error k => scalarFault s c l k addr
      | .ok (code, n) =>
        if code = 0 && outranked s t.part (parseRecord n).queue (4 + c) then scalarWait s c l .clearing else
        let s := noteReads s t.part (launchLocs s c t addr)
        let s := if code = 0 then modGrid (enqueueRecord s t.part n (t.depth + 1) t.grid (4 + c)) t.part t.grid
            fun g => { g with children := g.children + 1 } else s
        finishAtomic { s with fresh := s.fresh + 1 } c l { scalars := [d.toNat] } (nextPc (sput t.sc d.toNat (launchStatus code (t.depth + 1))))

end Sys2Proof.Machine
end

