-- ==== Sys2Proof/Machine/Copies.lean ====
section
/-! DEFINITION. Copies, batches and tokens, and the hearth copy engines (spec/09 R269 to R271, spec/07 R219,
spec/17 R358, spec/18 R365). -/

namespace Sys2Proof.Machine

open Sys2Proof

/-! ### Issue -/

/-- R191: copies of a strand that no engine has taken. -/
def copyQueue (s : State) (t : Strand) : Nat :=
  (s.copies.filter fun y => y.block == t.block && y.number == t.number && !y.started && !y.done).length

/-- R365: the engine that serves a copy; none when the partition owns none. -/
def engineFor (x : Partition) (c : Nat) : Option Nat :=
  let own (h : Nat) : Bool := ownsEngine x h && !x.awaiting.contains (1, h)
  if own (hearthOf c) then some (hearthOf c) else (List.range 192).find? own

/-- R180, R196: the window class of a target address: the strand's own block may also be named by its GIDX. -/
def targetClass (s : State) (t : Strand) (a : Word) : Nat :=
  if !inAperture a then 2
  else if a.getLsbD 22 || (gangBlock s t.gang (bits a.toNat 21 20)).any fun e => e.1 == t.block then 0 else 1

/-- R269: the parameters of a copy. -/
structure CopyArgs where
  src  : Word
  dst  : Word
  rowb : Nat
  rows : Nat
  sstr : Word
  dstr : Word
  ctr  : Word
  amt  : Word
  deriving DecidableEq, Repr

/-- R269: the ranges that both forms share. -/
def copyArgsOk (q : CopyArgs) : Bool :=
  q.rowb * q.rows ≤ 2 ^ 32 && q.ctr.toNat % 8 == 0 && canonical q.src && canonical q.dst

/-- R270, R271: a copy enters the strand's copy queue and its open batch. -/
def issueCopy (s : State) (c l : Nat) (t : Strand) (q : CopyArgs) : State :=
  if 32 ≤ copyQueue s t then scalarWait s c l .copySlot
  else
    let reg := openId t
    let serial := ((openRegion t).map fun r => r.serial).getD t.serial
    let e := engineFor (partAt s t.part) c
    let y : Copy :=
      { id := s.nextId, part := t.part, grid := t.grid, gang := t.gang, acct := acctOf s t.part t.grid, core := c, slot := l, number := t.number,
        tag := tagOf s c l serial, region := reg, src := q.src, dst := q.dst, rowb := q.rowb, rows := q.rows,
        sstr := q.sstr, dstr := q.dstr, ctr := q.ctr, amt := q.amt, engine := e.getD 0, started := e.isNone,
        active := false, suspended := false, paused := false, readN := 0, staged := [], failAt := none, cleared := none,
        chunks := 0, awaits := [], gwct := 0, added := false, status := if e.isNone then 2 else 0, donek := 0,
        done := e.isNone, raised := [], block := t.block }
    let add (b : Batch) : Batch := { b with copies := b.copies ++ [y.id] }
    let batches := if t.batches.any fun b => !b.sealed then t.batches.map fun b => if b.sealed then b else add b
      else t.batches ++ [{ number := 0, copies := [y.id], sealed := false, reg := 0, region := reg, token := none, read := false }]
    let cls := max (targetClass s t q.dst) (if q.ctr = 0 then 0 else targetClass s t q.ctr)
    let t := markEffect { t with batches := batches } reg cls
    let s := putStrand { s with nextId := s.nextId + 1, copies := s.copies ++ [y] } c l t
    let s := if e.isNone then s else engineEvents s y.engine
    match strandAt s c l with
    | some t => finish s c l 0 (nextPc t.sc)
    | none => s

/-- R269. -/
def execCpy (d a b : BitVec 7) (s : State) : Out :=
  if !groupOk b 3 then scalarReserved s
  else memRun s [d.toNat, a.toNat, b.toNat, b.toNat + 1, b.toNat + 2] 0 fun s c l t =>
    let g (i : Nat) : Word := sget t.sc (b.toNat + i)
    let q : CopyArgs := { src := sget t.sc a.toNat, dst := sget t.sc d.toNat, rowb := (g 0).toNat, rows := 1, sstr := 0,
                          dstr := 0, ctr := g 1, amt := g 2 }
    if !copyArgsOk q then scalarTrap s c l 0x18 0 else issueCopy s c l t q

/-- R269: the ranges of the two-dimensional form. -/
def rowsOk (q : CopyArgs) : Bool := 1 ≤ q.rowb && q.rowb ≤ 2 ^ 20 && 1 ≤ q.rows && q.rows ≤ 65535

/-- R269. -/
def execCpy2d (d a b : BitVec 7) (s : State) : Out :=
  if !groupOk b 6 then scalarReserved s
  else memRun s [d.toNat, a.toNat, b.toNat, b.toNat + 1, b.toNat + 2, b.toNat + 3, b.toNat + 4, b.toNat + 5] 0 fun s c l t =>
    let g (i : Nat) : Word := sget t.sc (b.toNat + i)
    let q : CopyArgs := { src := sget t.sc a.toNat, dst := sget t.sc d.toNat, rowb := (g 0).toNat, rows := (g 1).toNat,
                          sstr := g 2, dstr := g 3, ctr := g 4, amt := g 5 }
    if !rowsOk q || !copyArgsOk q then scalarTrap s c l 0x18 0 else issueCopy s c l t q

/-- R271: the token of a batch that is done (DEDUCED, log 78). -/
def tokenWord (number status first donek : Nat) : Word :=
  BitVec.ofNat 64 (number % 2 ^ 24 + status % 256 * 2 ^ 24 + first % 256 * 2 ^ 32 + donek % 2 ^ 24 * 2 ^ 40)

/-- R271: the token of an empty batch is written at once. -/
def emptyToken (t : Strand) (num : Nat) : Bool := t.batches.any fun b => b.number == num && b.sealed && b.copies.isEmpty

/-- R271: seals the open batch; the token register pends until the token is written. -/
def execCseal (d : BitVec 7) (s : State) : Out :=
  scalarRun s [] d.toNat fun s c l t =>
    let num := t.nextBatch
    let t := sealBatch t d.toNat
    let t := if d == 0 then t else { t with tpend := t.tpend ++ [(d.toNat, num)] }
    let t := if emptyToken t num then
        { t with batches := (t.batches.map fun b => if b.number == num then { b with token := some (tokenWord num 0 0 0) } else b),
                 sc := sput t.sc d.toNat (tokenWord num 0 0 0) }
      else t
    finish (putStrand s c l t) c l d.toNat (nextPc t.sc)

/-! ### The engine (R219, R270) -/

def copyAt (s : State) (id : Nat) : Option Copy := s.copies.find? fun y => y.id == id
def modCopy (s : State) (id : Nat) (f : Copy → Copy) : State :=
  { s with copies := s.copies.map fun y => if y.id == id then f y else y }

/-- Bytes of a copy and the number of its chunks. -/
def copyBytes (y : Copy) : Nat := y.rowb * y.rows
def copyChunks (y : Copy) : Nat := (copyBytes y + 4095) / 4096

/-- R269: the source and destination address of a position of the copy's data. -/
def copySrc (y : Copy) (i : Nat) : Word := y.src + BitVec.ofNat 64 (i / y.rowb) * y.sstr + BitVec.ofNat 64 (i % y.rowb)
def copyDst (y : Copy) (i : Nat) : Word := y.dst + BitVec.ofNat 64 (i / y.rowb) * y.dstr + BitVec.ofNat 64 (i % y.rowb)

/-- An engine's access that waits for the recall of a translation table's half (R246). -/
def engineRecall : Nat := 0xFF

/-- R271: the token status that stands for a memory fault of an engine's access; a write to a read-only window, which the table of
R271 does not name, reports an access fault (DESIGN CHOICE, log 140). -/
def engineStatus (code : Nat) : Nat :=
  if code = cRecall then engineRecall else if code = cTranslation then 1 else if code = cPoison then 3 else 2

/-- Where a byte that an engine moves lies, or the token status of its fault (R239, R271); the block of SELF is that of the strand that
issued the copy. -/
def engineLoc (s : State) (y : Copy) (a : Word) (u : Use) : Except Nat Nat :=
  if inAperture a then
    let n := a.toNat
    if bits n 54 23 ≠ 0 || (a.getLsbD 22 && bits n 21 20 ≠ 0) then .error 4
    else
      let target := if a.getLsbD 22 then (blockAt s y.block).map fun b => (y.block, b)
        else gangBlock s y.gang (bits n 21 20)
      match target with
      | none => .error 4
      | some (b, x) =>
        if x.area ≤ bits n 19 0 then .error 4
        else if u == .write && writeForbidden x (bits n 19 0) then .error (engineStatus cWindow)
        else .ok (scratchLoc b (bits n 19 0))
  else if !canonical a then .error 1
  else match walk s y.part (a.toNat % 2 ^ 57) with
    | .error k => .error (engineStatus k)
    | .ok t =>
      let pa := redirect s (t.pbase + a.toNat % 2 ^ 57 % t.size)
      if isleOf pa = 15 || (u == .write && !t.w) then .error 2
      else if u == .read && s.poison.contains (pa / 128) then .error 3
      else .ok pa

/-- The parts of n bytes from an address that lie in one 64 KiB page each: offset and length. -/
def pageParts (a : Word) (n : Nat) : List (Nat × Nat) :=
  let o := a.toNat % 65536
  (List.range ((o + n + 65535) / 65536)).map fun k =>
    let lo := if k = 0 then 0 else 65536 * k - o
    (lo, min n (65536 * (k + 1) - o) - lo)

/-- The ranges of locations of the rows of a copy, of its source or of its destination. -/
def copyRanges (s : State) (y : Copy) (addr : Nat → Word) (u : Use) : List (Nat × Nat) :=
  if y.rowb = 0 then []
  else (List.range y.rows).flatMap fun r => (pageParts (addr (r * y.rowb)) y.rowb).filterMap fun e =>
    match engineLoc s y (addr (r * y.rowb + e.1)) u with
    | .ok a => some (a, e.2)
    | .error _ => none

/-- R270: a row of the source and a row of the destination share a byte, by their addresses or by where these lie
(DEDUCED, log 92). -/
def copyOverlaps (s : State) (y : Copy) : Bool :=
  let rows := (List.range y.rows).any fun i => (List.range y.rows).any fun j =>
    let a := copySrc y (i * y.rowb)
    let b := copyDst y (j * y.rowb)
    y.rowb != 0 && ((a - b).toNat < y.rowb || (b - a).toNat < y.rowb)
  rows || (copyRanges s y (copySrc y) .read).any fun a => (copyRanges s y (copyDst y) .write).any fun b => a.1 < b.1 + b.2 && b.1 < a.1 + a.2

/-- The released byte at a location (R270 step 1). -/
def releasedAt (s : State) (loc : Nat) : Byte :=
  if isScratch loc then
    match blockAt s (locBlock loc) with
    | some b => releasedByte (coreOf s b.core) b (locBlock loc) (locOff loc)
    | none => 0
  else homeByte s loc

/-- R270: the engine takes the next copy of its queue: at most 8 are active, and copies start in order. -/
def execEvCopyStart (id : Nat) (s : State) : Out :=
  match copyAt s id with
  | none => .next s
  | some y =>
    let mine (z : Copy) : Bool := z.engine == y.engine
    let first := (s.copies.filter fun z => mine z && copyWaits z).head?.map fun z => z.id
    if !copyWaits y || hearthStopped s y.engine || first != some id || 8 ≤ (s.copies.filter fun z => mine z && z.active).length then .next s
    else
      let past := !y.started && copyOverlaps s y
      let s := modCopy s id fun z => { z with started := true, active := true, failAt := if past then some (0, 5) else z.failAt }
      .next (engineEvents (if y.core < Config.cores then wakeCore s y.core 2 else s) y.engine)

/-- R219: bytes that an engine holds staged. -/
def stagedBytes (s : State) (e : Nat) : Nat :=
  ((s.copies.filter fun y => y.engine == e).map fun y => y.staged.length).foldl (· + ·) 0

/-- R358: of two copies of an engine, the one whose last chunk was taken the earlier, the first to arrive among equals. -/
def turnBefore (stamp : Copy → Nat) (a b : Copy) : Bool := stamp a < stamp b || (stamp a == stamp b && a.id < b.id)

/-- R358: round robin: no other copy of the engine that is ready comes before this one. -/
def hasTurn (s : State) (stamp : Copy → Nat) (ready : Copy → Bool) (y : Copy) : Bool :=
  !(s.copies.any fun z => z.engine == y.engine && z.id != y.id && turnBefore stamp z y && ready z)

/-- The bytes of the next chunk of a copy's source that are to be read. -/
def readLength (y : Copy) : Nat := min 4096 (copyBytes y - y.readN)

/-- R219, R270: the staging has room for the next chunk of a copy's source, and the engine runs. -/
def readOpen (s : State) (y : Copy) : Bool :=
  y.active && !hearthStopped s y.engine && y.failAt.isNone && readLength y != 0 && stagedBytes s y.engine + readLength y ≤ 262144

/-- The next chunk of a copy's source: positions in the copy's data, with where each byte lies or its fault. -/
def nextSource (s : State) (y : Copy) : List (Nat × Except Nat Nat) :=
  (List.range (readLength y)).map fun i => (y.readN + i, engineLoc s y (copySrc y (y.readN + i)) .read)

def okLocs (l : List (Except Nat Nat)) : List Nat := l.filterMap Except.toOption
def firstError (l : List (Except Nat Nat)) : Option Nat := l.findSome? fun e => match e with | .error k => some k | .ok _ => none

/-- R239, R246, R270: the fault of a chunk that the engine is to move: of an address, or of a window fill that its touches need. -/
def engineFault (s : State) (l : List (Except Nat Nat)) : Option Nat :=
  match firstError l with
  | some k => some k
  | none => (touchFault s (okLocs l)).map engineStatus

/-- R239, R246, R274: an access of an engine waits for the recall of a half that a CXL host owns, for a claim, or for a window's fill. -/
def engineHeld (s : State) (l : List (Except Nat Nat)) : Bool :=
  match engineFault s l with
  | some k => k == engineRecall
  | none => hostOwned s (okLocs l) || claimHeld s (okLocs l) || touchWaits s (okLocs l)

/-- R219, R270: the engine may read the next chunk of a copy's source. -/
def readReady (s : State) (y : Copy) : Bool := readOpen s y && !engineHeld s ((nextSource s y).map fun e => e.2)

/-- R219, R239, R270: the next chunk of source data arrives and is staged, once the window fills that its touches start have landed. A
fault stops the reading there. -/
def execEvCopyDataStaged (id : Nat) (s : State) : Out :=
  match copyAt s id with
  | none => .next s
  | some y =>
    let n := readLength y
    let got := nextSource s y
    let locs := got.map fun e => e.2
    if !readOpen s y then .next s
    else if engineHeld s locs then .next (if (engineFault s locs).isNone then startTouches s (okLocs locs) else s)
    else if !hasTurn s (fun z => z.readTurn) (readReady s) y then .next s
    else
      match engineFault s locs with
      | some k => .next (modCopy s id fun z => { z with failAt := some (y.readN / 4096, k) })
      | none =>
        let data := got.filterMap fun e => match e.2 with | .ok loc => some (e.1, releasedAt s loc) | .error _ => none
        let s := noteReads s y.part (okLocs locs)
        let s := walkLease { s with fresh := s.fresh + 1, nextId := s.nextId + 1 } y.part (got.map fun e => (copySrc y e.1).toNat)
        .next (modCopy s id fun z => { z with staged := z.staged ++ data, readN := z.readN + n, readTurn := s.nextId })

/-- The tick at which an effect of a copy may be seen: ec + W of its target's class (R219). -/
def copyRelease (y : Copy) (cls : Nat) : Nat :=
  match y.cleared with
  | none => 0
  | some (ec, qd, qp) => if cls = 0 then ec else if cls = 1 then ec + qd else ec + qp

/-- Writes scratch bytes that an engine has released; a window word of a writable window becomes dirty. -/
def engineScratch (s : State) (l : List (Nat × Byte)) : State :=
  l.foldl (fun s e => arrayApply s (locBlock e.1) (locOff e.1) 1 fun _ => [e.2]) s

/-- R270 step 2: a copy's bytes leave for their homes as held effects with an immediate CLOSE. -/
def sendCopyWrites (s : State) (y : Copy) (l : List (Nat × Byte)) : State :=
  (linesOf (l.map fun e => e.1)).foldl (fun s n =>
    let part := msets [] (l.filter fun e => e.1 / 128 == n)
    let id := s.nextId
    let e : Effect := { id := id, part := y.part, grid := y.grid, tag := y.tag, region := y.region, home := homeOf s (128 * n), kind := .write part,
                        stage := .flight, order := 0, entry := 0, ownClose := some (copyRelease y 2), copy := some y.id,
                        slice := none, lane := false, store := false, seq := 0, place := 0 }
    modCopy { s with effects := s.effects ++ [e], nextId := id + 1 } y.id fun z => { z with awaits := id :: z.awaits }) s

/-- The end of the next chunk of a copy that is to be written, in the copy's data. -/
def chunkEnd (y : Copy) : Nat := min (4096 * y.chunks + 4096) (copyBytes y)

/-- The next chunk to be written, with where its bytes go. -/
def chunkPut (s : State) (y : Copy) : List (Except Nat Nat × Byte) :=
  (y.staged.filter fun e => e.1 < chunkEnd y).map fun e => (engineLoc s y (copyDst y e.1) .write, e.2)

/-- R202: the window of a scratch location that an engine writes has passed: its own block's or another's. -/
def scratchDue (s : State) (y : Copy) (loc : Nat) : Bool := copyRelease y (if locBlock loc = y.block then 0 else 1) ≤ s.now

/-- R219, R270 step 2: the engine may write the next whole chunk of a copy, whose region has cleared. -/
def writeReady (s : State) (y : Copy) : Bool :=
  let stop : Bool := match y.failAt with | some f => f.1 ≤ y.chunks | none => false
  y.active && !hearthStopped s y.engine && y.cleared.isSome && !stop && 4096 * y.chunks < chunkEnd y && chunkEnd y ≤ y.readN
    && (chunkPut s y).all fun e => match e.1 with
      | .ok loc => !isScratch loc || scratchDue s y loc
      | .error k => k != engineRecall

/-- R219, R270 step 2: the next whole chunk is written; a fault of its destination stops the copy before it. -/
def execEvCopyChunkWrite (id : Nat) (s : State) : Out :=
  match copyAt s id with
  | none => .next s
  | some y =>
    let n := chunkEnd y - 4096 * y.chunks
    if !writeReady s y || !hasTurn s (fun z => z.turn) (writeReady s) y then .next s
    else
      let put := chunkPut s y
      match put.findSome? fun e => match e.1 with | .error k => some k | .ok _ => none with
      | some k => .next (modCopy s id fun z => { z with failAt := some (y.chunks, k) })
      | none =>
        let locs := put.filterMap fun e => match e.1 with | .ok loc => some (loc, e.2) | .error _ => none
        let dst := (y.staged.filter fun e => e.1 < chunkEnd y).map fun e => (copyDst y e.1).toNat
        let s := noteWatches (engineScratch (walkLease { s with nextId := s.nextId + 1 } y.part dst) (locs.filter fun e => isScratch e.1))
        let s := sendCopyWrites s y (locs.filter fun e => !isScratch e.1)
        let s := modCopy s id fun z => { z with chunks := z.chunks + 1, staged := z.staged.filter (fun e => chunkEnd y ≤ e.1), turn := s.nextId }
        let s := modAccount s y.part y.acct fun a => { a with gross := addWord a.gross 9 n, net := addWord a.net 9 n }
        .next (chargeBytes s y.part y.acct n)

/-- Ends a copy with a status; its engine goes on. -/
def endCopy (s : State) (id status donek : Nat) : State :=
  match copyAt s id with
  | none => s
  | some y =>
    engineEvents (modCopy s id fun z => { z with done := true, active := false, status := status, donek := donek, staged := [] }) y.engine

/-- The counter of a copy that has one: where its bytes lie, or the fault. -/
def ctrLocs (s : State) (y : Copy) : List (Except Nat Nat) :=
  match engineLoc s y y.ctr .write with
  | .ok loc => if isScratch loc && !((blockAt s (locBlock loc)).any fun b => b.area < locOff loc + 8) then
      (List.range 8).map fun i => .ok (loc + i) else [.ok loc]
  | .error k => [.error k]

/-- R270 step 3: the completion add of a copy whose writes have all been released. -/
def addCompletion (s : State) (y : Copy) : State :=
  if y.ctr = 0 then endCopy s y.id 0 (copyChunks y)
  else match engineLoc s y y.ctr .write with
    | .error k => endCopy s y.id k (copyChunks y)
    | .ok loc =>
      if isScratch loc then
        if (blockAt s (locBlock loc)).any fun b => b.area < locOff loc + 8 then endCopy s y.id 4 (copyChunks y)
        else if let some k := touchFault s (okLocs (ctrLocs s y)) then endCopy s y.id (engineStatus k) (copyChunks y)
        else
          let old := areaWord s (locBlock loc) (locOff loc)
          let s := arrayApply s (locBlock loc) (locOff loc) 8 fun l => leBytes 8 (satAdd (BitVec.ofNat 64 (leNat l)) y.amt).toNat
          endCopy (noteWatches s) y.id (if addOverflows old y.amt then 6 else 0) (copyChunks y)
      else if 14 ≤ isleOf loc then endCopy s y.id 2 (copyChunks y)
      else
        let e : Effect := { id := s.nextId, part := y.part, grid := y.grid, tag := y.tag, region := y.region, home := homeOf s loc, kind := .add loc y.amt,
                            stage := .flight, order := 0, entry := 0, ownClose := some (copyRelease y 2), copy := some y.id,
                            slice := none, lane := false, store := false, seq := 0, place := 0 }
        modCopy { s with effects := s.effects ++ [e], nextId := s.nextId + 1 } y.id fun z =>
          { z with added := true, awaits := [e.id] }

/-- R202, R219, R239, R246: the completion add of a copy waits for the window of a scratch counter, for the fill of its chunk, or for a
recall. -/
def addEarly (s : State) (y : Copy) : Bool :=
  y.ctr != 0 && match engineLoc s y y.ctr .write with
    | .ok loc => isScratch loc && (!scratchDue s y loc || ((touchFault s (okLocs (ctrLocs s y))).isNone && touchWaits s (okLocs (ctrLocs s y))))
    | .error k => k == engineRecall

/-- R270 step 3, R271: a copy whose chunks have all been released adds to its counter, or ends with its
failure. -/
def execEvCopyCompletionAdd (id : Nat) (s : State) : Out :=
  match copyAt s id with
  | none => .next s
  | some y =>
    if y.done || y.added || !y.active || hearthStopped s y.engine || y.cleared.isNone || !y.awaits.isEmpty || s.now ≤ y.gwct then .next s
    else match y.failAt with
      | some (k, st) => if y.chunks = k then .next (endCopy s id st k) else .next s
      | none =>
        if y.chunks ≠ copyChunks y then .next s
        else if addEarly s y then .next (if (touchFault s (okLocs (ctrLocs s y))).isNone then startTouches s (okLocs (ctrLocs s y)) else s)
        else .next (addCompletion (walkLease s y.part (if y.ctr = 0 then [] else [y.ctr.toNat])) y)

/-- R271: writes the token into the strand's register, and into the heads that a later restart restores. -/
def landToken (t : Strand) (b : Batch) (w : Word) : Strand :=
  { t with sc := sput t.sc b.reg w,
           regions := t.regions.map fun r => if b.region < r.id then { r with head := sput r.head b.reg w } else r,
           batches := t.batches.map fun x => if x.number == b.number && x.sealed then { x with token := some w } else x }

/-- R271: every copy of a sealed batch has completed and released: its token is written. The copies are kept while a squash may
cancel the seal. -/
def execEvBatchTokenWritten (c l num : Nat) (s : State) : Out :=
  match strandAt s c l with
  | none => .next s
  | some t =>
    match t.batches.find? fun b => b.number == num && b.sealed && b.token.isNone with
    | none => .next s
    | some b =>
      let ys := b.copies.map fun k => copyAt s k
      if !(ys.all fun y => (y.map fun z => z.done).getD true) then .next s
      else
        let bad := (List.range ys.length).find? fun i => (((ys[i]?).bind id).map fun z => z.status != 0).getD false
        let st (i : Nat) : Nat × Nat := (((ys[i]?).bind id).map fun z => (z.status, z.donek)).getD (0, 0)
        let w := match bad with
          | some i => tokenWord num (st i).1 i (st i).2
          | none => tokenWord num 0 0 0
        let s := putStrand s c l (landToken t b w)
        let gone : Bool := !(t.regions.any fun r => r.id == b.region && !r.cleared)
        .next (wakeCore { s with copies := s.copies.filter fun y => !(gone && b.copies.contains y.id) } c 4)

end Sys2Proof.Machine
end

