-- ==== Sys2Proof/Machine/Elementary.lean ====
section
/-! DEFINITION. Square roots and the elementary functions of spec/05 R149, R150. Roots carry an exact
remainder bit. Exponential, logarithm, sine and cosine are computed in fixed point with 640 fraction bits,
with an error below 2^-600 of the exact value, before the single rounding (DESIGN CHOICE, log 19). -/

namespace Sys2Proof

/-- Fraction bits of the fixed-point values below. -/
def fixBits : Nat := 640

/-- The integer square root, one bit at a time from bit i − 1 down. -/
def isqrtFrom (x : Nat) : Nat → Nat → Nat
  | 0, r => r
  | i + 1, r => let y := r + 2 ^ i; isqrtFrom x i (if y * y ≤ x then y else r)

/-- √(n/d) to 160 fraction bits, a half unit added when it is not exact: no rounding boundary of a
24-bit format lies between this value and the root. -/
def rootNum (n d : Nat) : Num :=
  let x := n * 2 ^ 320 / d
  let z := isqrtFrom x (Nat.log2 x / 2 + 1) 0
  .fin false (2 * z + (if z * z * d = n * 2 ^ 320 then 0 else 1)) (2 ^ 161)

/-- Σ z^(2k+1) / (2k+1) with the given sign pattern, in fixed point, from the term and its square. -/
def oddSeries (alternating : Bool) (sq : Nat) : Nat → Nat → Nat → Int → Int
  | 0, _, _, acc => acc
  | i + 1, k, term, acc =>
    let t : Int := (term / (2 * k + 1) : Nat)
    oddSeries alternating sq i (k + 1) (term * sq / 2 ^ fixBits) (if alternating && k % 2 == 1 then acc - t else acc + t)

/-- 2 artanh(z) of a fixed-point z of at most 1/3. -/
def twoArtanh (z : Nat) : Nat := (2 * oddSeries false (z * z / 2 ^ fixBits) 210 0 z 0).toNat

/-- ln 2 = 2 artanh(1/3). -/
def fixLn2 : Nat := twoArtanh (2 ^ fixBits / 3)

/-- arctan(1/q). -/
def arctanInv (q : Nat) : Int := oddSeries true (2 ^ fixBits / (q * q)) 145 0 (2 ^ fixBits / q) 0

/-- π by Machin's formula. -/
def fixPi : Nat := (16 * arctanInv 5 - 4 * arctanInv 239).toNat

/-- Σ of the Taylor terms of exp from term number i + 1 on. -/
def expSeries (y : Nat) : Nat → Nat → Nat → Nat → Nat
  | 0, _, _, acc => acc
  | n + 1, i, term, acc => expSeries y n (i + 1) (term * y / (2 ^ fixBits * (i + 1))) (acc + term)

/-- Σ of the alternating Taylor terms of sine or cosine: each is the last times y² over i (i + 1). -/
def trigSeries (sq : Nat) : Nat → Nat → Nat → Bool → Int → Int
  | 0, _, _, _, acc => acc
  | n + 1, i, term, minus, acc =>
    trigSeries sq n (i + 2) (term * sq / (2 ^ fixBits * (i * (i + 1)))) (!minus) (if minus then acc - term else acc + term)

/-- A finite value in fixed point, rounded down. -/
def toFix (s : Bool) (n d : Nat) : Int := Num.signed s (n * 2 ^ fixBits) / (d : Int)

/-- R149, R150: 2^x. -/
def exp2Num : Num → Num
  | .nan => .nan
  | .inf s => if s then Num.zero false else .inf false
  | .fin s n d =>
    let x := max (-(200 * 2 ^ fixBits : Int)) (min (200 * 2 ^ fixBits) (toFix s n d))
    let i := x / (2 ^ fixBits : Int)
    let f := (x % (2 ^ fixBits : Int)).toNat
    let e := if f = 0 then 2 ^ fixBits else expSeries (f * fixLn2 / 2 ^ fixBits) 140 0 (2 ^ fixBits) 0
    Num.scale (.fin false e (2 ^ fixBits)) i

/-- R149, R150: log2 x. -/
def log2Num : Num → Num
  | .nan => .nan
  | .inf s => if s then .nan else .inf false
  | .fin s n d =>
    if n = 0 then .inf true
    else if s then .nan
    else
      let e := floorLog n d
      -- the significand m in [1, 2), and (m − 1) / (m + 1)
      let mn := if 0 ≤ e then n else n * 2 ^ (-e).toNat
      let md := if 0 ≤ e then d * 2 ^ e.toNat else d
      let l := twoArtanh ((mn - md) * 2 ^ fixBits / (mn + md)) * 2 ^ fixBits / fixLn2
      let v := e * (2 ^ fixBits : Int) + (l : Int)
      if v = 0 then Num.zero false else .fin (v < 0) v.natAbs (2 ^ fixBits)

/-- Sine and cosine of a quarter turn's fraction r, in fixed point. -/
def sinCosFix (r : Nat) : Int × Int :=
  let y := r * fixPi / 2 ^ (fixBits + 1)
  let sq := y * y / 2 ^ fixBits
  (trigSeries sq 70 2 y false 0, trigSeries sq 70 1 (2 ^ fixBits) false 0)

/-- A fixed-point value as a number; an exact zero is +0 (R150). -/
def fixNum (v : Int) : Num := if v = 0 then Num.zero false else .fin (v < 0) v.natAbs (2 ^ fixBits)

/-- Sine and cosine of 2πx for a finite x. -/
def turns (s : Bool) (n d : Nat) : Num × Num :=
  let t := (toFix s n d % (2 ^ fixBits : Int)).toNat * 4
  let q := t / 2 ^ fixBits
  let r := t % 2 ^ fixBits
  let sc := if r = 0 then (0, (2 ^ fixBits : Int)) else sinCosFix r
  let p := if q = 0 then (sc.1, sc.2) else if q = 1 then (sc.2, -sc.1) else if q = 2 then (-sc.1, -sc.2) else (-sc.2, sc.1)
  (fixNum p.1, fixNum p.2)

/-- R149, R150: sin(2πx) and cos(2πx), x in turns. -/
def sinNum : Num → Num
  | .fin s n d => if n = 0 then Num.zero s else (turns s n d).1
  | _ => .nan

def cosNum : Num → Num
  | .fin s n d => (turns s n d).2
  | _ => .nan

/-- R150: √x and 1/√x. -/
def sqrtNum : Num → Num
  | .nan => .nan
  | .inf s => if s then .nan else .inf false
  | .fin s n d => if n = 0 then Num.zero s else if s then .nan else rootNum n d

def rsqrtNum : Num → Num
  | .nan => .nan
  | .inf s => if s then .nan else Num.zero false
  | .fin s n d => if n = 0 then .inf s else if s then .nan else rootNum d n

end Sys2Proof
end

