-- ==== Sys2Proof/Machine/Slices.lean ====
section
/-! DEFINITION. Frames, marks and stack slices (spec/10 R277 to R288). -/

namespace Sys2Proof.Machine

open Sys2Proof

/-- R24: sp and fp. -/
def spOf (x : ScalarSide) : Word := sget x 2
def fpOf (x : ScalarSide) : Word := sget x 3

/-- A multiple of 16. -/
def aligned16 (a : Word) : Bool := a.toNat % 16 == 0

/-! ### Records (R279, R280) -/

/-- A checked stack record: a frame, or a mark (`kind` 2) with its TAG and RESUME. -/
structure StackRec where
  kind   : Nat
  size   : Nat
  prev   : Int
  tag    : Nat
  resume : Word
  smask  : Nat
  lfirst : Nat
  lcount : Nat
  cutd   : Nat
  deriving DecidableEq, Repr

/-- The lanes of a frame's lane part (R279). -/
def frameWidth (compat : Bool) : Nat := if compat then 32 else 64

/-- R279: where the lane part of a frame begins. -/
def lanePart (smask : Nat) : Nat := (48 + 8 * popCount 128 smask + 15) / 16 * 16

/-- R280: a mark from its 16 bytes. -/
def markOf (n : Nat) : Option StackRec :=
  if bits n 3 2 ≠ 0 || bits n 15 4 ≠ 1 then none
  else some { kind := 2, size := 1, prev := sgn 32 (bits n 63 32), tag := bits n 31 16, resume := BitVec.ofNat 64 (bits n 127 64),
              smask := 0, lfirst := 0, lcount := 0, cutd := 0 }

/-- R279: a frame from its 48 bytes; `top` when it is the top frame of a slice. TOP, CUTD and RESUME are
nonzero nowhere else (DEDUCED, log 26). -/
def frameOf (compat top : Bool) (n : Nat) : Option StackRec :=
  let smask := bits n 255 128
  let lf := bits n 329 320
  let lc := bits n 339 330
  let need := if n.testBit 2 then lanePart smask + 4 * frameWidth compat * lc else 48 + 8 * popCount 128 smask
  if bits n 31 23 ≠ 0 || bits n 383 340 ≠ 0 || smask % 16 &&& 13 ≠ 0 || n.testBit 2 != (lc != 0) || 768 < lf + lc
    || bits n 15 4 < 3 || 16 * bits n 15 4 < need || n.testBit 3 != top
    || (!top && (bits n 22 16 ≠ 0 || bits n 319 256 ≠ 0)) then none
  else some { kind := 1, size := bits n 15 4, prev := sgn 32 (bits n 63 32), tag := 0, resume := BitVec.ofNat 64 (bits n 319 256),
              smask := smask, lfirst := lf, lcount := lc, cutd := bits n 22 16 }

/-- R281: LFIRST + LCOUNT of a frame with a lane part. -/
def laneEnd (h : StackRec) : Nat := if h.lcount = 0 then 0 else h.lfirst + h.lcount

/-- The bytes of the strand's own view of n bytes at an address (R236), or the fault. -/
def viewBytes (s : State) (c : Nat) (t : Strand) (a : Word) (n : Nat) : Except Nat (List Byte) :=
  match readFault s c t a n false with
  | .error k => .error k
  | .ok locs => if (readWait s c t locs).isSome then .error cRecall else .ok (locs.map (seenByte s c t))

/-- R239: an instruction that waits to see the bytes of its stack has asked for the window fills that they need. -/
def touchStack (s : State) (c : Nat) (t : Strand) (a : Word) (n : Nat) : State :=
  match locate s c t a n .read with
  | .ok locs => startTouches s locs
  | .error _ => s

/-- Trap codes of slices (R374). -/
def cSliceState : Nat := 0x19
def cSliceFormat : Nat := 0x1A
def cNoMark : Nat := 0x1B
def cSliceLarge : Nat := 0x1C
def cSlicePool : Nat := 0x1D
def cStale : Nat := 0x1E
def cFootprint : Nat := 0x1F

/-- A trap of a slice instruction: its code, and the address of a memory fault. -/
abbrev SliceTrap := Nat × Word

/-- R279, R280, R284: the record at an address, checked. -/
def recordAt (s : State) (c : Nat) (t : Strand) (a : Word) : Except SliceTrap StackRec :=
  match viewBytes s c t a 16 with
  | .error k => .error (k, a)
  | .ok l =>
    let n := leNat l
    let r : Except SliceTrap (Option StackRec) :=
      if n % 4 = 2 then .ok (markOf n)
      else if n % 4 ≠ 1 then .ok none
      else match viewBytes s c t a 48 with
        | .error k => .error (k, a)
        | .ok l => .ok (frameOf t.compat false (leNat l))
    match r with
    | .error e => .error e
    | .ok none => .error (cSliceFormat, 0)
    | .ok (some h) => match readFault s c t a (16 * h.size) false with
      | .error k => .error (k, a)
      | .ok _ => .ok h

/-! ### mark (R283) -/

/-- R283: the 16 bytes of a mark. -/
def markBytes (tag : Nat) (prev : Word) (resume : Word) : List Byte :=
  leBytes 8 (2 + 16 + tag * 2 ^ 16 + prev.toNat % 2 ^ 32 * 2 ^ 32) ++ leBytes 8 resume.toNat

/-- R283. -/
def execMark (g : BitVec 16) (s : State) : Out :=
  memRun s [2, 3] 2 fun s c l t =>
    let sp := spOf t.sc
    let fp := fpOf t.sc
    if scalarReserveShort s c t [2, 3] then scalarWait s c l (.resource 1)
    else if !aligned16 sp || !aligned16 fp then scalarFault s c l cAlign (if aligned16 sp then fp else sp)
    else match writeFault s c t sp 16 false with
      | .error k => scalarFault s c l k sp
      | .ok locs =>
        let s := keepFor s c t sp 16
        if loadOrder t true locs then scalarWait s c l .pending
        else if (storeNeeds s c t (openId t) locs).isSome then scalarWait s c l (.resource ((storeNeeds s c t (openId t) locs).getD 6))
        else
          let s := issueStore s c l (openId t) 0 true none (locs.zip (markBytes g.toNat (fp - sp) (t.sc.spc + 8)))
            t.sc.seq t.sc.spc
          match strandAt s c l with
          | some t => finish (putStrand s c l (noteScalar t 3)) c l 2 (nextPc (sput (sput t.sc 3 sp) 2 (sp + 16)))
          | none => s

/-! ### The slice table (R281, R282) -/

/-- A slot that nothing has filled. -/
def SliceRec.reset : SliceRec :=
  { gen := 0, valid := false, ready := false, width32 := false, tag := 0, nbytes := 0, nframes := 0, lmax := 0,
    topoff := 0, exec := 0, refs := 0 }

def sliceAt (g : Grid) (k : Nat) : SliceRec := mgetD g.slices k SliceRec.reset
def modSlice (s : State) (p g k : Nat) (f : SliceRec → SliceRec) : State :=
  modGrid s p g fun x => { x with slices := mset x.slices k (f (sliceAt x k)) }

/-- R282: a handle. -/
def handleOf (k : Nat) (gen : BitVec 20) (launch : Nat) : Word :=
  BitVec.ofNat 64 (k % 4096 + gen.toNat * 2 ^ 12 + launch % 2 ^ 24 * 2 ^ 32 + 2 ^ 63)

/-- R282: the slot of a live handle. -/
def liveSlot (g : Grid) (h : Word) : Option Nat :=
  let n := h.toNat
  let k := n % 4096
  if n.testBit 63 && bits n 62 56 == 0 && bits n 55 32 == g.launch % 2 ^ 24 && k < g.record.nslice
    && (sliceAt g k).valid && (sliceAt g k).gen.toNat == bits n 31 12 then some k else none

/-- R284: the lowest free slot. -/
def freeSlot (g : Grid) : Option Nat :=
  (List.range g.record.nslice).find? fun k => !(sliceAt g k).valid && (sliceAt g k).refs == 0

/-- R287: some slot waits for its grafts to end. -/
def slotDraining (g : Grid) : Bool := g.slices.any fun e => !e.2.valid && e.2.refs != 0

/-- R250, R281: the locations of n bytes from an offset of slot k, or their fault. A pool in the launch arena has no virtual
address to report (DEDUCED, log 115). -/
def poolLocs (s : State) (c : Nat) (t : Strand) (g : Grid) (k off n : Nat) (u : Use) : Except SliceTrap (List Nat) :=
  if g.record.spool = 0 then
    let locs := (List.range n).map fun i => redirect s (g.pool + 65536 * k + off + i)
    if u == .read && locs.any (fun a => s.poison.contains (a / 128)) then .error (cPoison, 0) else .ok locs
  else
    let a := g.record.spool + BitVec.ofNat 64 (65536 * k + off)
    match u with
    | .write => (match writeFault s c t a n false with | .error e => .error (e, a) | .ok l => .ok l)
    | _ => match readFault s c t a n false with
      | .error e => .error (e, a)
      | .ok l => .ok l

/-! ### cut (R284) -/

/-- R284: the walk's result: the mark's address and record, and the lifted frames and marks, top first. -/
structure Walk where
  base   : Word
  resume : Word
  lifted : List StackRec
  deriving DecidableEq, Repr

/-- R284: the walk from fp down to the nearest mark of a tag. -/
def walkStack (s : State) (c : Nat) (t : Strand) (tag : Nat) : Nat → Word → List StackRec → Except SliceTrap Walk
  | 0, _, _ => .error (cSliceFormat, 0)
  | fuel + 1, r, lifted =>
    match recordAt s c t r with
    | .error e => .error e
    | .ok h =>
      if r == fpOf t.sc && r + BitVec.ofNat 64 (16 * h.size) != spOf t.sc then .error (cSliceFormat, 0)
      else if h.kind = 2 && h.tag = tag then .ok { base := r, resume := h.resume, lifted := lifted }
      else if h.prev = 0 then .error (cNoMark, 0)
      else if 0 < h.prev || h.prev % 16 ≠ 0 then .error (cSliceFormat, 0)
      else
        let below := r + BitVec.ofInt 64 h.prev
        if 65472 < (spOf t.sc - (below + 16)).toNat then .error (cSliceLarge, 0)
        else walkStack s c t tag fuel below (lifted ++ [h])

/-- Replaces bytes of an image from an offset on. -/
def patch (img : List Byte) (off : Nat) (l : List Byte) : List Byte :=
  img.take off ++ l ++ img.drop (off + l.length)

/-- R279: the registers of SMASK, in ascending order. -/
def maskRegs (smask : Nat) : List Nat := (List.range 128).filter fun n => smask.testBit n

/-- R284: the scalar part of the top frame, and its lane part, as the strand holds them. -/
def scalarPart (t : Strand) (h : StackRec) : List Byte := (maskRegs h.smask).flatMap fun n => leBytes 8 (sget t.sc n).toNat

def lanesPart (t : Strand) (h : StackRec) : List Byte :=
  (List.range h.lcount).flatMap fun j => (List.range (frameWidth t.compat)).flatMap fun l =>
    leBytes 4 (mgetD t.ln.vregs (64 * (h.lfirst + j) + l) 0).toNat

/-- R38: a lane word of the top frame holds an uncorrectable error. -/
def lanesPoisoned (t : Strand) (h : StackRec) : Bool :=
  (List.range h.lcount).any fun j => (List.range (frameWidth t.compat)).any fun l =>
    let k := 64 * (h.lfirst + j) + l
    t.ln.vpoison.contains k || t.ln.verr.contains k

/-- R284: the image of a slice: the bottom frame's PREV, and the top frame. The record at the image's start counts as the bottom frame,
though it is a mark of another tag (DESIGN CHOICE, log 151). -/
def sliceImage (t : Strand) (h : StackRec) (img : List Byte) (off d : Nat) : List Byte :=
  let img := patch img 4 (leBytes 4 0)
  let w0 := leNat ((img.drop off).take 4)
  let img := patch img off (leBytes 4 (w0 % 8 + 8 + bits w0 15 4 * 16 + d * 2 ^ 16))
  let img := patch img (off + 32) (leBytes 8 (t.sc.spc + 4).toNat)
  let img := patch img (off + 48) (scalarPart t h)
  if h.lcount = 0 then img else patch img (off + lanePart h.smask) (lanesPart t h)

/-- R284: the slice's bytes leave for the pool as held effects of the cleared region with an immediate CLOSE, released at the
region's ec + Q_pkg. -/
def sendSlice (s : State) (c l : Nat) (t : Strand) (k : Nat) (bs : List (Nat × Byte)) : State :=
  let r := t.regions.getLast?
  let serial := (r.map fun r => r.serial).getD t.lastTag.1
  let rel := (r.map fun r => r.ec.getD s.now + r.qpkg).getD t.lastTag.2
  (linesOf (bs.map fun e => e.1)).foldl (fun s n =>
    let id := s.nextId
    let e : Effect := { id := id, part := t.part, grid := t.grid, tag := tagOf s c l serial, region := (r.map fun r => r.id).getD 0, home := homeOf s (128 * n),
                        kind := .write (msets [] (bs.filter fun e => e.1 / 128 == n)), stage := .flight, order := 0, entry := 0,
                        ownClose := some rel, copy := none, slice := some (t.part, t.grid, k), lane := false, store := false, seq := t.sc.seq, place := t.sc.spc }
    modStrand { s with effects := s.effects ++ [e], nextId := id + 1 } c l fun t => { t with effects := t.effects ++ [id] }) s

/-- R284: the checks of a `cut` after its walk, in order; none when it must wait for a slot. -/
def cutChecks (g : Grid) (t : Strand) (w : Walk) : Except SliceTrap (Option (Nat × StackRec)) :=
  let n := (spOf t.sc - (w.base + 16)).toNat
  let f := (w.lifted.filter fun h => h.kind == 1).length
  match w.lifted with
  | [] => .error (cSliceFormat, 0)
  | top :: _ =>
    if n = 0 || t.sc.rdepth.toNat < f || top.kind ≠ 1 then .error (cSliceFormat, 0)
    else if w.lifted.any fun h => 32 * t.vblk < laneEnd h then .error (cSliceFormat, 0)
    else match freeSlot g with
      | some k => .ok (some (k, top))
      | none => if slotDraining g then .ok none else .error (cSlicePool, 0)

/-- R284: the effect of a `cut` whose checks have passed. -/
def cutPerform (s : State) (c l : Nat) (t : Strand) (g : Grid) (w : Walk) (k d : Nat) (top : StackRec)
    (locs : List Nat) (img : List Byte) (tag : BitVec 16) : State :=
  let n := img.length
  let off := (fpOf t.sc - (w.base + 16)).toNat
  let f := (w.lifted.filter fun h => h.kind == 1).length
  let old := sliceAt g k
  let rec' : SliceRec :=
    { old with valid := true, ready := false, width32 := t.compat, tag := tag, nbytes := BitVec.ofNat 16 n,
               nframes := BitVec.ofNat 11 f, lmax := BitVec.ofNat 10 ((w.lifted.map laneEnd).foldl max 0),
               topoff := BitVec.ofNat 16 off, exec := t.sc.exec }
  let s := modSlice s t.part t.grid k fun _ => rec'
  let s := sendSlice s c l t k (locs.zip (sliceImage t top img off d))
  let x := sput t.sc d (handleOf k old.gen t.grid)
  let x := sput (sput (sput x 2 (w.base + 16)) 3 w.base) 1 w.resume
  let x := endTrapLevel { x with rdepth := x.rdepth - BitVec.ofNat 16 f, spc := canonPc w.resume.toNat } false
  finishAtomic s c l { scalars := [1, 2, 3, d] } x

/-- A trap of a slice instruction. -/
def sliceTrap (s : State) (c l : Nat) (e : SliceTrap) : State := scalarFault s c l e.1 e.2

/-- R284. A register of the top frame that is pending is waited for, and one that holds an uncorrectable error traps (R38, R254). -/
def execCut (d : BitVec 7) (g : BitVec 16) (s : State) : Out :=
  if d == 0 then scalarReserved s
  else memRun s [2, 3] d.toNat fun s c l t =>
    if !t.vpend.isEmpty then scalarWait s c l .pending
    else atomicThen s c l t false fun s t =>
      match gridAt s t.part t.grid with
      | none => s
      | some x =>
        if !t.sc.path.isEmpty then scalarTrap s c l cSliceState 0
        else if !aligned16 (spOf t.sc) || !aligned16 (fpOf t.sc) then
          scalarFault s c l cAlign (if aligned16 (spOf t.sc) then fpOf t.sc else spOf t.sc)
        else match walkStack s c t g.toNat 4200 (fpOf t.sc) [] with
          | .error e => sliceTrap (if e.1 = cRecall then touchStack s c t e.2 48 else s) c l e
          | .ok w => match cutChecks x t w with
            | .error e => sliceTrap s c l e
            | .ok none => scalarWait s c l .ready
            | .ok (some (k, top)) =>
              let n := (spOf t.sc - (w.base + 16)).toNat
              match viewBytes s c t (w.base + 16) n, poolLocs s c t x k 64 n .write with
              | .error e, _ => sliceTrap (if e = cRecall then touchStack s c t (w.base + 16) n else s) c l (e, w.base + 16)
              | .ok _, .error e => sliceTrap s c l e
              | .ok img, .ok locs => scalarRegs s c l t (maskRegs top.smask) [] fun s t =>
                if lanesPoisoned t top then scalarTrap s c l 0x06 0
                else cutPerform { s with fresh := s.fresh + 1 } c l t x w k d.toNat top locs img g

/-! ### graft (R285, R286) -/

/-- A `graft` that traps drops its reference. -/
def graftTrap (s : State) (c l : Nat) (e : SliceTrap) : State :=
  match strandAt s c l with
  | none => s
  | some _ => if e.1 = cRecall then sliceTrap s c l e else sliceTrap (endGraft s c l) c l e

/-- R285: the top frame of an image, checked; a frame that reaches past its slice or past the strand's
registers breaks R279 (DEDUCED, log 26). -/
def graftTop (t : Strand) (r : SliceRec) (img : List Byte) : Option StackRec :=
  let off := r.topoff.toNat
  if leNat (img.drop off |>.take 1) % 4 ≠ 1 then none
  else match frameOf t.compat true (leNat ((img.drop off).take 48)) with
    | none => none
    | some h => if img.length < off + 16 * h.size || 32 * t.vblk < laneEnd h then none else some h

/-- R285: the bytes that a `graft` writes to the stack. The record at the image's start counts as the bottom frame, though it is a mark of
another tag, whose RESUME the SAVEDLN replaces (DESIGN CHOICE, log 151). -/
def graftImage (t : Strand) (off : Nat) (img : List Byte) : List Byte :=
  let img := patch img 4 (leBytes 4 (fpOf t.sc - spOf t.sc).toNat)
  let img := patch img 8 (leBytes 8 (t.sc.spc + 4).toNat)
  let w0 := leNat ((img.drop off).take 4)
  let img := patch img off (leBytes 4 (w0 % 8 + bits w0 15 4 * 16 + bits w0 31 23 * 2 ^ 23))
  patch img (off + 32) (leBytes 8 0)

/-- R209: the open region has written lane registers; the old mapping of each is kept. -/
def noteLanes (t : Strand) (region : Nat) (rs : List Nat) : Strand :=
  modRegion t region fun r => { r with lanes := r.lanes ++ rs.filter fun x => !r.lanes.contains x }

/-- R285: the scalar side and lane registers after a `graft`. -/
def graftRegs (t : Strand) (r : SliceRec) (h : StackRec) (img : List Byte) (v : Word) : ScalarSide × LaneSide :=
  let off := r.topoff.toNat
  let b0 := spOf t.sc
  let word (i n : Nat) : Nat := leNat ((img.drop (off + i)).take n)
  let regs := maskRegs h.smask
  let x := (regs.zip (List.range regs.length)).foldl (fun x e => sput x e.1 (BitVec.ofNat 64 (word (48 + 8 * e.2) 8))) t.sc
  let w := frameWidth t.compat
  let ln := (List.range h.lcount).foldl (fun y j => (List.range w).foldl (fun y l =>
    lanePut y (h.lfirst + j) l (BitVec.ofNat 32 (word (lanePart h.smask + 4 * (w * j + l)) 4))) y) t.ln
  let x := { x with exec := execMask t.compat r.exec }
  let x := sput x h.cutd v
  let x := sput (sput x 3 (b0 + BitVec.ofNat 64 off)) 2 (b0 + BitVec.ofNat 64 img.length)
  ({ x with rdepth := x.rdepth + r.nframes.setWidth 16, spc := canonPc h.resume.toNat }, ln)

/-- R285: the read phase's checks: the image, the frame and the stack locations. -/
def graftRead (s : State) (c : Nat) (t : Strand) (g : Grid) (k : Nat) : Except SliceTrap (List Byte × StackRec × List Nat) :=
  let r := sliceAt g k
  let sp := spOf t.sc
  if r.width32 != t.compat || 32 * t.vblk < r.lmax.toNat then .error (cFootprint, 0)
  else if 65535 < t.sc.rdepth.toNat + r.nframes.toNat then .error (0x0A, 0)
  else if !aligned16 sp || !aligned16 (fpOf t.sc) then .error (cAlign, if aligned16 sp then fpOf t.sc else sp)
  else match poolLocs s c t g k 64 r.nbytes.toNat .read with
    | .error e => .error e
    | .ok locs =>
      if homePoisoned s locs then .error (cPoison, if g.record.spool = 0 then 0 else g.record.spool + BitVec.ofNat 64 (65536 * k + 64)) else
      let img := locs.map fun a => if isScratch a then seenByte s c t a else homeByte s a
      match writeFault s c t sp r.nbytes.toNat false with
      | .error e => .error (e, sp)
      | .ok dst => match graftTop t r img with
        | none => .error (cSliceFormat, 0)
        | some h => .ok (img, h, dst)

/-- The locations of the image that a `graft` reads. -/
def graftLocs (s : State) (c : Nat) (t : Strand) (g : Grid) (k : Nat) : List Nat :=
  match poolLocs s c t g k 64 (sliceAt g k).nbytes.toNat .read with
  | .ok locs => locs
  | .error _ => []

/-- R285: the write phase. -/
def graftWrite (s : State) (c l : Nat) (t : Strand) (k : Nat) (r : SliceRec) (img : List Byte) (h : StackRec)
    (dst : List Nat) (v : Word) : State :=
  let s := dropRef { s with fresh := s.fresh + 1 } t.part t.grid k
  let s := issueStore s c l (openId t) 0 true none (dst.zip (graftImage t r.topoff.toNat img)) t.sc.seq t.sc.spc
  match strandAt s c l with
  | none => s
  | some t =>
    let y := graftRegs t r h img v
    let t := (h.cutd :: 2 :: 3 :: maskRegs h.smask).foldl noteScalar t
    let t := noteLanes t (openId t) ((List.range h.lcount).map fun j => h.lfirst + j)
    finish (putStrand s c l { t with ln := y.2, grafting := none }) c l 0 y.1

/-- R209: the lane rename units that the lane part of a frame takes in the open region. -/
def graftLanes (t : Strand) (h : StackRec) : List Nat :=
  ((List.range h.lcount).map fun j => h.lfirst + j).filter fun r => !((openRegion t).any fun x => x.lanes.contains r)

/-- R285. -/
def execGraft (a b : BitVec 7) (s : State) : Out :=
  memRun s [a.toNat, b.toNat, 2, 3] 0 fun s c l t =>
    match gridAt s t.part t.grid with
    | none => s
    | some g =>
      if !t.st.queue.isEmpty || t.st.current.isSome || !t.vpend.isEmpty then scalarWait s c l .pending
      else match (match t.grafting with | some k => some k | none => liveSlot g (sget t.sc a.toNat)) with
        | none => scalarTrap s c l cStale 0
        | some k =>
          let held := t.grafting.isSome
          let s := if held then s else modStrand (modSlice s t.part t.grid k fun r => { r with refs := r.refs + 1 }) c l
            fun t => { t with grafting := some k }
          if !(sliceAt g k).ready then scalarWait s c l .ready
          else match graftRead s c t g k with
            | .error e => graftTrap s c l e
            | .ok (img, h, dst) =>
              if hostOwned s (graftLocs s c t g k) || loadOrder t true dst then scalarWait s c l .pending
              else if (storeNeeds s c t (openId t) dst).isSome then scalarWait s c l (.resource ((storeNeeds s c t (openId t) dst).getD 6))
              else if 4096 < laneUnits s c + (graftLanes t h).length then scalarWait s c l (.resource 0)
              else scalarRegs s c l t [] (h.cutd :: 2 :: 3 :: maskRegs h.smask) fun s t =>
                graftWrite (keepFor (noteReads s t.part (graftLocs s c t g k)) c t (spOf t.sc) (sliceAt g k).nbytes.toNat) c l t k (sliceAt g k) img h dst (sget t.sc b.toNat)

/-! ### sfree and sinfo (R287, R288) -/

/-- R287. -/
def execSfree (a : BitVec 7) (s : State) : Out :=
  memRun s [a.toNat] 0 fun s c l t =>
    atomicThen s c l t false fun s t =>
      match gridAt s t.part t.grid with
      | none => s
      | some g => match liveSlot g (sget t.sc a.toNat) with
        | none => scalarTrap s c l cStale 0
        | some k =>
          if !(sliceAt g k).ready then scalarWait s c l .ready
          else finishAtomic (modSlice s t.part t.grid k fun r => { r with valid := false, gen := r.gen + 1 }) c l {} (nextPc t.sc)

/-- R288: the summary of a handle. -/
def sliceSummary (g : Grid) (h : Word) : Word :=
  match liveSlot g h with
  | none => 0
  | some k =>
    let r := sliceAt g k
    BitVec.ofNat 64 (1 + (if r.ready then 2 else 0) + (if r.width32 then 4 else 0) + r.tag.toNat * 2 ^ 16
      + r.nbytes.toNat * 2 ^ 32 + r.nframes.toNat * 2 ^ 48)

/-- R288. -/
def execSinfo (d a : BitVec 7) (s : State) : Out :=
  scalarRun s [a.toNat] d.toNat fun s c l t =>
    let v := match gridAt s t.part t.grid with
      | some g => sliceSummary g (sget t.sc a.toNat)
      | none => 0
    finish s c l d.toNat (nextPc (sput t.sc d.toNat v))

end Sys2Proof.Machine
end

