-- ==== Sys2Proof/Machine/Operands.lean ====
section
/-! DEFINITION. The operand forms of lane instructions (spec/02 R48 to R52, spec/01 R25 to R29, R35 to R38): what
each field may name, the checks of R62 in their order, and the values of operands. -/

namespace Sys2Proof.Machine

open Sys2Proof

/-! ### Types (R49) -/

/-- The width of an element by TYPE code. -/
def typeWidth (t : Nat) : Nat :=
  match t with
  | 0 | 1 | 8 => 32
  | 6 | 7 => 64
  | 2 | 3 | 9 | 10 => 16
  | 13 => 4
  | _ => 8

/-- A signed integer type. -/
def typeSigned (t : Nat) : Bool := t == 0 || t == 2 || t == 4 || t == 6

/-- The float format of a TYPE code. -/
def typeFloat (t : Nat) : Option FloatFmt :=
  match t with
  | 8 => some fp32 | 9 => some bf16 | 10 => some f16 | 11 => some f8a | 12 => some f8b
  | _ => none

/-- R70, R136: elements of a type in a lane register; 1 for a type of 32 or 64 bits. -/
def typeCount (t : Nat) : Nat := if 32 ≤ typeWidth t then 1 else 32 / typeWidth t

/-! ### Which fields an instruction uses -/

/-- What a destination field may name. -/
inductive DestKind where
  | none | reg | regOrMailbox | mailbox | pred | index
  deriving DecidableEq, Repr

/-- The fields of a lane word that an entry gives a meaning: 0 VA, 1 VB, 2 VC, 3 VD. -/
structure LaneUse where
  /-- Lane operands that are read. -/
  srcs  : List Nat := []
  /-- Fields that hold predicate numbers. -/
  preds : List Nat := []
  dest  : DestKind := .reg
  /-- Sources that take a modifier (R35). -/
  mods  : List Nat := []
  clamp : Bool := false
  scale : Bool := false
  /-- IMM carries a value or flags. -/
  imm   : Bool := false
  /-- Operands that name a pair (R25, R140). -/
  wide  : List Nat := []
  /-- Registers after the named one that are used as well: of VD, of VB. -/
  moreD : Nat := 0
  moreB : Nat := 0
  /-- Sources that may not be indirect. -/
  direct : List Nat := []
  /-- The destination keeps some of its bits, so that it is read too. -/
  keeps : Bool := false
  /-- Sources that are read in other lanes than each active one (R166); their poison is looked at apart. -/
  apart : List Nat := []
  /-- A store, an atomic or a reduction, which a REMAT clause may not hold (R371). -/
  outward : Bool := false
  /-- What else the entry asks of the word or its slot, else the illegal-operand trap. -/
  legal : Bool := true
  deriving DecidableEq, Repr

/-- A field of a word by number. -/
def fieldOf (f : LaneFields) (k : Nat) : Nat :=
  match k with | 0 => f.va.toNat | 1 => f.vb.toNat | 2 => f.vc.toNat | _ => f.vd.toNat

/-- The modifier of a source. -/
def modOf (f : LaneFields) (k : Nat) : Nat :=
  match k with | 0 => f.moda.toNat | 1 => f.modb.toNat | 2 => f.modc.toNat | _ => 0

/-- R50: an indirect operand. -/
def indirect (x : Nat) : Bool := 772 ≤ x && x < 776
def mailboxOperand (x : Nat) : Bool := 776 ≤ x && x < 784

/-- R28: the index offset. -/
def indexOffset (f : LaneFields) : Nat := f.imm.toNat % 256

/-- A lane instruction that runs: its strand and clause and its active lanes. -/
structure LaneCtx where
  core : Nat
  slot : Nat
  t    : Strand
  run  : Running
  mask : Nat
  deriving DecidableEq, Repr

/-- The region that the instruction belongs to (R119). -/
def LaneCtx.region (x : LaneCtx) : Nat := x.run.entry.region

/-- The active lanes, in ascending order. -/
def LaneCtx.lanes (x : LaneCtx) : List Nat := lanesOf x.mask

/-- R27: a legal predicate field. -/
def predLegal (f : LaneFields) : Bool := f.pred.toNat ≤ 23 || f.pred.toNat == 31

/-- R13, R27: the active lanes of an instruction. -/
def activeLanes (t : Strand) (r : Running) (f : LaneFields) : Nat :=
  let p := predMask t.ln f.pred.toNat
  let m := if f.pred.toNat = 31 then r.entry.exec else if f.pneg = 1 then r.entry.exec &&& ~~~p else r.entry.exec &&& p
  m.toNat

/-- R28: the register that an operand names in a lane. -/
def regIn (t : Strand) (f : LaneFields) (x l : Nat) : Nat :=
  if x < 768 then x else (mgetD t.ln.ibase (64 * (x - 772) + l) 0).toNat + indexOffset f

/-- The registers after the first that an operand takes. -/
def moreRegs (u : LaneUse) (k : Nat) : Nat :=
  (if u.wide.contains k then 1 else 0) + (if k = 3 then u.moreD else if k = 1 then u.moreB else 0)

/-- R50, R52, R55: one field holds what its entry allows. -/
def fieldLegal (u : LaneUse) (h : Header) (f : LaneFields) (k : Nat) : Bool :=
  let x := fieldOf f k
  let own := mailboxOperand x && h.mbox.getLsbD (x - 776)
  if u.preds.contains k then x ≤ 23
  else if k = 3 then
    match u.dest with
    | .none => x == 0
    | .reg => x < 768 || indirect x
    | .regOrMailbox => x < 768 || indirect x || own
    | .mailbox => own
    | .pred => x ≤ 23
    | .index => indirect x
  else if u.srcs.contains k then
    (x < 776 || (784 ≤ x && x < 862)) && !(u.direct.contains k && indirect x)
  else x == 0

/-- R19, R25: a pair names an even register, or k0 or k2. -/
def pairLegal (u : LaneUse) (f : LaneFields) (k : Nat) : Bool :=
  let x := fieldOf f k
  !u.wide.contains k || !((x < 768 && x % 2 == 1) || x == 769 || x == 771)

/-- The fields that hold lane operands. -/
def operandFields (u : LaneUse) : List Nat :=
  u.srcs ++ (if u.dest == .reg || u.dest == .regOrMailbox then [3] else [])

/-- The index registers that an instruction names (R28). -/
def indexNames (u : LaneUse) (f : LaneFields) : List Nat :=
  (((operandFields u).map (fieldOf f)).filter indirect).eraseDups

/-- R28, R52, R175: the index registers and IMM agree. The index register that `vixs` sets counts among those that the
instruction names (DEDUCED, log 111). -/
def immLegal (u : LaneUse) (f : LaneFields) : Bool :=
  match indexNames u f with
  | [] => u.imm || f.imm == 0
  | [n] => !u.imm && f.imm.toNat < 256 && (u.dest != .index || f.vd.toNat == n)
  | _ => false

/-- R62 step 3, as far as the word alone and the clause header decide it. -/
def operandsLegal (u : LaneUse) (h : Header) (f : LaneFields) : Bool :=
  predLegal f && u.legal && ([0, 1, 2, 3].all fun k => fieldLegal u h f k && pairLegal u f k) && immLegal u f

/-- R140: the active lanes whose indirect pair begins at an odd register. -/
def oddLanes (u : LaneUse) (x : LaneCtx) (f : LaneFields) : List Nat :=
  x.lanes.filter fun l => u.wide.any fun k =>
    (operandFields u).contains k && indirect (fieldOf f k) && regIn x.t f (fieldOf f k) l % 2 == 1

/-- R62 step 4: modifiers, clamp and scale that the entry allows. -/
def modifiersLegal (u : LaneUse) (f : LaneFields) : Bool :=
  ([0, 1, 2].all fun k => modOf f k == 0 || u.mods.contains k)
    && f.clamp != 3 && (f.clamp == 0 || u.clamp) && (f.scale == 0 || u.scale)

/-- R26: a direct operand at or beyond the allocation (DEDUCED, log 79). -/
def directOut (u : LaneUse) (t : Strand) (f : LaneFields) : Bool :=
  (operandFields u).any fun k => fieldOf f k < 768 && 32 * t.vblk ≤ fieldOf f k + moreRegs u k

/-- R28: the active lanes whose indirect operand leaves its window or the allocation. -/
def indirectOut (u : LaneUse) (x : LaneCtx) (f : LaneFields) : List Nat :=
  x.lanes.filter fun l => (operandFields u).any fun k =>
    let v := fieldOf f k
    indirect v && ((mgetD x.t.ln.ilen (64 * (v - 772) + l) 0).toNat ≤ indexOffset f + moreRegs u k
      || 32 * x.t.vblk ≤ regIn x.t f v l + moreRegs u k)

/-- The registers that an operand takes in a lane. -/
def regsOf (u : LaneUse) (t : Strand) (f : LaneFields) (k l : Nat) : List Nat :=
  let x := fieldOf f k
  if x < 768 || indirect x then (List.range (1 + moreRegs u k)).map fun i => regIn t f x l + i else []

/-- R18: an active lane reads or writes a register whose earlier write has not landed. A direct operand is
waited for whatever lanes are active. -/
def operandPending (u : LaneUse) (x : LaneCtx) (f : LaneFields) : Bool :=
  (operandFields u).any fun k =>
    if fieldOf f k < 768 then (regsOf u x.t f k 0).any fun r => x.t.vpend.any fun e => e.1 == r
    else x.lanes.any fun l => (regsOf u x.t f k l).any fun r => x.t.vpend.any fun e => e.1 == r

/-- A word of a lane register is poisoned, or holds an uncorrectable error that no read has found yet (R38). -/
def poisonAt (t : Strand) (r l : Nat) : Bool := t.ln.vpoison.contains (64 * r + l) || t.ln.verr.contains (64 * r + l)

/-- R38: the active lanes that read a poisoned word. -/
def poisonLanes (u : LaneUse) (x : LaneCtx) (f : LaneFields) : List Nat :=
  let ks := (u.srcs.filter fun k => !u.apart.contains k) ++ (if u.keeps then [3] else [])
  x.lanes.filter fun l => ks.any fun k => (regsOf u x.t f k l).any fun r => poisonAt x.t r l

/-- R38: the words with an unfound error that the operands in the fields `ks` hold in inactive lanes, by key. -/
def idleErrors (u : LaneUse) (ks : List Nat) (x : LaneCtx) (f : LaneFields) : List Nat :=
  if x.t.ln.verr.isEmpty then []
  else
    let idle := (List.range (if x.t.compat then 32 else 64)).filter fun l => !x.lanes.contains l
    x.t.ln.verr.filter fun e => idle.any fun l => ks.any fun k => (regsOf u x.t f k l).any fun r => e == 64 * r + l

/-- The fields that are read in each lane for itself. -/
def ownFields (u : LaneUse) : List Nat := (u.srcs.filter fun k => !u.apart.contains k) ++ (if u.keeps then [3] else [])

/-- R38: the words with an unfound error that belong to inactive lanes alone. -/
def unconsumed (u : LaneUse) (x : LaneCtx) (f : LaneFields) : List Nat := idleErrors u (ownFields u) x f

/-- R38: the poison bit of a found word is set. -/
def markFound (key : Nat) (x : LaneSide) : LaneSide :=
  { x with vpoison := key :: x.vpoison, verr := x.verr.filter fun k => k != key }

/-- R38: what befalls a physical lane word befalls it in the checkpoint of every head that still shares it (R209). -/
def markWord (m : LaneSide → LaneSide) (reg : Nat) (t : Strand) : Strand :=
  let rs := t.regions.foldr (fun r acc =>
    if acc.2 && !r.lanes.contains reg then (({ r with laneHead := r.laneHead.map m } : Region) :: acc.1, true) else (r :: acc.1, false)) ([], true)
  { t with ln := m t.ln, regions := rs.1 }

/-- R38: each such error is recorded by the core, and its word becomes poisoned. -/
def noteUnconsumed (s : State) (x : LaneCtx) (keys : List Nat) : State × LaneCtx :=
  let t := keys.foldl (fun t e => markWord (markFound e) (e / 64) t) x.t
  let s := putStrand s x.core x.slot t
  (keys.foldl (fun s _ => raiseError s 0x04 1 (errSource 0 x.core) none x.slot) s, { x with t := t })

/-- R38, R166: the same for sources that are read in other lanes, once none of the words read there has an error. -/
def noteApart (u : LaneUse) (f : LaneFields) (s : State) (x : LaneCtx) (k : State → LaneCtx → State) : State :=
  if (idleErrors u u.apart x f).isEmpty then k s x
  else let n := noteUnconsumed s x (idleErrors u u.apart x f); k n.1 n.2

/-- R209: the lane registers that the instruction writes first after the head. -/
def newLanes (u : LaneUse) (x : LaneCtx) (f : LaneFields) : List Nat :=
  if u.dest == .reg || u.dest == .regOrMailbox then
    let rs := (x.lanes.flatMap (regsOf u x.t f 3)).eraseDups
    match regionAt x.t x.region with
    | some r => rs.filter fun v => !r.lanes.contains v
    | none => []
  else []

/-- The lane side waits; its instruction is tried again. -/
def laneWait (s : State) (c l : Nat) (w : Wait) : State := modStrand s c l fun t => { t with lwait := w }

/-- The strand whose clause is issuing. -/
def withLane (s : State) (k : Nat → Nat → Strand → Running → State) : Out :=
  match s.agent with
  | .lane c l =>
    match strandAt s c l with
    | none => .fault .noAgent
    | some t => match t.st.current with
      | none => .fault .noAgent
      | some r => .next (k c l t r)
  | _ => .fault .noAgent

/-- R80: the slot record of an instruction. -/
def laneSlot (s : State) (t : Strand) (f : LaneFields) : BitVec 128 :=
  ((recordOf s t.part t.grid).map fun r => r.slots.getD f.slot.toNat 0).getD 0

/-- R371: what a REMAT clause may not hold: a store, atomic, reduction or mailbox destination. -/
def rematForbids (u : LaneUse) (x : LaneCtx) (f : LaneFields) : Bool :=
  x.run.entry.remat && (u.outward
    || ((u.dest == .mailbox || u.dest == .regOrMailbox) && mailboxOperand f.vd.toNat))

/-- R62 steps 3 to 6: the code and lanes of the first check that fails. -/
def laneChecks (u : LaneUse) (x : LaneCtx) (f : LaneFields) : Option (Nat × Nat) :=
  if !operandsLegal u x.run.header f || rematForbids u x f then some (0x03, x.mask)
  else if !(oddLanes u x f).isEmpty then some (0x03, (maskOf (oddLanes u x f)).toNat)
  else if !modifiersLegal u f then some (0x04, x.mask)
  else if directOut u x.t f then some (0x05, x.mask)
  else if !(indirectOut u x f).isEmpty then some (0x05, (maskOf (indirectOut u x f)).toNat)
  else none

/-- What comes before every lane instruction: the checks of R62 in order, then the waits for pending
registers (R18), a free rename unit (R209) and the register-ECC check; then errors that only inactive lanes
read are recorded (R38), and `k` acts. What the fields may hold can depend on the instruction's slot. -/
def laneRunBy (use : BitVec 128 → LaneUse) (f : LaneFields) (s : State) (k : State → LaneCtx → State) : Out :=
  withLane s fun c l t r =>
    let u := use (laneSlot s t f)
    let x : LaneCtx := { core := c, slot := l, t := t, run := r, mask := if predLegal f then activeLanes t r f else r.entry.exec.toNat }
    match laneReject f with
    | some e => laneTrap s c l 0x02 e.cause.toNat (BitVec.ofNat 64 x.mask) 0
    | none => match laneChecks u x f with
      | some (code, lanes) => laneTrap s c l code 0 (BitVec.ofNat 64 lanes) 0
      | none =>
        if operandPending u x f then laneWait s c l .pending
        else if 4096 < laneUnits s c + (newLanes u x f).length then laneWait s c l (.resource 0)
        else if !(poisonLanes u x f).isEmpty then laneTrap s c l 0x06 0 (maskOf (poisonLanes u x f)) 0
        else if (unconsumed u x f).isEmpty then k s x
        else let n := noteUnconsumed s x (unconsumed u x f); k n.1 n.2

/-- The same, for fields that do not depend on the slot. -/
def laneRun (u : LaneUse) (f : LaneFields) (s : State) (k : State → LaneCtx → State) : Out := laneRunBy (fun _ => u) f s k

/-! ### Operand values (R35, R51, R136) -/

/-- R51: the FP32 patterns of the float constants 848 to 861. -/
def floatConsts : List Nat :=
  [0x3F000000, 0x3F800000, 0x40000000, 0x40800000, 0x3E800000, 0x3E22F983, 0x3F317218, 0x3FB8AA3B,
   0x40490FDB, 0x7F800000, 0x7F7FFFFF, 0x00800000, 0x7FC00000, 0x80000000]

/-- R51: an inline constant in a type, as one element. -/
def constElem (ty x : Nat) : Nat :=
  let pat := floatConsts.getD (x - 848) 0
  match typeFloat ty with
  | some fmt =>
    if ty = 8 && 848 ≤ x then pat
    else (fmt.encode false (x != 857) (if x < 848 then Num.ofInt ((x - 784 : Nat) : Int) else fp32.decode pat)).1
  | none => (if x < 848 then x - 784 else pat) % 2 ^ typeWidth ty

/-- R136: an element in every element position. -/
def replicateElem (ty e : Nat) : Nat :=
  (List.range (typeCount ty)).foldl (fun a j => a + e * 2 ^ (typeWidth ty * j)) 0

/-- R35: a source modifier on one element. -/
def modifyElem (ty m e : Nat) : Nat :=
  let w := typeWidth ty
  if m = 0 then e
  else match typeFloat ty with
    | some _ =>
      let low := e % 2 ^ (w - 1)
      let sign := e / 2 ^ (w - 1) % 2
      low + 2 ^ (w - 1) * (if m = 1 then 1 - sign else if m = 2 then 0 else 1)
    | none =>
      let v := sgn w e
      let v := if m / 2 = 1 then (v.natAbs : Int) else v
      wrapNat w (if m % 2 = 1 then -v else v)

/-- Element j of a value. -/
def elemOf (ty v j : Nat) : Nat := v / 2 ^ (typeWidth ty * j) % 2 ^ typeWidth ty

/-- A value from its elements. -/
def packElems (ty : Nat) (l : List Nat) : Nat :=
  ((List.range l.length).zip l).foldl (fun a e => a + e.2 % 2 ^ typeWidth ty * 2 ^ (typeWidth ty * e.1)) 0

/-- A lane register word, or pair, as a number. -/
def laneValue (t : Strand) (r l : Nat) (wide : Bool) : Nat :=
  (mgetD t.ln.vregs (64 * r + l) 0).toNat
    + (if wide then (mgetD t.ln.vregs (64 * (r + 1) + l) 0).toNat * 2 ^ 32 else 0)

/-- R19: a captured constant. -/
def constValue (r : Running) (n : Nat) (wide : Bool) : Nat :=
  (mgetD r.entry.ks n 0).toNat + (if wide then (mgetD r.entry.ks (n + 1) 0).toNat * 2 ^ 32 else 0)

/-- The value of a source in a lane before modifiers. -/
def rawOperand (x : LaneCtx) (f : LaneFields) (k ty l : Nat) : Nat :=
  let v := fieldOf f k
  let wide := typeWidth ty == 64
  if 784 ≤ v then replicateElem ty (constElem ty v)
  else if 768 ≤ v && v < 772 then constValue x.run (v - 768) wide
  else laneValue x.t (regIn x.t f v l) l wide

/-- R68 `opa`, `opb`, `opc`: the value of source k in lane l, modifiers applied to each element. -/
def operand (x : LaneCtx) (f : LaneFields) (k ty l : Nat) : Nat :=
  let v := rawOperand x f k ty l
  if modOf f k = 0 then v
  else packElems ty ((List.range (typeCount ty)).map fun j => modifyElem ty (modOf f k) (elemOf ty v j))

/-! ### Results -/

/-- Changes the scalar side, and the checkpoints of the heads newer than a region: what a clause of an older
region does to it, a squash of the newer regions alone does not undo (DEDUCED, log 94). -/
def throughHeads (t : Strand) (region : Nat) (g : ScalarSide → ScalarSide) : Strand :=
  { t with sc := g t.sc, regions := t.regions.map fun r => if region < r.id then { r with head := g r.head } else r }

/-- R371: after the REMAT clause the results of the atomic at whose implicit head the strand resumes are written again; a load
of the clause that lands later leaves them. -/
def writeResults (t : Strand) : Strand :=
  match openRegion t with
  | none => t
  | some r =>
    let old := r.laneHead.getD t.ln
    let ln : LaneSide := { t.ln with vregs := msets t.ln.vregs (r.results.lanes.map fun k => (k, mgetD old.vregs k 0)),
                                     preds := msets t.ln.preds (r.results.preds.map fun n => (n, mgetD old.preds n 0)),
                                     vpoison := t.ln.vpoison.filter fun k => !r.results.lanes.contains k }
    let result (d : Dest) (n : Nat) : Bool := r.results.lanes.contains (64 * (d.reg + n) + d.lane)
    let left (d : Dest) : List Dest :=
      if !d.pair then if result d 0 then [] else [d]
      else if result d 0 && result d 1 then []
      else if result d 0 then [{ d with reg := d.reg + 1, locs := d.locs.drop 4, pair := false }]
      else if result d 1 then [{ d with locs := d.locs.take 4, pair := false }]
      else [d]
    { t with ln := ln, ops := t.ops.map fun o => if o.region == r.id then { o with dests := o.dests.flatMap left } else o }

/-- R14: the lane stream after the instruction that issues: its clause goes on, or has ended. -/
def stepLane (t : Strand) : Strand :=
  { t with lwait := .none, lphase := .idle,
           st := { t.st with current := t.st.current.bind fun r =>
             if r.header.len.toNat + 1 ≤ r.index then none else some { r with index := r.index + 1 } } }

/-- R14, R119, R373: the instruction has issued: its clause goes on, or has ended and its region may close. -/
def laneDone (s : State) (x : LaneCtx) (fmas : Nat) : State :=
  let s := modStrand s x.core x.slot stepLane
  let region := if x.run.entry.remat then 0 else x.region
  let s := bump (bump s x.core x.slot region 1 1) x.core x.slot region 2 (popCount 64 x.mask)
  settle (bump s x.core x.slot region 3 fmas) x.core x.slot

/-- R136: writes results to the destination registers of the lanes listed. -/
def writeLanes (x : LaneCtx) (f : LaneFields) (wide : Bool) (vals : List (Nat × Nat)) (t : Strand) : Strand :=
  let ln := vals.foldl (fun y e =>
    let r := regIn x.t f f.vd.toNat e.1
    let y := lanePut y r e.1 (BitVec.ofNat 32 e.2)
    if wide then lanePut y (r + 1) e.1 (BitVec.ofNat 32 (e.2 / 2 ^ 32)) else y) t.ln
  let regs := (vals.flatMap fun e => let r := regIn x.t f f.vd.toNat e.1; if wide then [r, r + 1] else [r]).eraseDups
  noteLanes { t with ln := ln } x.region regs

/-- R32, R92: raises the sticky bit of a format, and TRAPPEND when the slot is armed. -/
def raiseSticky (fmt : Nat) (arm : Bool) (x : ScalarSide) : ScalarSide :=
  { x with sticky := x.sticky ||| ((1 : BitVec 7) <<< fmt), trapPend := x.trapPend || arm }

/-- A lane instruction that writes a value to each active lane: the value and whether it saturates in the
format `fmt`. -/
def laneResultIn (fmt : Nat) (s : State) (x : LaneCtx) (f : LaneFields) (wide : Bool) (fmas : Nat)
    (v : Nat → Nat × Bool) : State :=
  let vals := x.lanes.map fun l => (l, v l)
  let s := modStrand s x.core x.slot fun t =>
    let t := writeLanes x f wide (vals.map fun e => (e.1, e.2.1)) t
    if vals.any fun e => e.2.2 then throughHeads t x.region (raiseSticky fmt (slotArm (laneSlot s x.t f))) else t
  laneDone s x fmas

/-- The same, for saturation in the slot's own format. -/
def laneResult (s : State) (x : LaneCtx) (f : LaneFields) (wide : Bool) (fmas : Nat) (v : Nat → Nat × Bool) : State :=
  laneResultIn (slotFmt (laneSlot s x.t f)) s x f wide fmas v

/-- R27: writes predicate d in active lanes; a write to p0 is discarded. -/
def predResult (s : State) (x : LaneCtx) (d : Nat) (v : Nat → Bool) : State :=
  let set : Word := maskOf (x.lanes.filter v)
  let s := modStrand s x.core x.slot fun t =>
    if d = 0 then t
    else { t with ln := { t.ln with preds := mset t.ln.preds d ((predMask t.ln d &&& ~~~(BitVec.ofNat 64 x.mask)) ||| set) } }
  laneDone s x 0

/-- R21, R109, R173: writes a mailbox once; it waits while the mailbox is full, and is discarded after `exit`. -/
def mailboxResult (s : State) (x : LaneCtx) (f : LaneFields) (v : Nat) : State :=
  let n := f.vd.toNat - 776
  if x.t.exited then laneDone s x 0
  else if mailFull x.t.sc n then laneWait s x.core x.slot .mailboxFull
  else
    let g (y : ScalarSide) : ScalarSide := if mailFull y n then y else mailPut y n (BitVec.ofNat 64 v)
    laneDone (modStrand s x.core x.slot fun t => throughHeads t x.region g) x 0

end Sys2Proof.Machine
end

