-- ==== Sys2Proof/Machine/Flags.lean ====
section
/-! DEFINITION. Clamps and saturation with their sticky flags (spec/01 R32, R36, spec/05 R139, spec/03 R90 to
R92). The flag of an answer says that the value saturated to a slot's format. -/

namespace Sys2Proof.Machine

open Sys2Proof

/-- R139, R144: an exact integer result as an element of w bits. -/
def finishInt (f : LaneFields) (slot : BitVec 128) (signed : Bool) (w : Nat) (x : Int) : Nat × Bool :=
  let lo : Int := if signed then -(2 ^ (w - 1) : Nat) else 0
  let hi : Int := if signed then (2 ^ (w - 1) : Nat) - 1 else (2 ^ w : Nat) - 1
  if f.clamp = 1 then (wrapNat w (max 0 (min 1 x)), false)
  else if f.clamp = 2 then
    if slotFmt slot = 5 then (wrapNat w (max (-128) (min 127 x)), x < -128 || 127 < x)
    else (wrapNat w (max lo (min hi x)), false)
  else (wrapNat w x, false)

/-- R36 clamp 01: [0, 1]; NaN and −0 become +0. -/
def clampUnit (fmt : FloatFmt) (p : Nat) : Nat :=
  let one := fmt.bias * 2 ^ fmt.m
  let v := fmt.decode p
  if v.isNan || v.isZero || v.sign then 0
  else if Num.lt (Num.ofInt 1) v then one else p

/-- R36 clamp 10, R90: saturation to the slot's format. A limit that the result type cannot hold is rounded into
it with the slot's rounding, within its finite range (DEDUCED, log 28). -/
def clampSlot (fmt : FloatFmt) (slot : BitVec 128) (p : Nat) : Nat × Bool :=
  let v := fmt.decode p
  let lim := slotMax slot v.sign
  let past := if v.sign then Num.lt v lim else Num.lt lim v
  if v.isNan || !past then (p, false)
  else
    let q := match lim with
      | .fin _ n d => min (fmt.round (slotRz slot) n d) fmt.top
      | _ => fmt.top
    (fmt.pack v.sign q, true)

/-- R36: the clamp of a rounded float result. -/
def finishFloat (f : LaneFields) (slot : BitVec 128) (fmt : FloatFmt) (p : Nat) : Nat × Bool :=
  if f.clamp = 1 then (clampUnit fmt p, false)
  else if f.clamp = 2 then clampSlot fmt slot p
  else (p, false)

/-- R36: the exponent that SCALE adds. -/
def scaleExp (f : LaneFields) : Int := sgn 3 f.scale.toNat

/-- R36, R150: an exact result scaled, rounded once and clamped. -/
def roundFloat (f : LaneFields) (slot : BitVec 128) (fmt : FloatFmt) (rz : Bool) (v : Num) : Nat × Bool :=
  finishFloat f slot fmt (fmt.result rz (Num.scale v (scaleExp f)))

/-- A result made element by element, with one flag for all. -/
def mapElems (ty : Nat) (g : Nat → Nat × Bool) : Nat × Bool :=
  let l := (List.range (typeCount ty)).map g
  (packElems ty (l.map fun e => e.1), l.any fun e => e.2)

end Sys2Proof.Machine
end

