-- ==== Sys2Proof/Machine/LaneInt.lean ====
section
/-! DEFINITION. Lane integer, bit-field and select instructions (spec/05 R143 to R148). -/

namespace Sys2Proof.Machine

open Sys2Proof

/-- The type of a lane word. -/
def tyOf (f : LaneFields) : Nat := f.type.toNat

/-- The fields of an instruction that names pairs when its type is 64 bits wide. -/
def pairFields (f : LaneFields) (ks : List Nat) : List Nat := if typeWidth (tyOf f) = 64 then ks else []

/-- An element read as an integer of its type. -/
def asInt (ty v j : Nat) : Int :=
  let e := elemOf ty v j
  if typeSigned ty then sgn (typeWidth ty) e else (e : Int)

/-- R143, R144: the arithmetic rows: an exact function of the sources' elements, limited or wrapped. -/
def intOp (f : LaneFields) (s : State) (n : Nat) (clamp : Bool) (g : Int → Int → Int → Int) : Out :=
  let ty := tyOf f
  let ks := List.range n
  let u : LaneUse := { srcs := ks, mods := if typeSigned ty then ks else [], clamp := clamp, wide := pairFields f (3 :: ks) }
  laneRun u f s fun s x =>
    laneResult s x f (typeWidth ty == 64) 0 fun l =>
      let v (k : Nat) : Nat := if k < n then operand x f k ty l else 0
      mapElems ty fun j => finishInt f (laneSlot s x.t f) (typeSigned ty) (typeWidth ty)
        (g (asInt ty (v 0) j) (asInt ty (v 1) j) (asInt ty (v 2) j))

def execVadd (f : LaneFields) (s : State) : Out := intOp f s 2 true fun a b _ => a + b
def execVsub (f : LaneFields) (s : State) : Out := intOp f s 2 true fun a b _ => a - b
def execVmul (f : LaneFields) (s : State) : Out := intOp f s 2 true fun a b _ => a * b
/-- R144: bits [63:32] of the exact product. -/
def execVmulHi (f : LaneFields) (s : State) : Out := intOp f s 2 false fun a b _ => a * b / 2 ^ 32
def execVmad (f : LaneFields) (s : State) : Out := intOp f s 3 true fun a b c => a * b + c
def execVmin (f : LaneFields) (s : State) : Out := intOp f s 2 true fun a b _ => min a b
def execVmax (f : LaneFields) (s : State) : Out := intOp f s 2 true fun a b _ => max a b

/-- R143, R145, R148: the rows without modifiers: a function of the width and the sources' bits. -/
def bitOp (f : LaneFields) (s : State) (n : Nat) (g : Nat → Nat → Nat → Nat) : Out :=
  let ty := tyOf f
  let w := typeWidth ty
  let ks := List.range n
  laneRun { srcs := ks, wide := pairFields f (3 :: ks) } f s fun s x =>
    laneResult s x f (w == 64) 0 fun l =>
      (g w (operand x f 0 ty l) (if 1 < n then operand x f 1 ty l else 0) % 2 ^ w, false)

def execVand (f : LaneFields) (s : State) : Out := bitOp f s 2 fun _ a b => a &&& b
def execVor (f : LaneFields) (s : State) : Out := bitOp f s 2 fun _ a b => a ||| b
def execVxor (f : LaneFields) (s : State) : Out := bitOp f s 2 fun _ a b => a ^^^ b
def execVnot (f : LaneFields) (s : State) : Out := bitOp f s 1 fun w a _ => 2 ^ w - 1 - a
/-- R145: the count is opb modulo the width. -/
def execVshl (f : LaneFields) (s : State) : Out := bitOp f s 2 fun w a b => a * 2 ^ (b % w)
def execVshr (f : LaneFields) (s : State) : Out := bitOp f s 2 fun w a b => a / 2 ^ (b % w)
def execVsra (f : LaneFields) (s : State) : Out := bitOp f s 2 fun w a b => wrapNat w (sgn w a / (2 ^ (b % w) : Nat))
def execVpopc (f : LaneFields) (s : State) : Out := bitOp f s 1 fun w a _ => popCount w a
def execVclz (f : LaneFields) (s : State) : Out := bitOp f s 1 fun w a _ => clz w a
def execVbrev (f : LaneFields) (s : State) : Out := bitOp f s 1 fun w a _ => bitRev w a

/-- R146: the start and width of a field descriptor. -/
def fieldStart (b : Nat) : Nat := b % 32
def fieldWidth (b : Nat) : Nat := min (bits b 13 8) 32

/-- R146. -/
def execVbfe (f : LaneFields) (s : State) : Out :=
  bitOp f s 2 fun _ a b =>
    let n := fieldWidth b
    let v := a / 2 ^ fieldStart b % 2 ^ n
    if tyOf f = 0 && n ≠ 0 then wrapNat 32 (sgn n v) else v

/-- R146: bits that would lie above bit 31 are dropped. -/
def bitInsert (a b c : Nat) : Nat :=
  let m := (2 ^ fieldWidth b - 1) * 2 ^ fieldStart b % 2 ^ 32
  (c &&& (2 ^ 32 - 1 - m)) + ((a * 2 ^ fieldStart b) &&& m)

/-- R146. -/
def execVbfi (f : LaneFields) (s : State) : Out :=
  laneRun { srcs := [0, 1, 2] } f s fun s x =>
    laneResult s x f false 0 fun l => (bitInsert (operand x f 0 1 l) (operand x f 1 1 l) (operand x f 2 1 l), false)

/-- R147: the condition predicate stands in FUNC; 24 to 31 take the illegal-operand trap. -/
def execVsel (f : LaneFields) (s : State) : Out :=
  let ty := tyOf f
  let q := f.func.toNat
  laneRun { srcs := [0, 1], wide := pairFields f [3, 0, 1], legal := q ≤ 23 } f s fun s x =>
    laneResult s x f (typeWidth ty == 64) 0 fun l =>
      (if (predMask x.t.ln q).getLsbD l then operand x f 0 ty l else operand x f 1 ty l, false)

/-- R143: a copy; `.f32` follows R35 and R36 as a float result, and without SCALE its bits pass unchanged. -/
def execVmov (f : LaneFields) (s : State) : Out :=
  let ty := tyOf f
  let fl := ty == 8
  let u : LaneUse := { srcs := [0], mods := if typeSigned ty || fl then [0] else [], clamp := true, scale := fl,
                       wide := pairFields f [3, 0] }
  laneRun u f s fun s x =>
    let slot := laneSlot s x.t f
    laneResult s x f (typeWidth ty == 64) 0 fun l =>
      let v := operand x f 0 ty l
      if fl then
        finishFloat f slot fp32 (if f.scale = 0 then v else fp32.result false (Num.scale (fp32.decode v) (scaleExp f)))
      else finishInt f slot (typeSigned ty) (typeWidth ty) (asInt ty v 0)

/-- R147: IMM carries a value. -/
def execVli (f : LaneFields) (s : State) : Out :=
  laneRun { imm := true } f s fun s x =>
    laneResult s x f false 0 fun _ => (if tyOf f = 0 then wrapNat 32 (sgn 16 f.imm.toNat) else f.imm.toNat, false)

/-- R147: bits [31:16]; bits [15:0] stay. -/
def execVliHi (f : LaneFields) (s : State) : Out :=
  laneRun { imm := true, keeps := true } f s fun s x =>
    laneResult s x f false 0 fun l => (f.imm.toNat * 2 ^ 16 + laneValue x.t f.vd.toNat l false % 2 ^ 16, false)

end Sys2Proof.Machine
end

