-- ==== Sys2Proof/Machine/LaneFloat.lean ====
section
/-! DEFINITION. Lane float arithmetic and dot products (spec/05 R149 to R154, R159, R160). -/

namespace Sys2Proof.Machine

open Sys2Proof

/-- The float format of a word's type. -/
def fmtOf (f : LaneFields) : FloatFmt := (typeFloat (tyOf f)).getD fp32

/-- What the float rows share (R149): modifiers, SCALE and CLAMP on n sources, element by element. -/
def floatRun (f : LaneFields) (s : State) (n fmas : Nat) (g : BitVec 128 → (Nat → Nat) → Nat × Bool) : Out :=
  let ks := List.range n
  let ty := tyOf f
  laneRun { srcs := ks, mods := ks, clamp := true, scale := true } f s fun s x =>
    laneResult s x f false (fmas * popCount 64 x.mask) fun l =>
      mapElems ty fun j => g (laneSlot s x.t f) fun k => elemOf ty (operand x f k ty l) j

/-- R150: a row that is the correctly rounded value of an exact function. -/
def floatOp (f : LaneFields) (s : State) (n fmas : Nat) (rz : Bool) (g : (Nat → Num) → Num) : Out :=
  floatRun f s n fmas fun slot e => roundFloat f slot (fmtOf f) rz (g fun k => (fmtOf f).decode (e k))

/-- R149: FUNC 0x01 is `.rz`. -/
def isRz (f : LaneFields) : Bool := f.func == 1

def execVfadd (f : LaneFields) (s : State) : Out := floatOp f s 2 0 (isRz f) fun v => Num.add (v 0) (v 1)
def execVfsub (f : LaneFields) (s : State) : Out := floatOp f s 2 0 (isRz f) fun v => Num.add (v 0) (v 1).neg
def execVfmul (f : LaneFields) (s : State) : Out := floatOp f s 2 0 (isRz f) fun v => Num.mul (v 0) (v 1)
/-- R149, R373: one rounding; counts FP32 FMAs. -/
def execVffma (f : LaneFields) (s : State) : Out :=
  floatOp f s 3 (if tyOf f = 8 then 1 else 0) (isRz f) fun v => Num.add (Num.mul (v 0) (v 1)) (v 2)

/-- R151: −0 counts as less than +0. -/
def numBelow (a b : Num) : Bool := Num.lt a b || (Num.eq a b && a.isZero && a.sign && !b.sign)

/-- R151: the smaller or larger source; a NaN yields to the other source. -/
def minMax (larger : Bool) (a b : Num) : Num :=
  if a.isNan then b else if b.isNan then a
  else if larger then (if numBelow a b then b else a) else (if numBelow b a then b else a)

def execVfmin (f : LaneFields) (s : State) : Out := floatOp f s 2 0 false fun v => minMax false (v 0) (v 1)
def execVfmax (f : LaneFields) (s : State) : Out := floatOp f s 2 0 false fun v => minMax true (v 0) (v 1)
def execVfrcp (f : LaneFields) (s : State) : Out := floatOp f s 1 0 false fun v => Num.div (Num.ofInt 1) (v 0)
def execVfrsq (f : LaneFields) (s : State) : Out := floatOp f s 1 0 false fun v => rsqrtNum (v 0)
def execVfsqrt (f : LaneFields) (s : State) : Out := floatOp f s 1 0 (isRz f) fun v => sqrtNum (v 0)
def execVfdiv (f : LaneFields) (s : State) : Out := floatOp f s 2 0 (isRz f) fun v => Num.div (v 0) (v 1)
def execVfexp2 (f : LaneFields) (s : State) : Out := floatOp f s 1 0 false fun v => exp2Num (v 0)
def execVflog2 (f : LaneFields) (s : State) : Out := floatOp f s 1 0 false fun v => log2Num (v 0)
def execVfsin (f : LaneFields) (s : State) : Out := floatOp f s 1 0 false fun v => sinNum (v 0)
def execVfcos (f : LaneFields) (s : State) : Out := floatOp f s 1 0 false fun v => cosNum (v 0)

/-- R153: the integer that a direction gives: 0 nearest even, 1 toward zero, 2 down, 3 up. -/
def roundWay (way : Nat) (neg : Bool) (n d : Nat) : Nat :=
  if way = 0 then roundNat false n d
  else if (way = 2 && neg) || (way = 3 && !neg) then (n + d - 1) / d
  else n / d

/-- R153: `vfrnd` of a value. -/
def rndFloat (f : LaneFields) (fmt : FloatFmt) (v : Num) : Nat :=
  let way := f.func.toNat
  match Num.scale v (scaleExp f) with
  | .fin s n d =>
    let rz := way = 1 || (way = 2 && !s) || (way = 3 && s)
    fmt.result rz (.fin s (roundWay way s n d) 1)
  | x => fmt.result false x

/-- R153. -/
def execVfrnd (f : LaneFields) (s : State) : Out :=
  floatRun f s 1 0 fun slot e => finishFloat f slot (fmtOf f) (rndFloat f (fmtOf f) ((fmtOf f).decode (e 0)))

/-- R153: `vffrac` of a value, as an FP32 pattern. -/
def fracFloat (f : LaneFields) (v : Num) : Nat :=
  match Num.scale v (scaleExp f) with
  | .fin s n d =>
    let r := n % d
    let part := if s && r ≠ 0 then d - r else r
    let p := fp32.result false (.fin false part d)
    if p = 0x3F800000 then 0x3F7FFFFF else p
  | _ => fp32.qnan

/-- R153. -/
def execVffrac (f : LaneFields) (s : State) : Out :=
  floatRun f s 1 0 fun slot e => finishFloat f slot fp32 (fracFloat f (fp32.decode (e 0)))

/-- R154: the class mask of a pattern. -/
def classMask (fmt : FloatFmt) (p : Nat) : Nat :=
  let sub := p / 2 ^ fmt.m % 2 ^ fmt.e = 0
  match fmt.decode p with
  | .nan => 2 ^ 8
  | .inf s => if s then 1 else 2 ^ 7
  | .fin s n _ => if n = 0 then (if s then 2 ^ 3 else 2 ^ 4)
    else if sub then (if s then 2 ^ 2 else 2 ^ 5) else (if s then 2 else 2 ^ 6)

/-- R154: no modifier, SCALE or CLAMP. -/
def execVfcls (f : LaneFields) (s : State) : Out :=
  let ty := tyOf f
  laneRun { srcs := [0] } f s fun s x =>
    laneResult s x f false 0 fun l => mapElems ty fun j => (classMask (fmtOf f) (elemOf ty (operand x f 0 ty l) j), false)

/-! ### Dot products (R159, R160) -/

/-- The type of the addend and result of `vdot4`. -/
def dotType (ty : Nat) : Nat := if ty = 4 then 0 else if ty = 5 then 1 else 8

/-- R159, R160: one group sum of the products and the addend. -/
def dotSum (ty a b c : Nat) : Num :=
  let fmt := (typeFloat ty).getD f8a
  Num.gsum (((List.range (typeCount ty)).map fun j =>
    Num.mul (fmt.decode (elemOf ty a j)) (fmt.decode (elemOf ty b j))) ++ [fp32.decode c])

/-- R159: the integer sum. -/
def dotInt (ty a b c : Nat) : Int :=
  asInt (dotType ty) c 0 + ((List.range 4).map fun j => asInt ty a j * asInt ty b j).foldl (· + ·) 0

/-- R159: modifiers on VC only, and none on an unsigned addend. -/
def execVdot4 (f : LaneFields) (s : State) : Out :=
  let ty := tyOf f
  let whole := ty == 4 || ty == 5
  laneRun { srcs := [0, 1, 2], mods := if ty == 5 then [] else [2], clamp := true, scale := !whole } f s fun s x =>
    let slot := laneSlot s x.t f
    laneResult s x f false 0 fun l =>
      let a := operand x f 0 ty l
      let b := operand x f 1 ty l
      let c := operand x f 2 (dotType ty) l
      if whole then finishInt f slot (ty == 4) 32 (dotInt ty a b c) else roundFloat f slot fp32 false (dotSum ty a b c)

/-- R160: modifiers on all three sources. -/
def execVfdot2 (f : LaneFields) (s : State) : Out :=
  let ty := tyOf f
  laneRun { srcs := [0, 1, 2], mods := [0, 1, 2], clamp := true, scale := true } f s fun s x =>
    laneResult s x f false 0 fun l =>
      roundFloat f (laneSlot s x.t f) fp32 false (dotSum ty (operand x f 0 ty l) (operand x f 1 ty l) (operand x f 2 8 l))

end Sys2Proof.Machine
end

