-- ==== Sys2Proof/Machine/LaneCross.lean ====
section
/-! DEFINITION. Cross-lane instructions and lane state (spec/05 R166 to R175, spec/16 R335). -/

namespace Sys2Proof.Machine

open Sys2Proof

/-- The registers of VA for a type. -/
def sourceRegs (f : LaneFields) : List Nat :=
  if fieldOf f 0 < 768 then (if typeWidth (tyOf f) = 64 then [f.va.toNat, f.va.toNat + 1] else [f.va.toNat]) else []

/-- R167: the source lane of `vshfl`. -/
def shuffleLane (mode w l c : Nat) : Nat :=
  let b := l - l % w
  match mode with
  | 0 => b + c % w
  | 1 => if c ≤ l - b then l - c else l
  | 2 => if l + c < b + w then l + c else l
  | _ => b + ((l % w) ^^^ (c % w))

/-- R167, R335: the width; 64 is performed as 32 at 32 lanes. -/
def shuffleWidth (compat : Bool) (f : LaneFields) : Nat :=
  let w := 2 ^ (f.func.toNat / 4 % 8)
  if compat && w = 64 then 32 else w

/-- R166, R167: each active lane reads VA in another lane; a poisoned source word is the reader's. VB is a 32-bit operand
whatever the type (DEDUCED, log 112). -/
def execVshfl (f : LaneFields) (s : State) : Out :=
  let ty := tyOf f
  let u : LaneUse := { srcs := [0, 1], direct := [0], apart := [0], wide := pairFields f [3, 0] }
  laneRun u f s fun s x =>
    let src (l : Nat) : Nat :=
      shuffleLane (f.func.toNat % 4) (shuffleWidth x.t.compat f) l (operand x f 1 1 l % 2 ^ 32)
    let bad := x.lanes.filter fun l => (sourceRegs f).any fun r => poisonAt x.t r (src l)
    if !bad.isEmpty then laneTrap s x.core x.slot 0x06 0 (maskOf bad) 0
    else noteApart u f s x fun s x => laneResult s x f (typeWidth ty == 64) 0 fun l => (operand x f 0 ty (src l), false)

/-- R168: writes lane L of VA to every active lane. -/
def broadcast (u : LaneUse) (f : LaneFields) (s : State) (x : LaneCtx) (lane : Nat) : State :=
  let ty := tyOf f
  if (sourceRegs f).any fun r => poisonAt x.t r lane then laneTrap s x.core x.slot 0x06 0 (BitVec.ofNat 64 x.mask) 0
  else noteApart u f s x fun s x => laneResult s x f (typeWidth ty == 64) 0 fun _ => (operand x f 0 ty lane, false)

/-- R168, R335: L is read in the lowest active lane. VB is a 32-bit operand whatever the type (DEDUCED, log 112). -/
def execVbcast (f : LaneFields) (s : State) : Out :=
  let u : LaneUse := { srcs := [0, 1], direct := [0], apart := [0, 1], wide := pairFields f [3, 0] }
  laneRun u f s fun s x =>
    match x.lanes with
    | [] => noteApart u f s x fun s x => laneDone s x 0
    | l :: _ =>
      if (regsOf {} x.t f 1 l).any fun r => poisonAt x.t r l then laneTrap s x.core x.slot 0x06 0 (maskOf [l]) 0
      else broadcast u f s x (operand x f 1 1 l % (if x.t.compat then 32 else 64))

/-- R168: the lowest active lane is L. -/
def execVbcastFirst (f : LaneFields) (s : State) : Out :=
  let u : LaneUse := { srcs := [0], direct := [0], apart := [0], wide := pairFields f [3, 0] }
  laneRun u f s fun s x =>
    match x.lanes with
    | [] => noteApart u f s x fun s x => laneDone s x 0
    | l :: _ => broadcast u f s x l

/-- R169: the identity of an operation. -/
def foldIdentity (ty op : Nat) : Nat :=
  match op with
  | 1 => if ty = 8 then 0x7F800000 else if ty = 0 then 0x7FFFFFFF else 0xFFFFFFFF
  | 2 => if ty = 8 then 0xFF800000 else if ty = 0 then 0x80000000 else 0
  | 3 => 0xFFFFFFFF
  | _ => 0

/-- R169: one step of a fold. -/
def foldStep (ty op acc v : Nat) : Nat :=
  match op with
  | 0 => if ty = 8 then addF32 acc v else (acc + v) % 2 ^ 32
  | 1 => if ty = 8 then fp32.result false (minMax false (fp32.decode acc) (fp32.decode v))
         else if asInt ty acc 0 ≤ asInt ty v 0 then acc else v
  | 2 => if ty = 8 then fp32.result false (minMax true (fp32.decode acc) (fp32.decode v))
         else if asInt ty acc 0 ≤ asInt ty v 0 then v else acc
  | 3 => acc &&& v
  | 4 => acc ||| v
  | _ => acc ^^^ v

/-- R169: the fold of the lanes at or below a lane, or of those below it. -/
def scanAt (x : LaneCtx) (f : LaneFields) (exclusive : Bool) (l : Nat) : Nat :=
  let op := f.func.toNat % 8
  ((x.lanes.filter fun k => k < l || (!exclusive && k == l)).map fun k => operand x f 0 (tyOf f) k).foldl
    (foldStep (tyOf f) op) (foldIdentity (tyOf f) op)

/-- R169: FUNC[3] selects the exclusive form. -/
def execVscan (f : LaneFields) (s : State) : Out :=
  laneRun { srcs := [0] } f s fun s x => laneResult s x f false 0 fun l => (scanAt x f (bit f.func.toNat 3) l, false)

/-- R170, R173. -/
def execVred (f : LaneFields) (s : State) : Out :=
  laneRun { srcs := [0], dest := .regOrMailbox } f s fun s x =>
    let v := scanAt x f false 63
    if mailboxOperand f.vd.toNat then mailboxResult s x f v else laneResult s x f false 0 fun _ => (v, false)

/-- R171, R173: a ballot and what is made of it. -/
def ballot (f : LaneFields) (s : State) (g : Nat → Nat) : Out :=
  laneRun { preds := [0], dest := .regOrMailbox, wide := [3] } f s fun s x =>
    let v := g (x.mask &&& (predMask x.t.ln f.va.toNat).toNat)
    if mailboxOperand f.vd.toNat then mailboxResult s x f v else laneResult s x f true 0 fun _ => (v, false)

def execVballot (f : LaneFields) (s : State) : Out := ballot f s fun m => m
/-- R171: the population count. -/
def execVballotCnt (f : LaneFields) (s : State) : Out := ballot f s fun m => popCount 64 m

/-- R172, R173: the value of one lane, or all ones, to a mailbox. -/
def mailLane (f : LaneFields) (s : State) (pick : List Nat → Option Nat) : Out :=
  let ty := tyOf f
  let u : LaneUse := { srcs := [0], dest := .mailbox, apart := [0], wide := pairFields f [0] }
  laneRun u f s fun s x =>
    match pick x.lanes with
    | none => noteApart u f s x fun s x => mailboxResult s x f (2 ^ 64 - 1)
    | some l =>
      if (regsOf { wide := pairFields f [0] } x.t f 0 l).any fun r => poisonAt x.t r l then
        laneTrap s x.core x.slot 0x06 0 (maskOf [l]) 0
      else noteApart u f s x fun s x => mailboxResult s x f (operand x f 0 ty l)

/-- R172: the lowest active lane. -/
def execVmbox (f : LaneFields) (s : State) : Out := mailLane f s List.head?
/-- R172: the highest active lane. -/
def execVmboxLast (f : LaneFields) (s : State) : Out := mailLane f s List.getLast?

/-- R174. -/
def execVlid (f : LaneFields) (s : State) : Out :=
  laneRun {} f s fun s x => laneResult s x f false 0 fun l =>
    (match f.func.toNat with
     | 0 => l
     | 1 => (x.lanes.filter fun k => k < l).length
     | _ => x.lanes.length, false)

/-- R175: sets an index register; the sources are read first. -/
def execVixs (f : LaneFields) (s : State) : Out :=
  laneRun { srcs := [0, 1], dest := .index } f s fun s x =>
    let i := f.vd.toNat - 772
    let put (m : FMap (BitVec 16)) (k : Nat) : FMap (BitVec 16) :=
      x.lanes.foldl (fun m l => mset m (64 * i + l) (BitVec.ofNat 16 (operand x f k 1 l))) m
    laneDone (modStrand s x.core x.slot fun t =>
      { t with ln := { t.ln with ibase := put t.ln.ibase 0, ilen := put t.ln.ilen 1 } }) x 0

end Sys2Proof.Machine
end

