-- ==== Sys2Proof/Machine/LaneMem.lean ====
section
/-! DEFINITION. Lane loads and stores, atomics, reductions and prefetches (spec/09 R250 to R263, spec/07 R210). -/

namespace Sys2Proof.Machine

open Sys2Proof

/-! ### Operand form (R255, R256) -/

/-- R255: FORM in IMM[10:8]. -/
def memForm (f : LaneFields) : Nat := bits f.imm.toNat 10 8
/-- The word with its index offset alone in IMM. -/
def memWord (f : LaneFields) : LaneFields := { f with imm := f.imm &&& 0xFF }
/-- R256: the bytes of an element. -/
def memSize (f : LaneFields) : Nat := typeWidth (tyOf f) / 8
/-- R256: COUNT of a load or store. -/
def memCount (f : LaneFields) : Nat := 2 ^ (bits f.func.toNat 5 4)
/-- Registers of one element. -/
def elemRegs (f : LaneFields) : Nat := if memSize f = 8 then 2 else 1
/-- ORDER of a load or store: a hint, or a scope with ACQREL. -/
def memOrder (f : LaneFields) : BitVec 3 := f.func.setWidth 3

/-- R255: the forms of a global, or scratch, opcode; IMM[15:11] is zero. -/
def formLegal (f : LaneFields) (scratch : Bool) : Bool :=
  f.imm.toNat < 2048 && (if scratch then 4 ≤ memForm f else memForm f ≤ 2)

/-- The address operand is a pair only in form 0. -/
def addrWide (f : LaneFields) : List Nat := if memForm f = 0 then [0] else []
/-- Fields that name pairs when an element has 64 bits. -/
def dataWide (f : LaneFields) (ks : List Nat) : List Nat := if memSize f = 8 then ks else []

/-- R255: the address of a lane; a scratch offset of 2^20 or more names no byte of an area. An inline constant as the operand is an integer,
whatever TYPE says (R51; DESIGN CHOICE, log 148). -/
def laneAddr (x : LaneCtx) (f : LaneFields) (l : Nat) : Word :=
  let w := memWord f
  match memForm f with
  | 0 => BitVec.ofNat 64 (rawOperand x w 0 7 l)
  | 1 => BitVec.ofNat 64 (constValue x.run 0 true) + BitVec.ofInt 64 (sgn 32 (rawOperand x w 0 1 l))
  | 2 => BitVec.ofNat 64 (constValue x.run 2 true) + BitVec.ofInt 64 (sgn 32 (rawOperand x w 0 1 l))
  | n => BitVec.ofNat 64 (511 * 2 ^ 55 + (if n = 4 then 2 ^ 22 else (n - 4) * 2 ^ 20) + rawOperand x w 0 1 l)

/-- R255: the offset of a scratch form reaches beyond 20 bits. -/
def offsetOut (x : LaneCtx) (f : LaneFields) (l : Nat) : Bool :=
  4 ≤ memForm f && 2 ^ 20 ≤ rawOperand x (memWord f) 0 1 l

/-- The locations of a lane's access, or its first fault (R250). -/
def laneAccess (s : State) (x : LaneCtx) (f : LaneFields) (l n : Nat) (u : Use) (aligned atomic : Bool) :
    Except Nat (List Nat) :=
  let a := laneAddr x f l
  let r := match u with
    | .read => readFault s x.core x.t a n aligned
    | _ => writeFault s x.core x.t a n aligned
  if offsetOut x f l then .error (if aligned && a.toNat % n ≠ 0 then cAlign else cScratch)
  else match r with
    | .error k => .error k
    | .ok locs =>
      if atomic && (locs.any fun b => !isScratch b && isleOf b == 15) then .error cAccess
      else .ok locs

/-- R250, R261, R262: the access of a lane that reads the word and writes it: the faults of both. `old`: it returns what the home
holds. -/
def laneBoth (s : State) (x : LaneCtx) (f : LaneFields) (l n : Nat) (u : Use) (aligned atomic old : Bool) : Except Nat (List Nat) :=
  match laneAccess s x f l n u aligned atomic with
  | .error k => .error k
  | .ok locs =>
    if !atomic then .ok locs
    else match touchFault s locs with
      | some k => .error k
      | none => if old && homePoisoned s locs then .error cPoison else .ok locs

/-- R250, R141: the accesses of all active lanes, or the first fault in order with its lanes. -/
def laneAccesses (s : State) (x : LaneCtx) (f : LaneFields) (n : Nat) (u : Use) (aligned atomic old : Bool) :
    Except (Nat × List Nat) (List (Nat × List Nat)) :=
  let rs := x.lanes.map fun l => (l, laneBoth s x f l n u aligned atomic old)
  let faults := rs.filterMap fun e => match e.2 with | .error k => some (k, e.1) | .ok _ => none
  match faults with
  | [] => .ok (rs.filterMap fun e => match e.2 with | .ok a => some (e.1, a) | .error _ => none)
  | y :: ys =>
    let k := if (y :: ys).any fun e => e.1 == cRecall then cRecall else ys.foldl (fun m e => min m e.1) y.1
    .error (k, ((y :: ys).filter fun e => e.1 == k).map fun e => e.2)

/-- R141: a memory fault of a lane instruction; a walk that waits for a recall is tried again. -/
def laneFault (s : State) (x : LaneCtx) (f : LaneFields) (e : Nat × List Nat) : State :=
  if e.1 = cRecall then laneWait s x.core x.slot .pending
  else laneTrap s x.core x.slot e.1 0 (maskOf e.2) (laneAddr x f (e.2.headD 0))

/-- Keeps the translations of the active lanes. -/
def keepLanes (s : State) (x : LaneCtx) (f : LaneFields) (n : Nat) : State :=
  x.lanes.foldl (fun s l => keepFor s x.core x.t (laneAddr x f l) n) s

/-- R15: a flag selector of the clause. -/
def selector (b : BitVec 4) : Option Nat := if b.toNat < 12 then some b.toNat else none
def flagA (x : LaneCtx) : Option Nat := selector x.run.header.flagA
def flagB (x : LaneCtx) : Option Nat := selector x.run.header.flagB
/-- R16: tagging would raise a count above 1,023. -/
def flagFull (x : LaneCtx) (n : Option Nat) : Bool := n.any fun k => Config.flagMax ≤ flagCount x.t k

/-- R236: scalar accesses made before the clause was enqueued are performed first. -/
def olderScalar (x : LaneCtx) : Bool := x.t.ops.any fun o => o.scalar && o.seq.toNat < x.run.entry.seq.toNat

/-- What every lane memory instruction waits for: an acquire of the strand (R235), older scalar accesses
(R236), a place in the flag's count (R16) and among the core's requests (R191). -/
def laneMemRun (u : LaneUse) (f : LaneFields) (s : State) (flag : LaneCtx → Option Nat) (k : State → LaneCtx → State) : Out :=
  laneRun u (memWord f) s fun s x =>
    if acquirePending x.t || olderScalar x then laneWait s x.core x.slot .pending
    else if flagFull x (flag x) then laneWait s x.core x.slot .flags
    else if 1024 ≤ outstanding s x.core then laneWait s x.core x.slot (.resource 6)
    else k s x

/-- The clause number as a trap record's place. -/
def clausePlace (x : LaneCtx) : Word := x.run.entry.clause.setWidth 64

/-- R258: an access of the lane stream to bytes of a pending reduction waits until it is accepted. A load waits, once
it has issued, until its completion has arrived (`loadWaits`). -/
def reduceWait (s : State) (x : LaneCtx) (locs : List Nat) : Bool :=
  (ownEffects s x.t true).any fun e => (e.stage == .flight || e.stage == .ingress) && (sumLocs e.kind).any locs.contains

/-! ### Loads (R257, R259) -/

/-- R256: the destinations of a load in one lane. -/
def loadDests (x : LaneCtx) (f : LaneFields) (e : Nat × List Nat) : List Dest :=
  let n := memSize f
  (List.range (memCount f)).map fun j =>
    { lane := e.1, addr := laneAddr x f e.1, reg := regIn x.t f f.vd.toNat e.1 + elemRegs f * j, locs := (e.2.drop (n * j)).take n,
      signed := typeSigned (tyOf f), pair := n == 8 }

/-- R209: the registers that a load writes belong to its region from its issue. -/
def noteDests (s : State) (x : LaneCtx) (ds : List Dest) : State :=
  modStrand s x.core x.slot fun t =>
    noteLanes t x.region (ds.flatMap fun d => if d.pair then [d.reg, d.reg + 1] else [d.reg]).eraseDups

/-- The operand fields of a load. -/
def loadUse (f : LaneFields) (scratch : Bool) : LaneUse :=
  { srcs := [0], wide := addrWide f ++ dataWide f [3], legal := formLegal f scratch,
    moreD := elemRegs f * (memCount f - 1) }

/-- R257: a load in every active lane. -/
def laneLoad (f : LaneFields) (s : State) (scratch acquire : Bool) : Out :=
  laneMemRun (loadUse f scratch) f s flagA fun s x =>
    match laneAccesses s x f (memSize f * memCount f) .read acquire false false with
    | .error e => laneFault s x f e
    | .ok as_ =>
      let s := keepLanes s x f (memSize f * memCount f)
      let locs := as_.flatMap fun e => e.2
      if reduceWait s x locs then laneWait s x.core x.slot .pending
      else
        let ds := as_.flatMap (loadDests x f)
        let q : LoadSpec := { region := x.region, scalar := false, flag := flagA x, dests := ds,
                              hint := if acquire then 0 else (memOrder f).toNat,
                              acquire := if acquire then some (memOrder f) else none,
                              place := clausePlace x, index := BitVec.ofNat 6 x.run.index, seq := x.run.entry.seq }
        laneDone (noteDests (issueLoad s x.core x.slot q) x ds) x 0

def execVld (f : LaneFields) (s : State) : Out := laneLoad f s false false
/-- R257, R235: no later access of the strand performs until the acquire has completed. -/
def execVldAcquire (f : LaneFields) (s : State) : Out := laneLoad f s false true
/-- R259: both orders, by ACQREL. -/
def execVlds (f : LaneFields) (s : State) : Out := laneLoad f s true (bit f.func.toNat 3)

/-! ### Stores (R257, R259, R245) -/

/-- The operand fields of a store. A group of registers cannot be a constant. -/
def storeUse (f : LaneFields) (scratch : Bool) : LaneUse :=
  { srcs := [0, 1], dest := .none, outward := true, wide := addrWide f ++ dataWide f [1],
    moreB := elemRegs f * (memCount f - 1),
    legal := formLegal f scratch && (memCount f == 1 || f.vb.toNat < 768 || indirect f.vb.toNat) }

/-- R256: the bytes that a lane stores. -/
def storeData (x : LaneCtx) (f : LaneFields) (l : Nat) : List Byte :=
  let n := memSize f
  let w := memWord f
  if memCount f = 1 then leBytes n (rawOperand x w 1 (tyOf f) l)
  else (List.range (memCount f)).flatMap fun j =>
    leBytes n (laneValue x.t (regIn x.t w f.vb.toNat l + elemRegs f * j) l (n == 8))

/-- The bytes of every lane, in lane order, so that the highest lane supplies a byte (R245). -/
def storeBytesOf (x : LaneCtx) (f : LaneFields) (as_ : List (Nat × List Nat)) : List (Nat × Byte) :=
  as_.flatMap fun e => e.2.zip (storeData x f e.1)

/-- The region of the clause that issues, as it stands now. -/
def currentRegion (s : State) (c l : Nat) : Nat :=
  ((strandAt s c l).bind fun t => t.st.current.map fun r => r.entry.region).getD 0

/-- R202: the store of every active lane departs. -/
def laneStoreNow (s : State) (x : LaneCtx) (f : LaneFields) (as_ : List (Nat × List Nat)) (hint : Nat) : State :=
  let locs := as_.flatMap fun e => e.2
  let reg := currentRegion s x.core x.slot
  let t := (strandAt s x.core x.slot).getD x.t
  if reduceWait s x locs then laneWait s x.core x.slot .pending
  else if (storeNeeds s x.core t reg locs).isSome then laneWait s x.core x.slot (.resource ((storeNeeds s x.core t reg locs).getD 6))
  else
    let s := issueStore s x.core x.slot reg hint false (flagB x) (storeBytesOf x f as_) x.run.entry.seq (clausePlace x)
    laneDone s x 0

/-- R250, R257: the checks and touches of a store, then `k`. -/
def laneStore (f : LaneFields) (s : State) (scratch aligned : Bool) (k : State → LaneCtx → List (Nat × List Nat) → State) : Out :=
  laneMemRun (storeUse f scratch) f s flagB fun s x =>
    match laneAccesses s x f (memSize f * memCount f) .write aligned false false with
    | .error e => laneFault s x f e
    | .ok as_ => k (keepLanes s x f (memSize f * memCount f)) x as_

/-- R234, R241, R311: as a lane instruction that releases reaches issue the windows are written back in its clause's region,
and `k` closes that region. -/
def laneWriteBack (s : State) (x : LaneCtx) (k : State → State) : State :=
  match writeBackFault s x.core x.t none with
  | some (e, a) => if e = cRecall then laneWait s x.core x.slot .pending else laneTrap s x.core x.slot e 0 (BitVec.ofNat 64 x.mask) a
  | none =>
    if writeBackShort s x.core x.t none then laneWait s x.core x.slot (.resource 2)
    else k (writeBack s x.core x.slot x.t x.region none)

/-- R210, R234, R257: a lane release. At `.st` and `.cor` it waits for the strand's operations. Wider, the scalar
side stops and an implicit head opens at the instruction itself; then the release waits for the strand's operations and for
every earlier effect. -/
def laneRelease (s : State) (x : LaneCtx) (scope : BitVec 3) (k : State → State) : State :=
  let wait (s : State) : State := laneWait s x.core x.slot .release
  match x.t.lphase with
  | .releasing => if x.t.ops.isEmpty && releaseDone s x.core x.slot x.t then k s else wait s
  | _ =>
    if scope.toNat < 2 then if x.t.ops.isEmpty then k s else wait s
    else if !headRoom x.t then laneWait s x.core x.slot .region
    else laneWriteBack s x fun s =>
      wait (modStrand (implicitHead s x.core x.slot x.t.sc x.t.st) x.core x.slot fun t => { t with lphase := .releasing })

def execVst (f : LaneFields) (s : State) : Out :=
  laneStore f s false false fun s x as_ => laneStoreNow s x f as_ (memOrder f).toNat

/-- R257: the release, then the store as a held effect of the implicit region. -/
def execVstRelease (f : LaneFields) (s : State) : Out :=
  laneStore f s false true fun s x as_ => laneRelease s x (memOrder f) fun s => laneStoreNow s x f as_ 0

/-- R259: both orders, by ACQREL. -/
def execVsts (f : LaneFields) (s : State) : Out :=
  let rel := bit f.func.toNat 3
  laneStore f s true rel fun s x as_ =>
    if rel then laneRelease s x (memOrder f) fun s => laneStoreNow s x f as_ 0
    else laneStoreNow s x f as_ (memOrder f).toNat

/-! ### Atomic operations (R260 to R262) -/

/-- R260: the operation in FUNC[3:0]. -/
def atomOp (f : LaneFields) : Nat := f.func.toNat % 16

/-- R260: the new value of a word. -/
def atomNew (op ty old v cmp : Nat) : Nat :=
  let w := typeWidth ty
  match op with
  | 0 => (old + v) % 2 ^ w
  | 1 => if asInt ty old 0 ≤ asInt ty v 0 then old else v
  | 2 => if asInt ty old 0 ≤ asInt ty v 0 then v else old
  | 3 => old &&& v
  | 4 => old ||| v
  | 5 => old ^^^ v
  | 6 => v
  | 7 => if old = cmp then v else old
  | _ => addF32 old v

/-- R169, R261: the identity of an operation. -/
def atomIdentity (op ty : Nat) : Nat :=
  let w := typeWidth ty
  match op with
  | 1 => if typeSigned ty then 2 ^ (w - 1) - 1 else 2 ^ w - 1
  | 2 => if typeSigned ty then 2 ^ (w - 1) else 0
  | 3 => 2 ^ w - 1
  | _ => 0

/-- The active lanes by address, in ascending lane order: the locations of a word and its lanes. -/
def byAddress (as_ : List (Nat × List Nat)) : List (List Nat × List Nat) :=
  (as_.map fun e => e.2).eraseDups.map fun locs => (locs, (as_.filter fun e => e.2 == locs).map fun e => e.1)

/-- R261: the folded operand of a group of lanes. -/
def foldOperand (op ty : Nat) : List Nat → Nat
  | [] => 0
  | v :: vs => vs.foldl (fun a b => atomNew op ty a b 0) v

/-- R261: what the lanes of a group receive from the old value and their operands, in ascending order. -/
def combineOld (op ty old : Nat) : Nat → List Nat → List Nat
  | _, [] => []
  | acc, v :: vs => atomNew op ty old acc 0 :: combineOld op ty old (atomNew op ty acc v 0) vs

/-- R261: `exch`: the old value, then each earlier operand. -/
def exchOld (old : Nat) (vs : List Nat) : List Nat := (old :: vs).take vs.length

/-- A request at a word: its location, operand, compare value and lanes. -/
structure AtomReq where
  loc   : Nat
  value : Nat
  cmp   : Nat
  lanes : List Nat
  deriving DecidableEq, Repr

/-- The operand VB, or VC, of a lane. -/
def atomOperand (x : LaneCtx) (f : LaneFields) (k l : Nat) : Nat := rawOperand x (memWord f) k (tyOf f) l

/-- R261: the requests of an atomic, one for each address, or one for each lane of a compare-and-swap. -/
def atomReqs (x : LaneCtx) (f : LaneFields) (as_ : List (Nat × List Nat)) : List AtomReq :=
  (byAddress as_).flatMap fun g =>
    if atomOp f = 7 then g.2.map fun l =>
      { loc := g.1.headD 0, value := atomOperand x f 2 l, cmp := atomOperand x f 1 l, lanes := [l] }
    else [{ loc := g.1.headD 0, value := foldOperand (atomOp f) (tyOf f) (g.2.map (atomOperand x f 1)), cmp := 0, lanes := g.2 }]

/-- The word at a location as its home, or scratch array, holds it. -/
def homeWord (s : State) (loc n : Nat) : Nat :=
  if isScratch loc then ((blockAt s (locBlock loc)).map fun b => memNat b.scratch (locOff loc) n).getD 0
  else memNat s.mem loc n

/-- R232, R248: a core's copy of a line serves no byte that an operation of its own at the home has passed. -/
def staleLine (s : State) (c line : Nat) : State :=
  modCore s c fun k => { k with l1 := k.l1.map (fun y => if y.line == line then { y with valid := false } else y),
                                fills := k.fills.map fun f => if f.line == line then { f with answer := none } else f }

/-- R261: performs one request at its home or array and answers the old value. -/
def performAt (s : State) (c op ty : Nat) (r : AtomReq) : State × Nat :=
  let n := typeWidth ty / 8
  let old := homeWord s r.loc n
  let new := atomNew op ty old r.value r.cmp
  let s := if isScratch r.loc then
      modBlock s (locBlock r.loc) fun b =>
        (List.range n).foldl (fun b i => markWritten b (locOff r.loc + i)) { b with scratch := memWrite b.scratch (locOff r.loc) n new }
    else staleLine { s with mem := memWrite s.mem r.loc n new } c (r.loc / 128)
  (noteWatches s, old)

/-- The lanes of a request and what they receive. -/
def reqResults (x : LaneCtx) (f : LaneFields) (r : AtomReq) (old : Nat) : List (Nat × Nat) :=
  let op := atomOp f
  let vs := r.lanes.map (atomOperand x f 1)
  r.lanes.zip (if op = 7 then [old] else if op = 6 then exchOld old vs else combineOld op (tyOf f) old (atomIdentity op (tyOf f)) vs)

/-- The request of a strand at the link partner for a location and first lane. -/
def linkOf (s : State) (c l loc lane : Nat) : Option LinkReq :=
  s.links.find? fun q => ownLink s c l q && q.addr == loc && q.lane == lane

/-- R251: sends the requests of an atomic that go to the link partner. -/
def sendLinks (s : State) (x : LaneCtx) (f : LaneFields) (rs : List AtomReq) : State :=
  rs.foldl (fun s r =>
    let lane := r.lanes.headD 0
    if !atHost r.loc || (linkOf s x.core x.slot r.loc lane).isSome then s
    else { s with nextId := s.nextId + 1,
                  links := s.links ++ [{ id := s.nextId, core := x.core, slot := x.slot, strand := true, addr := r.loc,
                                         op := BitVec.ofNat 4 (atomOp f), type := f.type, value := BitVec.ofNat 64 r.value,
                                         compare := BitVec.ofNat 64 r.cmp, lane := lane, expect := none, result := none,
                                         refused := false, tee := frozen s x.t.part, inc := mgetD s.incs (dieOf x.core) 0 }] }) s

/-- R236, R204: what an atomic must not pass: earlier effects of its stream on the same bytes, and writes of
other unreleased regions to a scratch word. -/
def atomBlocked (s : State) (x : LaneCtx) (locs : List Nat) : Bool :=
  let word (a : Nat) : Bool := isScratch a && (blockAt s (locBlock a)).any fun b => wordHeld (coreOf s b.core) (locBlock a) (locOff a)
  locs.any word || loadOrder x.t false locs
    || ((ownEffects s x.t true).any fun e => (sumLocs e.kind).any locs.contains || match e.kind with
      | .write b => locs.any fun a => (mget b a).isSome
      | _ => false)
    || ((coreOf s x.core).hwb.any fun h => entryOfStream x.t true h
        && ((entrySums h).any locs.contains || locs.any fun a => (isScratch a) && (entryByte h a).isSome))

/-- R199: the lane register words that an atomic returned. -/
def atomResults (x : LaneCtx) (f : LaneFields) (wide : Bool) (vals : List (Nat × Nat)) : Results :=
  { lanes := vals.flatMap fun e => let r := regIn x.t f f.vd.toNat e.1; if wide then [64 * r + e.1, 64 * (r + 1) + e.1] else [64 * r + e.1] }

/-- R210 steps 4 and 5: the returned values are written and an implicit head opens at the next instruction. The
atomic's counts go to both forms, since it is never repeated (R373). -/
def finishLaneAtomic (s : State) (x : LaneCtx) (f : LaneFields) (wide failed : Bool) (vals : List (Nat × Nat)) : State :=
  let s := bumpBoth (bumpBoth s x.t.part x.t.grid 1 1) x.t.part x.t.grid 2 (popCount 64 x.mask)
  let s := { s with links := s.links.filter fun q => !ownLink s x.core x.slot q }
  let s := modStrand s x.core x.slot fun t =>
    let t := stepLane (writeLanes x (memWord f) wide vals t)
    { t with sc := { t.sc with demote := t.sc.demote || failed } }
  match strandAt s x.core x.slot with
  | some t => implicitHead s x.core x.slot t.sc t.st (atomResults x (memWord f) wide vals)
  | none => s

/-- R215, R248, R261: performs every request, and the strand holds the horizons of the lines, which its releases wait out; those of the link partner have their results (DEDUCED, log 82). -/
def performAtomic (s : State) (x : LaneCtx) (f : LaneFields) (rs : List AtomReq) : State :=
  let op := atomOp f
  let step (acc : State × List (Nat × Nat) × Bool) (r : AtomReq) : State × List (Nat × Nat) × Bool :=
    let p := match linkOf acc.1 x.core x.slot r.loc (r.lanes.headD 0) with
      | some q => (acc.1, (q.result.getD 0).toNat % 2 ^ typeWidth (tyOf f))
      | none => performAt acc.1 x.core op (tyOf f) r
    let held := if isScratch r.loc || atHost r.loc then p.1
      else modStrand p.1 x.core x.slot fun t => { t with gwct := max t.gwct (max p.1.now (horizonOf p.1 (r.loc / 128))) }
    (held, acc.2.1 ++ reqResults x f r p.2, acc.2.2 || (op == 7 && p.2 != r.cmp))
  let r := rs.foldl step (s, [], false)
  let scope := bits f.func.toNat 6 4
  let s := if scope < 2 then r.1 else flip r.1 x.core x.t.block
  finishLaneAtomic s x f (memSize f == 8) r.2.2 r.2.1

/-- R210 step 2 and 3: once everything has cleared the atomic performs; requests at the link partner first. One whose requests to isle
14 are dropped gets no answer (R404). -/
def atomicReady (s : State) (x : LaneCtx) (f : LaneFields) (as_ : List (Nat × List Nat)) : State :=
  let scope := bits f.func.toNat 6 4
  let locs := as_.flatMap fun e => e.2
  let rs := atomReqs x f as_
  if !allCleared x.t || !headRoom x.t || (2 ≤ scope && !(x.t.ops.isEmpty && releaseDone s x.core x.slot x.t)) || (2 ≤ scope && (coreOf s x.core).sweeping)
    || atomBlocked s x locs || hostOwned s locs || frameHeld s locs || locs.any (hostDropped s x.t.part) then
    laneWait s x.core x.slot .clearing
  else if touchWaits s locs then laneWait (startTouches s locs) x.core x.slot .fill
  else
    let far := rs.filter fun r => atHost r.loc
    let links := far.filterMap fun r => linkOf s x.core x.slot r.loc (r.lanes.headD 0)
    let refused := far.filter fun r => ((linkOf s x.core x.slot r.loc (r.lanes.headD 0)).map fun q => q.refused).getD false
    if links.length < far.length then
      laneWait (modStrand (sendLinks s x f rs) x.core x.slot fun t => { t with lphase := .requested }) x.core x.slot .pending
    else if links.any fun q => q.result.isNone && !q.refused then laneWait s x.core x.slot .pending
    else if !refused.isEmpty then
      let s := { s with links := s.links.filter fun q => !ownLink s x.core x.slot q }
      laneFault s x f (cAccess, refused.flatMap fun r => r.lanes)
    else performAtomic s x f rs

/-- The operand fields of an atomic. -/
def atomUse (f : LaneFields) (cas : Bool) : LaneUse :=
  { srcs := if cas then [0, 1, 2] else [0, 1], outward := true, legal := formLegal f false,
    wide := addrWide f ++ dataWide f (if cas then [3, 1, 2] else [3, 1]) }

/-- R210, R261: a lane atomic: as it reaches issue the scalar side stops and every region closes, for a scope of `.hth` or
wider with the write-backs of the windows in it; the regions clear, the release ends, and the atomic performs. -/
def laneAtomic (f : LaneFields) (s : State) (cas : Bool) : Out :=
  laneMemRun (atomUse f cas) f s flagA fun s x =>
    match laneAccesses s x f (memSize f) .write true true true with
    | .error e => laneFault s x f e
    | .ok as_ =>
      let s := keepLanes s x f (memSize f)
      let scope := bits f.func.toNat 6 4
      let onto (s : State) (p : Phase) (w : Wait) : State :=
        modStrand s x.core x.slot fun t => { t with lphase := p, lwait := w }
      match x.t.lphase with
        | .releasing => atomicReady s x f as_
        | .requested => atomicReady s x f as_
        | _ =>
          if scope < 2 then onto (closeStrand s x.core x.slot) .releasing .clearing
          else laneWriteBack s x fun s => onto (closeStrand s x.core x.slot) .releasing .clearing

def execVatom (f : LaneFields) (s : State) : Out := laneAtomic f s false
/-- R260, R261: one request for each lane. -/
def execVatomCas (f : LaneFields) (s : State) : Out := laneAtomic f s true

/-- R202, R262: one folded reduction departs to its target's class of holding; the answer adds its effect. -/
def sendReduce (s : State) (x : LaneCtx) (f : LaneFields) (g : List Nat × List Nat) : State × List Nat :=
  let op := atomOp f
  let ty := tyOf f
  let n := memSize f
  let v := foldOperand op ty (g.2.map (atomOperand x f 1))
  let loc := g.1.headD 0
  if isScratch loc && locBlock loc == x.t.block then
    let old := homeWord s loc n
    let own := scratchOwners (coreOf s x.core) x.t.block (locOff loc) n
    let s := scratchPuts s x.core x.region x.t.block (placed (locOff loc) (leBytes n (atomNew op ty old v 0)))
    (modStrand s x.core x.slot fun t => addDeps (markEffect t x.region 0) x.region own, [])
  else if isScratch loc then
    let h : HwbEntry := { id := s.nextId, part := x.t.part, grid := x.t.grid, due := none, owner := x.region, slot := x.slot, block := locBlock loc, off := locOff loc, bytes := [],
                          add := none, reduce := some (BitVec.ofNat 4 op, f.type, BitVec.ofNat 64 v),
                          issuer := (x.t.block, x.t.number), lane := true, seq := x.run.entry.seq, place := clausePlace x }
    let s := modCore { s with nextId := s.nextId + 1 } x.core fun k => { k with hwb := k.hwb ++ [h] }
    (modStrand s x.core x.slot fun t => markEffect t x.region 1, [])
  else
    let id := s.nextId
    (issueEffect s x.core x.slot x.region (homeOf s loc) (.reduce (BitVec.ofNat 4 op) f.type loc (BitVec.ofNat 64 v))
      x.run.entry.seq (clausePlace x), [id])

/-- R209: the resource of which a reduction finds no free unit. -/
def reduceShort (s : State) (x : LaneCtx) (gs : List (List Nat × List Nat)) : Option Nat :=
  let own := (gs.filter fun g => isScratch (g.1.headD 0) && locBlock (g.1.headD 0) == x.t.block).flatMap fun g => g.1
  let away := gs.filter fun g => isScratch (g.1.headD 0) && locBlock (g.1.headD 0) != x.t.block
  if (storeShort s x.core x.t x.region own).isSome then some 2
  else if !away.isEmpty && 64 < hwbUsed s x.core + away.length then some 4 else none

/-- R262: a memory reduction. -/
def execVredm (f : LaneFields) (s : State) : Out :=
  let u : LaneUse := { srcs := [0, 1], dest := .none, outward := true, legal := formLegal f false, wide := addrWide f ++ dataWide f [1] }
  laneMemRun u f s flagB fun s x =>
    match laneAccesses s x f (memSize f) .write true true false with
    | .error e => laneFault s x f e
    | .ok as_ =>
      let s := keepLanes s x f (memSize f)
      let locs := as_.flatMap fun e => e.2
      let gs := byAddress as_
      if touchWaits s locs then laneWait (startTouches s locs) x.core x.slot .fill
      else if reduceWait s x locs then laneWait s x.core x.slot .pending
      else if (reduceShort s x gs).isSome then laneWait s x.core x.slot (.resource ((reduceShort s x gs).getD 2))
      else
        let r := gs.foldl (fun acc g => let p := sendReduce acc.1 x f g; (p.1, acc.2 ++ p.2)) (s, ([] : List Nat))
        laneDone (trackStore r.1 x.core x.slot x.region false false (flagB x) r.2 x.run.entry.seq) x 0

/-- R263: the lines that a prefetch asks for; an access that would fault is dropped. -/
def prefetchLines (s : State) (x : LaneCtx) (f : LaneFields) : List Nat :=
  (x.lanes.filterMap fun l => match readFault s x.core x.t (laneAddr x f l) 1 false with
    | .error _ => none
    | .ok locs => match locs with
      | a :: _ => if isScratch a || 14 ≤ isleOf a then none else some (a / 128)
      | [] => none).eraseDups

/-- R263: a prefetch fills lines and changes no value. -/
def execVpref (f : LaneFields) (s : State) : Out :=
  let u : LaneUse := { srcs := [0], dest := .none, legal := formLegal f false, wide := addrWide f }
  laneMemRun u f s flagB fun s x =>
    let held (l : Nat) : Bool := match readFault s x.core x.t (laneAddr x f l) 1 false with | .error k => k == cRecall | .ok _ => false
    if x.lanes.any held then laneWait s x.core x.slot .pending else
    let hint := f.func.toNat
    let lines := prefetchLines s x f
    let s := x.lanes.foldl (fun s l => match physical s x.core x.t.part ((laneAddr x f l).toNat % 2 ^ 57) .read with
      | .ok _ => if inAperture (laneAddr x f l) || !canonical (laneAddr x f l) then s else keepFor s x.core x.t (laneAddr x f l) 1
      | .error _ => s) s
    let k := coreOf s x.core
    let miss := lines.filter fun n => !((l1Find k n).map fun y =>
      [0, 127].all fun b => l1Serves s.now k y b).getD false
    let o : MemOp := { id := s.nextId, region := x.region, scalar := false, flag := none, flagB := flagB x, dests := [],
                       lines := miss, got := [], asked := s.nextId, waits := [], landed := true, effects := [], poll := false, byp := false,
                       acquire := none, place := clausePlace x, index := BitVec.ofNat 6 x.run.index, seq := x.run.entry.seq }
    let s := modCore s x.core fun k =>
      let k := miss.foldl (fun k n => startFill k n hint false) k
      (lines.filter fun n => !miss.contains n).foldl (fun k n => match l1Find k n with
        | some y => l1Put k (bumpRet k y hint)
        | none => k) k
    laneDone (modStrand { s with nextId := s.nextId + 1 } x.core x.slot fun t => { t with ops := t.ops ++ [o] }) x 0

end Sys2Proof.Machine
end

