-- ==== Sys2Proof/Machine/Griddle.lean ====
section
/-! DEFINITION. The griddle: its reservation and stream (spec/11 R289 to R294), segments (R217, R218, R305) and
the matrix instructions (R297 to R307). -/

namespace Sys2Proof.Machine

open Sys2Proof

/-! ### Reservation and start -/

/-- R289: a fresh grant to a block. -/
def grantGriddle (s : State) (c block : Nat) : State :=
  modCore s c fun k => { k with griddle := { Griddle.reset with held := true, holder := block } }

/-- R289: asks for the griddle; it never waits. -/
def execMres (d : BitVec 7) (s : State) : Out :=
  scalarRun s [] d.toNat fun s c l t =>
    let g := (coreOf s c).griddle
    let s := if g.held then s else grantGriddle s c t.block
    finish s c l d.toNat (nextPc (sput t.sc d.toNat (if !g.held || g.holder == t.block then 1 else 0)))

/-- Trap codes of the griddle (R374). -/
def cGriddleState : Nat := 0x20
def cGriddleOperand : Nat := 0x21

/-- The griddle of a core is held by a block. -/
def heldBy (s : State) (c block : Nat) : Bool := (coreOf s c).griddle.held && (coreOf s c).griddle.holder == block

/-- R305: uncleared segments. -/
def liveSegs (g : Griddle) : Nat := (g.segs.filter fun x => !x.cleared).length

/-- R290, R292: gives the griddle up, once RUN = 0 and NSEG = 0. -/
def execMrel (s : State) : Out :=
  scalarRun s [] 0 fun s c l t =>
    atomicThen s c l t false fun s t =>
      if !heldBy s c t.block then scalarTrap s c l cGriddleState 0
      else if (coreOf s c).griddle.run || liveSegs (coreOf s c).griddle ≠ 0 then scalarWait s c l .griddle
      else finishAtomic (modCore s c fun k => { k with griddle := Griddle.reset }) c l {} (nextPc t.sc)

/-- The open segment of a griddle. -/
def openSeg (g : Griddle) : Option Segment := g.segs.find? fun x => x.close.isNone

/-- Opens a segment of a core's stream. -/
def openSegment (s : State) (c rewind : Nat) (wait : Option (Nat × Nat)) : State :=
  let g := (coreOf s c).griddle
  let cur := ((blockAt s g.holder).map fun b => b.cursors).getD []
  let x := newSegment s c rewind wait cur g.holder
  modCore { s with nextId := s.nextId + 1 } c fun k => { k with griddle := { k.griddle with segs := k.griddle.segs ++ [x] } }

/-- R292, R293: starts the stream at an instruction number; NEXT keeps the 26 low bits of s[a] (DEDUCED, log 120). -/
def execMrun (a : BitVec 7) (s : State) : Out :=
  scalarRun s [a.toNat] 0 fun s c l t =>
    atomicThen s c l t false fun s t =>
      let g := (coreOf s c).griddle
      let n := (sget t.sc a.toNat).toNat % 2 ^ 26
      if !heldBy s c t.block || g.run then scalarTrap s c l cGriddleState 0
      else if 16 ≤ liveSegs g then scalarWait s c l .griddle
      else
        let s := modCore s c fun k => { k with griddle := { k.griddle with run := true, next := n, latch := none, waiting := none } }
        finishAtomic (openSegment s c n none) c l {} (nextPc t.sc)

/-! ### Segments -/

/-- Changes the griddle of a core. -/
def modGriddle (s : State) (c : Nat) (f : Griddle → Griddle) : State := modCore s c fun k => { k with griddle := f k.griddle }
def modSeg (s : State) (c id : Nat) (f : Segment → Segment) : State :=
  modGriddle s c fun g => { g with segs := g.segs.map fun x => if x.id == id then f x else x }

/-- R304: the open segment closes at this tick. -/
def closeSegment (s : State) (c : Nat) : State :=
  modGriddle s c fun g => { g with segs := g.segs.map fun x =>
    if x.close.isNone then { x with close := some s.now, qcore := qCore s c, qdie := qDie s c } else x }

/-- R296: the open segment read values of unreleased regions or segments. -/
def addSegDeps (s : State) (c id : Nat) (ds : List Nat) : State :=
  modSeg s c id fun x => { x with deps := x.deps ++ (ds.filter fun d => d != id && !x.deps.contains d).eraseDups }

/-- R307, R412: a matrix trap: no effect, the stream stops with NEXT as given, and the trap is held in its segment; poison that it has
met is recorded. -/
def matrixTrap (s : State) (c id code detail : Nat) (faddr : Word) (next : Nat) : State :=
  let n := (coreOf s c).griddle.next
  let s := match blockAt s (coreOf s c).griddle.holder with
    | some b => if code = 0x15 then poisonErrors s c b.part b.grid b.gang else s
    | none => s
  let r := trapRec code .matrix detail 0 (BitVec.ofNat 64 n) 0 faddr
  let s := modSeg s c id fun x => { x with trap := some r }
  modGriddle (closeSegment s c) c fun g => { g with run := false, next := next, waiting := none, reading := none }

/-- A matrix instruction that runs: the griddle, the holding block and the open segment of the stream's core.
A word that breaks R57 or R297 takes its cause (R307 step 2). -/
def matrixRun (f : LaneFields) (s : State) (k : State → Nat → Griddle → Block → Segment → State) : Out :=
  match s.agent with
  | .matrix c =>
    let g := (coreOf s c).griddle
    match blockAt s g.holder, openSeg g with
    | some b, some x =>
      if !g.held || !g.run then .fault .noAgent
      else match matrixReject f with
        | some r => .next (matrixTrap s c x.id 0x02 r.cause.toNat 0 g.next)
        | none => .next (k s c g b x)
    | _, _ => .fault .noAgent
  | _ => .fault .noAgent

/-- R292: the instruction number after one, in 26 bits (DEDUCED, log 120). -/
def numberAfter (n : Nat) : Nat := (n + 1) % 2 ^ 26

/-- The stream goes on to its next instruction. -/
def matrixDone (s : State) (c : Nat) : State := modGriddle s c fun g => { g with next := numberAfter g.next }

/-- R297: the slot of a matrix word, when TYPE agrees with its format. -/
def matrixSlot (s : State) (b : Block) (f : LaneFields) : Option (BitVec 128) :=
  let r := ((recordOf s b.part b.grid).map fun r => r.slots.getD f.slot.toNat 0).getD 0
  let want := match f.type.toNat with | 8 => 0 | 9 => 1 | 10 => 2 | 11 => 3 | 12 => 4 | 4 => 5 | 13 => 6 | _ => 7
  if slotFmt r = want then some r else none

/-! ### Staging and implicit meets (R217, R218, R305) -/

/-- The elements of a tile. -/
def tileKeys (m : FMap W32) (t : Nat) : FMap W32 := m.filter fun e => e.1 / 1024 == t
def tileElem (m : FMap W32) (t i j : Nat) : W32 := mgetD m (1024 * t + 32 * i + j) 0

/-- Replaces a tile; an element of +0 is not listed. -/
def putTile (m : FMap W32) (t : Nat) (v : List W32) : FMap W32 :=
  let new := ((List.range 1024).zip v).filterMap fun e => if e.2 = 0 then none else some (1024 * t + e.1, e.2)
  (m.filter fun e => e.1 / 1024 < t) ++ new ++ m.filter fun e => t < e.1 / 1024

/-- What the open segment lacks for an instruction: nothing; a unit that an older segment will free; or a unit
that only it holds, so that an implicit meet is due. -/
inductive Need where
  | fine | stall | implicit
  deriving DecidableEq, Repr

/-- R217, R218: a staging slot for a tile. -/
def stageNeed (g : Griddle) (x : Segment) (tile : Nat) : Need :=
  let used := (g.segs.map fun y => y.snaps.length).foldl (· + ·) 0
  if (x.snaps.any fun e => e.1 == tile) || used < 16 then .fine
  else if used = x.snaps.length then .implicit else .stall

/-- R305: undo records for words of the own area at offsets. -/
def undoNeed (k : Core) (x : Segment) (block : Nat) (offs : List Nat) : Need :=
  let have_ (o : Nat) : Bool := k.undo.any fun u => u.owner == x.id && (match u.what with | .word b w _ _ _ => b == block && w == o | _ => false)
  let n := (((offs.map fun o => o / 4 * 4).eraseDups).filter fun o => !have_ o).length
  if n ≤ undoFree k then .fine
  else if k.undo.all fun u => u.owner == x.id || u.owner == 0 then .implicit else .stall

/-- R202: hearth write buffer entries for a gang member's area; like undo records (DEDUCED, log 27). -/
def hwbNeed (s : State) (c : Nat) (x : Segment) (n : Nat) : Need :=
  if hwbUsed s c + n ≤ 64 then .fine
  else if (coreOf s c).hwb.all fun h => h.owner == x.id || h.due.isSome then .implicit else .stall

/-- R218: the open segment closes without a signal; the next one opens once it has cleared. -/
def implicitMeet (s : State) (c : Nat) : State := modGriddle (closeSegment s c) c fun g => { g with latch := none }

/-- Goes on when a need is met, stalls, or makes the implicit meet. -/
def meetNeed (s : State) (c : Nat) (n : Need) (k : State) : State :=
  match n with | .fine => k | .stall => s | .implicit => implicitMeet s c

/-- R217: the snapshot of a tile that the open segment touches first. A tile is touched when it is written: one that the
segment only reads needs no copy (DESIGN CHOICE, log 124). -/
def stageTile (s : State) (c id tile : Nat) : State :=
  let g := (coreOf s c).griddle
  modSeg s c id fun x =>
    if x.snaps.any fun e => e.1 == tile then x else { x with snaps := x.snaps ++ [(tile, tileKeys g.tiles tile)] }

/-- Writes a tile of the open segment. -/
def writeTile (s : State) (c id tile : Nat) (v : List W32) : State :=
  modGriddle (stageTile s c id tile) c fun g => { g with tiles := putTile g.tiles tile v }

/-! ### Scratch of the stream (R302, R307 step 6) -/

/-- R302: the target block of FUNC, with its identifier. -/
def matrixTarget (s : State) (g : Griddle) (b : Block) (func : Nat) : Option (Nat × Block) :=
  if func = 0 then some (g.holder, b) else gangBlock s b.gang (func % 4)

/-- R180: the aperture address that a footprint of the stream would have. -/
def matrixAddr (func off : Nat) : Word :=
  BitVec.ofNat 64 (511 * 2 ^ 55 + (if func = 0 then 2 ^ 22 else func % 4 * 2 ^ 20) + off)

/-- R307 step 6: a range of the target area after its header (DEDUCED, log 86). -/
def rangeInArea (b : Block) (lo : Int) (n : Nat) : Bool := 128 ≤ lo && lo + (n : Int) ≤ (b.area : Int)

/-- R298, R302: the byte offset of scale entry e, from a base and a slot. -/
def scaleAt (r : BitVec 128) (base : Nat) (e : Nat) : Int := (base : Int) + slotSoff r + (e * slotKind r : Nat)

/-- The bytes of the scales of n elements; 0 without scales. -/
def scaleBytes (r : BitVec 128) (n : Nat) : Nat :=
  if slotKind r = 0 then 0 else (n + blockLen (slotBlen r) - 1) / blockLen (slotBlen r) * slotKind r

/-- R302: the scale bytes of n elements lie in the area. -/
def scalesInArea (b : Block) (r : BitVec 128) (base n : Nat) : Bool :=
  slotKind r == 0 ||
    rangeInArea b (scaleAt r base 0) (scaleBytes r n)

/-- R239, R250: the touches of the stream's reads and writes of an area, by offsets: the fault of a fill, or of a write to a read-only window,
is a trap of the stream; while a fill is under way the stream stalls; else it goes on. -/
def streamTouch (s : State) (c : Nat) (g : Griddle) (x : Segment) (func bid : Nat) (reads writes : List Nat) (k : State) : State :=
  match blockAt s bid with
  | none => k
  | some b =>
    let locs := reads.map (scratchLoc bid)
    if !(b.wins.any fun w => w.2.valid) then k
    else match reads.findSome? fun o => (byteFault s (scratchLoc bid o)).map fun e => (e, o) with
      | some (e, o) => if e = cRecall then s else matrixTrap s c x.id e 0 (matrixAddr func o) g.next
      | none => match writes.find? (writeForbidden b) with
        | some o => matrixTrap s c x.id cWindow 0 (matrixAddr func o) g.next
        | none => if touchWaits s locs then startTouches s locs else k

/-- The n offsets from one. -/
def offsets (base n : Nat) : List Nat := (List.range n).map fun i => base + i

/-- R220, R303: n bytes of scratch as the stream reads them: own writes are seen, a member's only once
released. -/
def streamBytes (s : State) (g : Griddle) (block off n : Nat) : List Byte :=
  match blockAt s block with
  | none => []
  | some b => (List.range n).map fun i =>
      if block = g.holder then memByte b.scratch (off + i) else releasedByte (coreOf s b.core) b block (off + i)

/-- R296: the unreleased owners of the words read in the own area. -/
def streamOwners (s : State) (c : Nat) (g : Griddle) (block off n : Nat) : List Nat :=
  if block = g.holder then scratchOwners (coreOf s c) block off n else []

/-- The block scale of element e of an operand in scratch (R84); 1 without scales. -/
def streamScale (s : State) (g : Griddle) (r : BitVec 128) (block base e : Nat) : Num :=
  if slotKind r = 0 then Num.ofInt 1
  else
    let a := scaleAt r base (e / blockLen (slotBlen r))
    scaleValue (slotKind r) (leNat (streamBytes s g block a.toNat (slotKind r)))

/-- R85, R302: the block scales of n consecutive elements, by block. -/
def streamScales (s : State) (g : Griddle) (r : BitVec 128) (block base n : Nat) : List Num :=
  if slotKind r = 0 then []
  else (List.range ((n + blockLen (slotBlen r) - 1) / blockLen (slotBlen r))).map fun j =>
    streamScale s g r block base (j * blockLen (slotBlen r))

/-- The scale of element e in a list by block. -/
def scaleIn (r : BitVec 128) (l : List Num) (e : Nat) : Num :=
  if slotKind r = 0 then Num.ofInt 1 else l.getD (e / blockLen (slotBlen r)) .nan

/-! ### gmma (R94, R298 to R301) -/

/-- R298: elements of a row of A: K. -/
def matrixK (r : BitVec 128) : Nat := 512 / fmtWidth (slotFmt r)

/-- R298: the lane registers of an A fragment. -/
def fragRegs (compat : Bool) (va : Nat) : List Nat := (List.range (if compat then 16 else 8)).map fun i => va + i

/-- R298: bytes of a scale image, and the registers that hold it. -/
def imageBytes (r : BitVec 128) : Nat := if slotKind r = 0 then 0 else 32 * matrixK r / blockLen (slotBlen r) * slotKind r
def imageRegs (compat : Bool) (r : BitVec 128) (vc : Nat) : List Nat :=
  (List.range ((imageBytes r + 4 * frameWidth compat - 1) / (4 * frameWidth compat))).map fun i => vc + i

/-- R298: where word w of row i lies: register and lane. -/
def fragWord (compat : Bool) (va i w : Nat) : Nat × Nat :=
  if compat then (va + w, i) else (va + w % 8, i + 32 * (w / 8))

/-- R298: the 512 words of a fragment, row by row. -/
def readFrag (t : Strand) (va : Nat) : List W32 :=
  (List.range 512).map fun n =>
    let p := fragWord t.compat va (n / 16) (n % 16)
    mgetD t.ln.vregs (64 * p.1 + p.2) 0

/-- R298: the bytes of a scale image. -/
def readImage (t : Strand) (r : BitVec 128) (vc : Nat) : List Byte :=
  let w := frameWidth t.compat
  (List.range (imageBytes r)).map fun o =>
    ((mgetD t.ln.vregs (64 * (vc + o / (4 * w)) + o % (4 * w) / 4) 0) >>> (8 * (o % 4))).setWidth 8

/-- R38: a poisoned word among the lanes that a fragment or an image takes. -/
def fragPoison (t : Strand) (r : BitVec 128) (va vc : Nat) : Bool :=
  let w := frameWidth t.compat
  (t.ln.vpoison ++ t.ln.verr).any fun k => (fragRegs t.compat va).contains (k / 64) && k % 64 < w
    || ((List.range ((imageBytes r + 3) / 4)).any fun i => k == 64 * (vc + i / w) + i % w)

/-- The scale of entry e of an image. -/
def imageScale (r : BitVec 128) (img : List Byte) (e : Nat) : Num :=
  if slotKind r = 0 then Num.ofInt 1 else scaleValue (slotKind r) (leNat ((img.drop (e * slotKind r)).take (slotKind r)))

/-- A row or column of 64 bytes as decoded and scaled values. -/
def decodeRow (r : BitVec 128) (x : Nat) (scale : Nat → Num) : List Num :=
  (List.range (matrixK r)).map fun k => scaled (decodeElem r x k) (scale k)

/-- R94: cuts terms into groups of n. -/
def groupsOf (n : Nat) : Nat → List Num → List (List Num)
  | 0, _ => []
  | k + 1, l => l.take n :: groupsOf n k (l.drop n)

/-- R94: one element: four groups in ascending order, each rounded, each added in binary32. -/
def accumulate (d : Nat) (a b : List Num) (n : Nat) : Nat :=
  (groupsOf n 4 (List.zipWith Num.mul a b)).foldl (fun d g => addF32 d (fp32.result false (Num.gsum g))) d

/-- The little-endian number of words. -/
def wordsNat (l : List W32) : Nat := l.foldr (fun w a => w.toNat + 2 ^ 32 * a) 0

/-- R299: the tile after a `gmma`. -/
def gmmaTile (s : State) (g : Griddle) (r : BitVec 128) (tile base : Nat) (frag : List W32) (img : List Byte) : List W32 :=
  let k := matrixK r
  let rows := (List.range 32).map fun i =>
    decodeRow r (wordsNat ((frag.drop (16 * i)).take 16)) fun e => imageScale r img ((i * k + e) / blockLen (slotBlen r))
  let bs := streamBytes s g g.holder base 2048
  let sc := streamScales s g r g.holder base (32 * k)
  let cols := (List.range 32).map fun j =>
    decodeRow r (leNat ((bs.drop (64 * j)).take 64)) fun e => scaleIn r sc (j * k + e)
  (List.range 32).flatMap fun i => (List.range 32).map fun j =>
    BitVec.ofNat 32 (accumulate (tileElem g.tiles tile i j).toNat (rows.getD i []) (cols.getD j []) (k / 4))

/-- The strand S of a block, when it exists and has not executed `exit` (R307 step 5). -/
def streamStrand (s : State) (c block n : Nat) : Option (Nat × Strand) :=
  (residents s c).find? fun e => e.2.block == block && e.2.number == n && !e.2.exited

/-- R301: the latched fields of a `gmma`. -/
def latchOf (f : LaneFields) (frag : List W32) (img : List Byte) : Latch :=
  { strand := f.func.toNat % 16, va := f.va, vc := f.vc, type := f.type, slot := f.slot, frag := frag, scales := img }

/-- R301: a `gmma` agrees with the latch. -/
def latchAgrees (f : LaneFields) (l : Latch) : Bool :=
  l.strand == f.func.toNat % 16 && l.va == f.va && l.vc == f.vc && l.type == f.type && l.slot == f.slot

/-- R298: the lane registers that a `gmma` reads; none while a latch is held (R301). -/
def gmmaRegs (g : Griddle) (f : LaneFields) (r : BitVec 128) (t : Strand) : List Nat :=
  if g.latch.isSome then [] else fragRegs t.compat f.va.toNat ++ imageRegs t.compat r f.vc.toNat

/-- R296: the owners that a `gmma` comes to depend on. -/
def gmmaOwners (s : State) (c : Nat) (g : Griddle) (f : LaneFields) (r : BitVec 128) (t : Strand) : List Nat :=
  let base := 2048 * f.vb.toNat
  ((t.regions.filter fun y => !y.cleared && y.lanes.any fun v => (gmmaRegs g f r t).contains v).map fun y => y.id)
    ++ streamOwners s c g g.holder base 2048
    ++ streamOwners s c g g.holder (scaleAt r base 0).toNat (scaleBytes r (32 * matrixK r))

/-- R300: the reads of a `gmma` begin: what they may find is kept as it stands. -/
def gmmaBegin (s : State) (c : Nat) (g : Griddle) (x : Segment) (f : LaneFields) (r : BitVec 128) (t : Strand) : State :=
  let y : Reading := { instr := f, regs := t.ln.vregs.filter fun e => (gmmaRegs g f r t).contains (e.1 / 64),
                       scratch := ((blockAt s g.holder).map fun b => b.scratch).getD [] }
  modGriddle (addSegDeps s c x.id (gmmaOwners s c g f r t)) c fun g => { g with reading := some y }

/-- R300: of each of these lane words, what was there when the reads began or what is there now. -/
def mixRegs (n : Nat) (old : FMap W32) (regs : List Nat) (t : Strand) : Strand :=
  let keys := (regs.flatMap fun v => (List.range 64).map fun j => 64 * v + j).filter fun k =>
    mgetD old k 0 != mgetD t.ln.vregs k 0 && Config.readsOld n k
  { t with ln := { t.ln with vregs := msets t.ln.vregs (keys.map fun k => (k, mgetD old k 0)) } }

/-- R300: the same of each 32-bit word of scratch. -/
def mixScratch (n : Nat) (old new : Memory) : Memory :=
  let offs := ((old ++ new).map fun e => e.1 / 4).eraseDups.filter fun w =>
    memNat old (4 * w) 4 != memNat new (4 * w) 4 && Config.readsOld n (65536 + w)
  memPuts new (offs.flatMap fun w => placed (4 * w) (leBytes 4 (memNat old (4 * w) 4)))

/-- R300: the state and the strand as the reads of a `gmma` find them, when it began them earlier. -/
def gmmaSees (s : State) (g : Griddle) (f : LaneFields) (r : BitVec 128) (t : Strand) : State × Strand :=
  match g.reading with
  | none => (s, t)
  | some y =>
    if y.instr != f then (s, t)
    else (modBlock s g.holder fun b => { b with scratch := mixScratch s.fresh y.scratch b.scratch },
          mixRegs s.fresh y.regs (gmmaRegs g f r t) t)

/-- R299, R300: a `gmma` whose checks have passed. -/
def gmmaPerform (s : State) (c : Nat) (g : Griddle) (x : Segment) (f : LaneFields) (r : BitVec 128) (t : Strand) : State :=
  let base := 2048 * f.vb.toNat
  let seen := gmmaSees s g f r t
  let frag := match g.latch with | some l => l.frag | none => readFrag seen.2 f.va.toNat
  let img := match g.latch with | some l => l.scales | none => readImage seen.2 r f.vc.toNat
  let tile := gmmaTile seen.1 g r f.vd.toNat base frag img
  let s := addSegDeps { s with fresh := s.fresh + 1 } c x.id (gmmaOwners s c g f r t)
  let s := writeTile s c x.id f.vd.toNat tile
  let macs := 1024 * matrixK r
  let s := modSeg s c x.id fun x => { x with counts := addCount x.counts 4 macs }
  let s := modAccount s t.part (acctOf s t.part t.grid) fun a => { a with gross := addWord a.gross 4 macs }
  matrixDone (modGriddle s c fun g =>
    { g with reading := none, latch := if f.func.getLsbD 4 then some (latchOf f frag img) else none }) c

/-- R298, R301, R307: the checks of a `gmma`, and what it goes on with. -/
def gmmaRun (f : LaneFields) (s : State) (k : State → Nat → Griddle → Segment → LaneFields → BitVec 128 → Strand → State) : Out :=
  matrixRun f s fun s c g b x =>
    let base := 2048 * f.vb.toNat
    let n := g.next
    match matrixSlot s b f with
    | none => matrixTrap s c x.id 0x02 0x09 0 n
    | some r =>
      if (slotKind r = 0 && f.vc ≠ 0) || (g.latch.any fun l => !latchAgrees f l) then matrixTrap s c x.id 0x02 0x09 0 n
      else match streamStrand s c g.holder (f.func.toNat % 16) with
        | none => matrixTrap s c x.id cGriddleOperand 0 0 n
        | some (l, t) =>
          let regs := fragRegs t.compat f.va.toNat ++ imageRegs t.compat r f.vc.toNat
          if regs.any fun v => 32 * t.vblk ≤ v then matrixTrap s c x.id 0x05 0 0 n
          else if t.vpend.any fun e => regs.contains e.1 then s
          else if g.latch.isNone && fragPoison t r f.va.toNat f.vc.toNat then
            matrixTrap (raiseError s 0x05 2 (errSource 0 c) none l) c x.id 0x06 0 0 n
          else if !rangeInArea b base 2048 || !scalesInArea b r base (32 * matrixK r) then
            matrixTrap s c x.id cScratch 0 (matrixAddr 0 base) n
          else
            streamTouch s c g x 0 g.holder (offsets base 2048 ++ offsets (scaleAt r base 0).toNat (scaleBytes r (32 * matrixK r))) [] <|
              meetNeed s c (stageNeed g x f.vd.toNat) (k s c g x f r t)

/-- R298 to R301, R307. -/
def execGmma (f : LaneFields) (s : State) : Out := gmmaRun f s gmmaPerform

/-- R300: a `gmma` begins its reads, which end when it executes. -/
def beginReads (f : LaneFields) (s : State) : Out := gmmaRun f s gmmaBegin

/-! ### Tiles in and out (R302, R303) -/

/-- R302: bytes of a tile in a slot's format. -/
def tileBytes (r : BitVec 128) : Nat := 128 * fmtWidth (slotFmt r)

/-- What `gldb` and `gst` share: the slot, the target and the range checks. -/
def tileRun (f : LaneFields) (s : State) (k : State → Nat → Griddle → Segment → BitVec 128 → Nat → Block → Nat → State) : Out :=
  matrixRun f s fun s c g b x =>
    match matrixSlot s b f with
    | none => matrixTrap s c x.id 0x02 0x09 0 g.next
    | some r =>
      let base := 2048 * f.vb.toNat
      match matrixTarget s g b f.func.toNat with
      | none => matrixTrap s c x.id cScratch 0 (matrixAddr f.func.toNat base) g.next
      | some (bid, y) =>
        if !rangeInArea y base (tileBytes r) || !scalesInArea y r base 1024 then
          matrixTrap s c x.id cScratch 0 (matrixAddr f.func.toNat base) g.next
        else k s c g x r bid y base

/-- R303: the elements of a tile in memory, decoded, scaled and widened. -/
def gldbTile (s : State) (g : Griddle) (r : BitVec 128) (block base : Nat) : List W32 :=
  let x := leNat (streamBytes s g block base (tileBytes r))
  let sc := streamScales s g r block base 1024
  (List.range 1024).map fun e => BitVec.ofNat 32 (fp32.result false (scaled (decodeElem r x e) (scaleIn r sc e)))

/-- R303. -/
def execGldb (f : LaneFields) (s : State) : Out :=
  tileRun f s fun s c g x r bid _ base =>
    let soff := (scaleAt r base 0).toNat
    let deps := streamOwners s c g bid base (tileBytes r) ++ streamOwners s c g bid soff (scaleBytes r 1024)
    streamTouch s c g x f.func.toNat bid (offsets base (tileBytes r) ++ offsets soff (scaleBytes r 1024)) [] <|
      meetNeed s c (stageNeed g x f.vd.toNat)
        (matrixDone (writeTile (addSegDeps s c x.id deps) c x.id f.vd.toNat (gldbTile s g r bid base)) c)

/-- R303: the bytes of a tile in a slot's format, and whether one of them saturated. -/
def gstBytes (s : State) (g : Griddle) (r : BitVec 128) (tile block base : Nat) (scale : Int) : List Byte × Bool :=
  let sc := streamScales s g r block base 1024
  let v (e : Nat) : Num := Num.scale (fp32.decode (tileElem g.tiles tile (e / 32) (e % 32)).toNat) scale
  if slotFmt r = 6 then
    let l := (List.range 512).map fun p => encodeQ r (v (2 * p)) (v (2 * p + 1)) (scaleIn r sc (2 * p)) (scaleIn r sc (2 * p + 1))
    (l.map fun e => BitVec.ofNat 8 e.1, l.any fun e => e.2)
  else
    let l := (List.range 1024).map fun e => encodeElem r (v e) (scaleIn r sc e)
    (l.flatMap fun e => leBytes (fmtWidth (slotFmt r) / 8) e.1, l.any fun e => e.2)

/-- R303: the writes of a `gst`: in place, or through the hearth write buffer. -/
def gstWrite (s : State) (c : Nat) (g : Griddle) (x : Segment) (bid base : Nat) (l : List Byte) : State :=
  if bid = g.holder then scratchPuts s c x.id bid (placed base l)
  else
    (List.range ((l.length + 127) / 128)).foldl (fun s i =>
      let own := (blockAt s g.holder).map fun b => (b.part, b.grid)
      let h : HwbEntry := { id := s.nextId, part := (own.map fun e => e.1).getD 0, grid := (own.map fun e => e.2).getD 0, due := none, owner := x.id, slot := 64, block := bid, off := base + 128 * i,
                            bytes := placed (base + 128 * i) ((l.drop (128 * i)).take 128), add := none, reduce := none,
                            issuer := (g.holder, 64), lane := false, seq := 0, place := BitVec.ofNat 64 g.next }
      modCore { s with nextId := s.nextId + 1 } c fun k => { k with hwb := k.hwb ++ [h] }) s

/-- R303. -/
def execGst (f : LaneFields) (s : State) : Out :=
  tileRun f s fun s c g x r bid _ base =>
    let k := coreOf s c
    let n := tileBytes r
    let need := if bid = g.holder then undoNeed k x bid ((List.range (n / 4)).map fun i => base + 4 * i)
      else hwbNeed s c x ((n + 127) / 128)
    let e := gstBytes s g r f.va.toNat bid base (sgn 3 f.scale.toNat)
    let s1 := addSegDeps s c x.id (streamOwners s c g bid (scaleAt r base 0).toNat (scaleBytes r 1024))
    let s2 := if e.2 then modSeg s1 c x.id fun y =>
        { y with sticky := y.sticky ||| ((1 : BitVec 7) <<< slotFmt r), arm := y.arm || slotArm r }
      else s1
    streamTouch s c g x f.func.toNat bid (offsets (scaleAt r base 0).toNat (scaleBytes r 1024)) (offsets base n) <|
      meetNeed s c need (matrixDone (gstWrite s2 c g x bid base e.1) c)

/-- R303: every element of the tile becomes +0. -/
def execGclr (f : LaneFields) (s : State) : Out :=
  matrixRun f s fun s c g _ x =>
    meetNeed s c (stageNeed g x f.vd.toNat) (matrixDone (writeTile s c x.id f.vd.toNat []) c)

/-- R303: copies a tile, transposed when `tr`. -/
def moveTile (f : LaneFields) (s : State) (tr : Bool) : Out :=
  matrixRun f s fun s c g _ x =>
    let v := (List.range 1024).map fun e =>
      if tr then tileElem g.tiles f.va.toNat (e % 32) (e / 32) else tileElem g.tiles f.va.toNat (e / 32) (e % 32)
    meetNeed s c (stageNeed g x f.vd.toNat) (matrixDone (writeTile s c x.id f.vd.toNat v) c)

/-- R303. -/
def execGmov (f : LaneFields) (s : State) : Out := moveTile f s false

/-- R303: the transpose, in place when D = A. -/
def execGmovTr (f : LaneFields) (s : State) : Out := moveTile f s true

/-! ### Meets (R304) -/

/-- R304: the fields of a meet. -/
def waitPoint (f : LaneFields) : Nat := f.imm.toNat % 16
def signalPoint (f : LaneFields) : Nat := f.imm.toNat / 16 % 16
def waits (f : LaneFields) : Bool := f.imm.getLsbD 8
def signals (f : LaneFields) : Bool := f.imm.getLsbD 9

/-- R294, R304: closes the segment and makes the signal add, which wakes the strands whose meet it completes; true when the add overflowed. -/
def signalMeet (s : State) (c : Nat) (g : Griddle) (x : Segment) (f : LaneFields) : State × Bool :=
  let off := 8 * signalPoint f
  let amt : Word := f.vc.setWidth 64
  let old := BitVec.ofNat 64 (((blockAt s g.holder).map fun b => memNat b.scratch off 8).getD 0)
  let sum := if old.toNat + amt.toNat < 2 ^ 64 then old + amt else -1
  let s := if signals f then addSegDeps s c x.id (streamOwners s c g g.holder off 8) else s
  let s := modGriddle (closeSegment s c) c fun g => { g with latch := none }
  if signals f then
    let s := scratchPuts s c x.id g.holder (placed off (leBytes 8 sum.toNat))
    (if meetsMet s g.holder then wakeCore s c 4 else s, 2 ^ 64 ≤ old.toNat + amt.toNat)
  else (s, false)

/-- R305: what a meet needs: two undo records for its signal. -/
def signalNeed (s : State) (c : Nat) (g : Griddle) (x : Segment) (f : LaneFields) : Need :=
  if signals f then undoNeed (coreOf s c) x g.holder [8 * signalPoint f, 8 * signalPoint f + 4] else .fine

/-- R304: the counter-overflow trap of a signal: the stream stops after the instruction. -/
def signalTrap (s : State) (c : Nat) (g : Griddle) (x : Segment) : State := matrixTrap s c x.id 0x17 0 0 (numberAfter g.next)

/-- R304: the wait of a meet holds: enough unconsumed amount, as the core sees it. -/
def meetReady (s : State) (g : Griddle) (w : Nat × Nat) : Bool :=
  match blockAt s g.holder with
  | none => false
  | some b => w.2 ≤ (BitVec.ofNat 64 (memNat b.scratch (8 * w.1) 8) - mgetD b.cursors w.1 0).toNat

/-- R304: the end of the wait: the amount is consumed and the stream goes on. -/
def endMeet (s : State) (c : Nat) (g : Griddle) (id : Nat) (w : Nat × Nat) : State :=
  let s := addSegDeps s c id (streamOwners s c g g.holder (8 * w.1) 8)
  let s := modBlock s g.holder fun b => { b with cursors := mset b.cursors w.1 (mgetD b.cursors w.1 0 + BitVec.ofNat 64 w.2) }
  matrixDone (modGriddle s c fun g => { g with waiting := none }) c

/-- R304: closes the segment, signals, opens the next one and waits. -/
def execGmeet (f : LaneFields) (s : State) : Out :=
  matrixRun f s fun s c g _ x =>
    if 16 ≤ liveSegs g then s
    else meetNeed s c (signalNeed s c g x f) (
      let r := signalMeet s c g x f
      if r.2 then signalTrap r.1 c g x
      else if !waits f then matrixDone (openSegment r.1 c (numberAfter g.next) none) c
      else
        let w := (waitPoint f, f.vb.toNat)
        let id := r.1.nextId
        let s := openSegment r.1 c g.next (some w)
        if meetReady s g w then endMeet s c g id w
        else modGriddle s c fun g => { g with waiting := some w })

/-- R304: closes the segment, signals and stops the stream. -/
def execGend (f : LaneFields) (s : State) : Out :=
  matrixRun f s fun s c g _ x =>
    meetNeed s c (signalNeed s c g x f) (
      let r := signalMeet s c g x f
      if r.2 then signalTrap r.1 c g x
      else modGriddle (matrixDone r.1 c) c fun g => { g with run := false })

/-! ### Events of the sequencer -/

/-- R304: the wait of a `gmeet` ends. -/
def execEvMeetWaitSatisfied (c : Nat) (s : State) : Out :=
  let g := (coreOf s c).griddle
  match g.waiting, openSeg g with
  | some w, some x => if g.held && g.run && meetReady s g w then .next (endMeet s c g x.id w) else .next s
  | _, _ => .next s

end Sys2Proof.Machine
end

