-- ==== Sys2Proof/Machine/Turn.lean ====
section
/-! DEFINITION. What an agent that moves does next: fetching and decoding its instruction (spec/02 R40, R61,
spec/05 R141, spec/06 R181, R185, spec/11 R293), and what follows an instruction of a strand (spec/06 R182,
R187, spec/18 R383). -/

namespace Sys2Proof.Machine

open Sys2Proof

/-- What an agent does at its turn: an instruction, or an event of its stream: the start of the next clause (R14),
the trap of a reserved word (R61) or of a fetch outside its section (R40), the two events of the sequencer (R218,
R304), the end of a policy run that leaves its words (R341). -/
inductive Next where
  | instr (i : Instr)
  | clauseStart (core slot : Nat)
  | reserved (stream : Stream) (cause : BitVec 8)
  | fetchFault (stream : Stream)
  | openSegment (core : Nat)
  | meetReady (core : Nat)
  | overrun (part : Nat)
  deriving DecidableEq, Repr

/-- A trap of the strand is deliverable and is delivered first (R376). -/
def trapReady (t : Strand) : Bool := (nextTrap t).isSome

/-- R206, R368, R370, R430: a strand that may issue at all. A pending trap is delivered before its first instruction,
after the REMAT clause. -/
def mayIssue (s : State) (c : Nat) (t : Strand) : Bool :=
  !t.stopped && (!trapReady t || rematWaits t) && !(coreOf s c).stopped && !hearthStopped s (hearthOf c)

/-- R185, R210, R382: the scalar side may issue. It is stopped while a lane atomic or release holds it. -/
def scalarMay (s : State) (c : Nat) (t : Strand) : Bool :=
  mayIssue s c t && !t.exited && !t.saving && (!t.halted || t.stepping == 1) && t.lphase == .idle
    && !(t.swait == .counter && t.sphase == .headed && !t.wake) && !rematWaits t

/-- R181, R191: an operand collector of the strand's partition is free, or the instruction holds one. -/
def collectorFree (s : State) (c l : Nat) (t : Strand) : Bool :=
  t.collects || ((residents s c).filter fun e => e.1 % 4 == l % 4 && e.2.collects).length < Config.collectors

/-- R185, R382: the lane side may issue. An atomic whose requests are at the link partner is finished. -/
def laneMay (s : State) (c : Nat) (t : Strand) : Bool :=
  mayIssue s c t && (!t.saving || t.lphase == .requested) && (!t.halted || t.stepping != 0)

/-- R61: the answer of a decoder as what the stream does next. -/
def reservedOr (st : Stream) : Except Reject Instr → Next
  | .ok i => .instr i
  | .error r => .reserved st r.cause

/-- R40, R97: the next scalar instruction. -/
def nextScalar (s : State) (c l : Nat) : Option Next :=
  match strandAt s c l with
  | none => none
  | some t =>
    if !scalarMay s c t || codeOwned s c t.part t.sc.spc 4 then none
    else match fetchScalar s c t t.sc.spc 4 with
      | .error _ => some (.fetchFault .scalar)
      | .ok bs => some (reservedOr .scalar (decodeScalar (BitVec.ofNat 32 (leNat bs))))

/-- R14, R40: the next lane instruction, or the start of the next clause. -/
def nextLane (s : State) (c l : Nat) : Option Next :=
  match strandAt s c l with
  | none => none
  | some t =>
    if !laneMay s c t then none
    else match t.st.current with
      | none => if t.st.queue.isEmpty then none else some (.clauseStart c l)
      | some r =>
        if laneOwned s c t (r.entry.clause.toNat + r.index) || !collectorFree s c l t then none
        else match fetchLane s c t (r.entry.clause.toNat + r.index) with
        | .error _ => some (.fetchFault .lane)
        | .ok bs => some (reservedOr .lane (decodeLane (BitVec.ofNat 96 (leNat bs))))

/-- R293: the matrix stream of a core runs for a block whose gang is resident. -/
def matrixMay (s : State) (c : Nat) : Bool :=
  let g := (coreOf s c).griddle
  g.held && g.run && !(coreOf s c).stopped && !hearthStopped s (hearthOf c) && match blockAt s g.holder with
    | some b => ((gangAt s b.part b.gang).map fun e => e.2.state == .resident).getD false
    | none => false

/-- R293, R304, R218: the next matrix instruction, the end of a meet's wait, or the opening of a segment. -/
def nextMatrix (s : State) (c : Nat) : Option Next :=
  let g := (coreOf s c).griddle
  if !matrixMay s c then none
  else match g.waiting with
    | some w => if meetReady s g w then some (.meetReady c) else none
    | none =>
      if (openSeg g).isNone then (if liveSegs g = 0 then some (.openSegment c) else none)
      else match blockAt s g.holder with
        | none => none
        | some b =>
          if (recordOf s b.part b.grid).any fun r => codeOwned s c b.part (r.mcode + BitVec.ofNat 64 (12 * g.next)) 12 then none
          else match fetchMatrix s c b g.next with
          | .error _ => some (.fetchFault .matrix)
          | .ok bs => some (reservedOr .matrix (decodeMatrix (BitVec.ofNat 96 (leNat bs))))

/-- R300: the next instruction of a matrix stream, if it is a `gmma`, begins its reads. -/
def readsBegin (c : Nat) (s : State) : State :=
  match nextMatrix s c with
  | some (.instr (.gmma f)) => match beginReads f { s with agent := .matrix c } with
    | .next t => { t with agent := .none }
    | _ => s
  | _ => s

/-- R340: the instruction at the program counter of a decision. -/
def nextDamper (s : State) (p : Nat) : Option Next :=
  match (partAt s p).interp with
  | none => none
  | some i =>
    match decodeDamper (i.policy.getD i.pc 0) (i.policy.getD (i.pc + 1) 0) with
    | .ok (x, _) => some (.instr x)
    | .error _ => some (.overrun p)

/-- What an agent does at its turn; nothing when it may not issue. -/
def nextOf (s : State) : Agent → Option Next
  | .none => none
  | .scalar c l => nextScalar s c l
  | .lane c l => nextLane s c l
  | .matrix c => nextMatrix s c
  | .damper p => nextDamper s p

/-- R10, R166: a lane instruction of the memory or transfer slot. -/
def transferSlot : Instr → Bool
  | .vshfl _ | .vbcast _ | .vbcastFirst _ | .vscan _ | .vballot _ | .vballotCnt _ | .vred _ | .vmbox _ | .vmboxLast _
  | .vld _ | .vldAcquire _ | .vst _ | .vstRelease _ | .vlds _ | .vsts _ | .vatom _ | .vatomCas _ | .vredm _ | .vpref _ => true
  | _ => false

/-- R10: the issue slot of what a side does next: scalar, lane arithmetic, lane memory or transfer; a clause starts in none. -/
def issueSlot (a : Agent) (n : Next) : Option Nat :=
  match a, n with
  | .scalar _ _, _ => some 0
  | .lane _ _, .instr i => some (if transferSlot i then 2 else 1)
  | .lane _ _, .clauseStart _ _ => none
  | .lane _ _, _ => some 1
  | _, _ => none

/-- R181: a side of a strand is ready for an issue slot. -/
def readyFor (s : State) (c l slot : Nat) (t : Strand) : Bool :=
  let now (a : Agent) (n : Option Next) : Bool := n.any fun x => issueSlot a x == some slot
  if slot = 0 then (t.swait == .none || (t.swait == .counter && t.wake)) && now (.scalar c l) (nextScalar s c l)
  else t.lwait == .none && now (.lane c l) (nextLane s c l)

/-- R182: of two strands, the one whose last issue in a slot is the earlier; of two that have issued nothing, the one placed
first, and of two placed at one tick the one in the lower strand slot (DESIGN CHOICE, log 133). -/
def issuedBefore (slot : Nat) (a b : Nat × Strand) : Bool :=
  let x := a.2.issued.getD slot 0
  let y := b.2.issued.getD slot 0
  x < y || (x == y && (a.2.placed < b.2.placed || (a.2.placed == b.2.placed && a.1 < b.1)))

/-- R182: a slot of a partition grants a strand: no other strand of the partition that is ready for it comes first. -/
def granted (s : State) (c l slot : Nat) (t : Strand) : Bool :=
  !((residents s c).any fun e => e.1 % 4 == l % 4 && e.1 != l && issuedBefore slot e (l, t) && readyFor s c e.1 slot e.2)

/-- R182: what an agent does at its turn, when its issue slot grants it. -/
def grantedNext (s : State) (a : Agent) : Option Next :=
  (nextOf s a).filter fun n => match a, issueSlot a n with
    | .scalar c l, some k => (strandAt s c l).any fun t => granted s c l k t
    | .lane c l, some k => (strandAt s c l).any fun t => granted s c l k t
    | _, _ => true

/-- R398: the fetch of an agent's next instruction keeps the translations that it walks. -/
def keepFetch (s : State) (a : Agent) : State :=
  match a with
  | .scalar c l => match strandAt s c l with
    | some t => keepCode s c t.part t.sc.spc 4
    | none => s
  | .lane c l => match (strandAt s c l).bind fun t => t.st.current.bind fun r => (recordOf s t.part t.grid).map fun q => (t.part, laneUnit q (r.entry.clause.toNat + r.index)) with
    | some (p, x) => keepCode s c p x 12
    | none => s
  | .matrix c => match (blockAt s (coreOf s c).griddle.holder).bind fun b => (recordOf s b.part b.grid).map fun q => (b.part, q.mcode) with
    | some (p, x) => keepCode s c p (x + BitVec.ofNat 64 (12 * (coreOf s c).griddle.next)) 12
    | none => s
  | _ => s

/-- R182: notes the last issue of a strand in a slot of its partition; the reasons of a wake are complete (R187). -/
def noteIssue (s : State) (c l slot : Nat) : State :=
  let n := (coreOf s c).cycle + 1
  modCore (modStrand (retryCore s c) c l fun t => { t with issued := (List.range 3).map fun k => if k = slot then n else t.issued.getD k 0 }) c
    fun k => { k with settling := false, cycle := n }

/-- R18, R21, R33: a lane instruction that waits for a pending register, or for a full mailbox to be read, waits in an operand
collector. -/
def collectorWait (t : Strand) : Bool := t.lphase == .idle && (t.lwait == .pending || t.lwait == .mailboxFull)

/-- R182, R187, R383: what follows an instruction of a strand: when it has issued, its slot's rotation is noted
and a debugger step of that side ends; one that has not may hold an operand collector. -/
def afterIssue (a : Agent) (memory : Bool) (s : State) : State :=
  match a with
  | .scalar c l =>
    match strandAt s c l with
    | none => s
    | some t => if t.swait != .none then s
      else noteIssue (if t.stepping = 1 then modStrand s c l fun t => { t with stepping := 0 } else s) c l 0
  | .lane c l =>
    match strandAt s c l with
    | none => s
    | some t => if t.lwait != .none then modStrand s c l fun t => { t with collects := t.collects || collectorWait t }
      else noteIssue (modStrand s c l fun t => { t with stepping := if t.stepping = 2 then 0 else t.stepping, collects := false }) c l
        (if memory then 2 else 1)
  | _ => s

end Sys2Proof.Machine
end

