-- ==== Sys2Proof/Machine/StreamEvents.lean ====
section
/-! DEFINITION. Events of the instruction streams: clause starts (spec/01 R14, spec/02 R55), reserved words (R61), failed
fetches (R40), and the second half of an implicit meet (spec/07 R218). -/

namespace Sys2Proof.Machine

open Sys2Proof

/-- A trap against the clause at the front of the queue, with instruction index 0 (R55, R118). -/
def clauseTrap (s : State) (c l : Nat) (q : Queued) (code detail : Nat) (faddr : Word) : State :=
  match strandAt s c l with
  | none => s
  | some t =>
    holdTrap s c l { record := trapRec code .lane detail 0 (q.clause.setWidth 64) q.exec faddr, kind := .own,
                     region := q.region, seq := q.seq, ready := none, resume := t.sc.spc }

/-- R14, R235: what a clause whose header has been checked still waits for. -/
def clauseWaits (t : Strand) (q : Queued) (h : Header) : Bool :=
  ((List.range 12).any fun n => h.wait.getLsbD n && flagCount t n != 0)
    || t.ops.any fun o => o.acquire.isSome && o.seq.toNat < q.seq.toNat

/-- R14: a clause starts. -/
def startClause (s : State) (c l : Nat) (t : Strand) (q : Queued) (rest : List Queued) (h : Header) : State :=
  if clauseWaits t q h then
    putStrand s c l { t with lwait := .flags, st := { t.st with queue := { q with header := some h } :: rest } }
  else
    let run : Running := { entry := { q with header := some h }, header := h, index := 1 }
    putStrand s c l { t with lwait := .none, st := { queue := rest, current := some run } }

/-- R14, R54, R55, R118: once the previous clause has issued its last instruction, the header of the next one is read
and checked, and the clause starts when the flags of its wait mask are clear. -/
def execEvClauseStart (c l : Nat) (s : State) : Out :=
  match strandAt s c l with
  | none => .next s
  | some t =>
    if !laneMay s c t || t.st.current.isSome then .next s
    else match t.st.queue with
      | [] => .next s
      | q :: rest =>
        match q.header with
        | some h => .next (startClause s c l t q rest h)
        | none =>
          if laneOwned s c t q.clause.toNat then .next s
          else match fetchLane s c t q.clause.toNat with
          | .error k => .next (clauseTrap s c l q k 0 (fetchAddr k (((recordOf s t.part t.grid).map fun r => laneUnit r q.clause.toNat).getD 0)))
          | .ok bs =>
            match readHeader (leNat bs) with
            | none => .next (clauseTrap s c l q 0x02 0x07 0)
            | some h => .next (startClause s c l t q rest h)

/-- The active lanes of the word that a clause issues, for a trap record (R141). -/
def wordLanes (s : State) (c : Nat) (t : Strand) (r : Running) : Nat :=
  match fetchLane s c t (r.entry.clause.toNat + r.index) with
  | .error _ => r.entry.exec.toNat
  | .ok bs =>
    let f := laneFields (BitVec.ofNat 96 (leNat bs))
    if predLegal f then activeLanes t r f else r.entry.exec.toNat

/-- R61, R62, R307: a reserved word takes its trap before any effect, in the stream that runs. -/
def execEvReservedEncoding (st : Stream) (cause : BitVec 8) (s : State) : Out :=
  match st, s.agent with
  | .scalar, .scalar c l => .next (scalarTrap s c l 0x02 cause.toNat)
  | .lane, .lane c l =>
    match (strandAt s c l).bind fun t => t.st.current.map fun r => (t, r) with
    | some (t, r) => .next (laneTrap s c l 0x02 cause.toNat (BitVec.ofNat 64 (wordLanes s c t r)) 0)
    | none => .next s
  | .matrix, .matrix c =>
    match openSeg (coreOf s c).griddle with
    | some x => .next (matrixTrap s c x.id 0x02 cause.toNat 0 (coreOf s c).griddle.next)
    | none => .next s
  | _, _ => .next s

/-- R40, R397: a fetch that fails traps at the instruction whose fetch failed. -/
def execEvInstructionFetchFault (st : Stream) (s : State) : Out :=
  match st, s.agent with
  | .scalar, .scalar c l =>
    match strandAt s c l with
    | none => .next s
    | some t => match fetchScalar s c t t.sc.spc 4 with
      | .ok _ => .next s
      | .error k => .next (scalarFault s c l k (fetchAddr k t.sc.spc))
  | .lane, .lane c l =>
    match (strandAt s c l).bind fun t => t.st.current.map fun r => (t, r) with
    | none => .next s
    | some (t, r) =>
      let n := r.entry.clause.toNat + r.index
      match fetchLane s c t n with
      | .ok _ => .next s
      | .error k => .next (laneTrap s c l k 0 r.entry.exec
          (fetchAddr k (((recordOf s t.part t.grid).map fun q => laneUnit q n).getD 0)))
  | .matrix, .matrix c =>
    let g := (coreOf s c).griddle
    match openSeg g, blockAt s g.holder with
    | some x, some b => match fetchMatrix s c b g.next with
      | .ok _ => .next s
      | .error k => .next (matrixTrap s c x.id k 0
          (fetchAddr k (((recordOf s b.part b.grid).map fun r => r.mcode + BitVec.ofNat 64 (12 * g.next)).getD 0)) g.next)
    | _, _ => .next s
  | _, _ => .next s

/-- R218: the instruction that lacked a unit has closed the segment; once it has cleared the sequencer opens the next
one at that instruction. -/
def execEvImplicitMeet (c : Nat) (s : State) : Out :=
  let g := (coreOf s c).griddle
  if matrixMay s c && g.waiting.isNone && (openSeg g).isNone && liveSegs g = 0 then
    .next (openSegment s c g.next none)
  else .next s

end Sys2Proof.Machine
end

