-- ==== Sys2Proof/Machine/RegionEvents.lean ====
section
/-! DEFINITION. Events of regions, segments and sensors (spec/07 R194 to R206, R217, spec/11 R303 to R307), the
region-resource trap (R209), and the delivery of a trap (spec/18 R376 to R378). -/

namespace Sys2Proof.Machine

open Sys2Proof

/-! ### Regions -/

/-- R204: the effective close of a closed region whose dependences are determined. -/
def determineRegion (s : State) (c l : Nat) (r : Region) (cl : Nat) : State :=
  let ec := effectiveClose s c cl r.deps
  let s := modStrand s c l fun t => modRegion t r.id fun r => { r with ec := some ec }
  sendCloses s c l r ec

/-- R204, R212: the effective close of a region, or (slot 64) of a segment, becomes determined and its CLOSE
messages depart. -/
def execEvEffectiveCloseDetermined (c l id : Nat) (s : State) : Out :=
  if l = 64 then
    match (coreOf s c).griddle.segs.find? fun g => g.id == id && g.ec.isNone with
    | none => .next s
    | some g => match g.close with
      | none => .next s
      | some cl => if depsKnown s c g.deps then .next (modSeg s c id fun x => { x with ec := some (effectiveClose s c cl g.deps) })
        else .next s
  else
    match (strandAt s c l).bind fun t => (regionAt t id).filter fun r => r.ec.isNone with
    | none => .next s
    | some r => match r.close with
      | none => .next s
      | some cl => if depsKnown s c r.deps then .next (determineRegion s c l r cl) else .next s

/-- R373: counts of an account enter NET. -/
def countNet (s : State) (p a : Nat) (counts : FMap Nat) : State :=
  modAccount s p a fun x => { x with net := counts.foldl (fun m e => addWord m e.1 e.2) x.net }

/-- R376: the held traps of a strand whose regions have all cleared become deliverable. -/
def readyTraps (now : Nat) (t : Strand) : Strand :=
  { t with traps := t.traps.map fun h =>
      if h.ready.isNone && t.regions.all fun r => h.region < r.id || r.cleared then { h with ready := some now } else h }

/-- R226: a cleared owner no longer quarantines a line. -/
def unquarantine (s : State) (c id : Nat) : State :=
  modCore s c fun k => { k with l1 := k.l1.map fun x => { x with quar := x.quar.filter fun q => q != id } }

/-- R202: at clearance the entries of an owner are sent, to be applied at ec + Q_die. -/
def sendEntries (s : State) (c id tick : Nat) : State :=
  modCore s c fun k => { k with hwb := k.hwb.map fun h => if h.owner == id then { h with due := some tick } else h }

/-- R200, R202, R219: a region clears: its undo records and lines are freed, its counts enter NET (R373), its
traps become deliverable (R206) and its copies may write. -/
def clearRegion (s : State) (c l : Nat) (t : Strand) (r : Region) (ec : Nat) : State :=
  let s := noteWatches (sendEntries (unquarantine (freeUndo s c [r.id]) c r.id) c r.id (ec + r.qdie))
  let s := countNet s t.part (acctOf s t.part t.grid) r.counts
  let s : State := { s with copies := s.copies.map fun y => if y.region == r.id then { y with cleared := some (ec, r.qdie, r.qpkg) } else y }
  let gone := (t.batches.filter fun b => b.token.isSome && b.region == r.id).flatMap fun b => b.copies
  let s : State := { s with copies := s.copies.filter fun y => !gone.contains y.id }
  let s := modStrand s c l fun t => readyTraps s.now (modRegion t r.id fun r => { r with cleared := true, counts := [] })
  wakeCore s c 0x10

/-- R200: at ec + Q_core the region clears. -/
def execEvRegionCleared (c l id : Nat) (s : State) : Out :=
  match (strandAt s c l).bind fun t => (regionAt t id).map fun r => (t, r) with
  | none => .next s
  | some (t, r) => match r.ec with
    | none => .next s
    | some ec => if r.cleared || s.now < ec + r.qcore then .next s else .next (clearRegion s c l t r ec)

/-- R380: the latest 32 of a strand's released adds, and the number of older ones. -/
def keepAdds (t : Strand) (l : List (Word × Word)) : Strand :=
  let all := t.adds ++ l
  { t with adds := all.drop (all.length - 32), addLost := t.addLost + (all.length - 32) }

/-- R200: at ec + W(region) the region is no longer unreleased. -/
def execEvRegionReleased (c l id : Nat) (s : State) : Out :=
  match (strandAt s c l).bind fun t => (regionAt t id).map fun r => (t, r) with
  | none => .next s
  | some (t, r) => match r.ec with
    | none => .next s
    | some ec =>
      if !r.cleared || s.now < ec + windowOf r || ((coreOf s c).hwb.any fun h => h.owner == id) then .next s
      else
        let s := putStrand s c l (keepAdds { t with regions := t.regions.filter (fun x => x.id != id), lastTag := (r.serial, ec + r.qpkg) } r.adds)
        .next (wakeCore s c 0x10)

/-! ### The hearth write buffer (R202) -/

/-- R202, R262: what an entry does to the area it names. -/
def applyEntry (s : State) (h : HwbEntry) : State :=
  let s := h.bytes.foldl (fun s e => arrayApply s h.block e.1 1 fun _ => [e.2]) s
  let s := match h.add with
    | some a => arrayApply s h.block h.off 8 fun l => leBytes 8 (satAdd (BitVec.ofNat 64 (leNat l)) a).toNat
    | none => s
  match h.reduce with
  | some (op, ty, v) =>
    let n := typeWidth ty.toNat / 8
    arrayApply s h.block h.off n fun l => leBytes n (atomNew op.toNat ty.toNat (leNat l) v.toNat 0)
  | none => s

/-- A segment has cleared and has left no entry behind. -/
def segmentGone (k : Core) (g : Segment) : Bool := g.cleared && !(k.hwb.any fun h => h.owner == g.id)

/-- Segments that have cleared and left no entry behind are gone. -/
def dropSegments (s : State) (c : Nat) : State :=
  let gone := ((coreOf s c).griddle.segs.filter (segmentGone (coreOf s c))).map fun g => g.id
  modCore (freeUndo s c gone) c fun k => { k with griddle := { k.griddle with segs := k.griddle.segs.filter fun g => !gone.contains g.id } }

/-- R304, R305: the undo records of a segment that clears are freed. While writes of it to a gang member's area still
wait, those of its signal stay, for an observer on another core sees the signal after those writes (DEDUCED, log 36). -/
def freeSegment (s : State) (c : Nat) (x : Segment) : State :=
  if (coreOf s c).hwb.any fun h => h.owner == x.id then
    freeUndoBut s c [x.id] fun u => match u.what with | .word _ o _ _ _ => decide (o < 128) | _ => false
  else freeUndo s c [x.id]

/-- R266: the overflow of an add to a gang member's area, in the strand that made it, wherever that stands. -/
def entryTrap (s : State) (c : Nat) (h : HwbEntry) : State :=
  let mine (t : Strand) : Bool := (t.block, t.number) == h.issuer
  if h.slot < 64 && (strandAt s c h.slot).any mine then overflowTrap s c h.slot h.owner h.seq h.place true
  else goneTrap s h.part h.grid c mine h.owner h.seq h.place

/-- Locations that an entry of the hearth write buffer changes. -/
def entryLocs (h : HwbEntry) : List Nat := (h.bytes.map fun e => scratchLoc h.block e.1) ++ entrySums h

/-- R236: an earlier load of the entry's stream that names its bytes has not read them yet: the entry comes after it. -/
def entryReadsFirst (s : State) (h : HwbEntry) : Bool :=
  s.strands.any fun x => (x.2.block, x.2.number) == h.issuer && x.2.ops.any fun o => o.id < h.id && o.scalar != h.lane && comesAfter o (entryLocs h)

/-- R202: an entry whose tick has come is applied, once earlier loads of its bytes have read them. -/
def entryReady (s : State) (h : HwbEntry) : Bool := (h.due.any fun t => t ≤ s.now) && !entryReadsFirst s h

/-- R202, R266, R305: at ec + Q_die the entry is applied at its target; an add that overflows traps its strand. With the last
entry of an owner the undo records that waited for it are freed. -/
def execEvNeighbourWriteApplied (c id : Nat) (s : State) : Out :=
  match (coreOf s c).hwb.find? fun h => h.id == id with
  | none => .next s
  | some h =>
    if !entryReady s h then .next s
    else
      let past := h.add.any fun a => addOverflows (areaWord s h.block h.off) a
      let s := modCore (applyEntry s h) c fun k => { k with hwb := k.hwb.filter fun e => e.id != id }
      let s := if (coreOf s c).hwb.any fun e => e.owner == h.owner then s else wakeCore (freeUndo s c [h.owner]) c 0x10
      let s := noteWatches (dropSegments s c)
      .next (if past then entryTrap s c h else s)

/-! ### Segments (R305) -/

/-- R303, R307: the sticky bits and the trap of a segment that clears. -/
def reportSegment (s : State) (c : Nat) (b : Block) (bid : Nat) (x : Segment) : State :=
  match reportStrand s c bid with
  | some (l, _) =>
    let s := modStrand s c l fun t =>
      throughHeads t 0 fun y => { y with sticky := y.sticky ||| x.sticky, trapPend := y.trapPend || x.arm }
    match x.trap with
    | none => s
    | some r => modStrand s c l fun t =>
        { t with traps := t.traps ++ [{ record := r, kind := .matrix, region := 0, seq := t.sc.seq, ready := some s.now, resume := 0 }] }
  | none =>
    let s := if x.arm then faultTrap s b.part b.grid b.gang c (trapRec 0x0D .matrix x.sticky.toNat 0 (BitVec.ofNat 64 (coreOf s c).griddle.next) 0 0) else s
    match x.trap with
    | none => s
    | some r => faultTrap s b.part b.grid b.gang c r

/-- R305, R217: the oldest segment clears at ec + Q_core: staging slots and undo records are freed. -/
def execEvSegmentCleared (c : Nat) (s : State) : Out :=
  let g := (coreOf s c).griddle
  match g.segs.find? fun x => !x.cleared with
  | none => .next s
  | some x => match x.ec, blockAt s g.holder with
    | some ec, some b =>
      if s.now < ec + x.qcore then .next s
      else
        let s := noteWatches (sendEntries (freeSegment s c x) c x.id (ec + x.qdie))
        let s := countNet s b.part (acctOf s b.part b.grid) x.counts
        let s := modSeg s c x.id fun y => { y with cleared := true, snaps := [], counts := [], trap := none }
        .next (dropSegments (wakeCore (reportSegment s c b g.holder x) c 0x10) c)
    | _, _ => .next s

/-! ### Sensors (R194, R195, R203) -/

/-- R194: the cores of a sensor's region. -/
def sensorCores (k : SensorKind) (place : Nat) : List Nat :=
  match k with
  | .strike => [place]
  | _ => (List.range 4).map fun i => 4 * place + i

/-- R194: the worst-case reporting latency of a sensor. -/
def sensorDelay : SensorKind → Nat
  | .strike => 20 | .droop => 12 | .clock => 16

/-- R194: a sensor detects a disturbance at this tick. -/
def execEvSensorEvent (k : SensorKind) (place : Nat) (second : Bool) (s : State) : Out :=
  let limit := match k with | .strike => Config.cores | _ => Config.hearths
  if limit ≤ place then .next s
  else .next { s with nextId := s.nextId + 1,
                      reports := s.reports ++ [{ id := s.nextId, kind := k, place := place, second := second, time := s.now,
                                                 arrived := none, cores := sensorCores k place }] }

/-- R412: DETAIL and SOURCE of a sensor's record. -/
def sensorDetail (r : Report) : Nat :=
  (match r.kind with | .strike => 0 | .droop => 1 | .clock => 2) + (if r.kind == .strike && r.second then 256 else 0)
def sensorSource (r : Report) : BitVec 16 := errSource (if r.kind == .strike then 0 else 1) r.place

/-- R195: a report reaches the squash controller, which sends it on and raises its error record. -/
def execEvSensorReportArrives (id : Nat) (s : State) : Out :=
  match s.reports.find? fun r => r.id == id && r.arrived.isNone with
  | none => .next s
  | some r =>
    let s := raiseErrorAt s 0x06 4 (sensorSource r) r.time 0 none 1 (sensorDetail r)
    .next { s with reports := s.reports.map fun x => if x.id == id then { x with arrived := some s.now } else x }

/-- R203, R204: a sensor event of tick t squashes a region that is open, that closed at or after t while its
effective close is undetermined, or whose effective close is at or after t. -/
def disowned (t : Nat) (close ec : Option Nat) : Bool :=
  match close, ec with
  | none, _ => true
  | some c, none => t ≤ c
  | some _, some e => t ≤ e

/-- R203, R306: the regions and segments of a core that a sensor event squashes by their own ticks. -/
def sensorSeeds (s : State) (c t : Nat) : List Nat :=
  ((residents s c).flatMap fun e => (e.2.regions.filter fun r => !r.cleared && disowned t r.close r.ec).map fun r => r.id)
    ++ (((coreOf s c).griddle.segs.filter fun g => !g.cleared && disowned t g.close g.ec).map fun g => g.id)

/-- R195, R203: the squash controller delivers a report to a core, which squashes what it disowns. -/
def execEvSensorSquash (id c : Nat) (s : State) : Out :=
  match s.reports.find? fun r => r.id == id && r.arrived.isSome && r.cores.contains c with
  | none => .next s
  | some r =>
    let s := squashSet (wakeCore s c 0x100) c (sensorSeeds s c r.time)
    let s := (((residents s c).map fun e => e.2.block).eraseDups).foldl (fun s b => rebindTraps s c b) s
    let left := r.cores.filter fun k => k != c
    .next { s with reports := if left.isEmpty then s.reports.filter fun x => x.id != id
                     else s.reports.map fun x => if x.id == id then { x with cores := left } else x }

/-! ### The region-resource trap (R209) -/

/-- R209: units of a resource that a region holds. -/
def regionUnits (s : State) (c : Nat) (r : Region) (code : Nat) : Nat :=
  let k := coreOf s c
  if r.cleared then 0
  else match code with
    | 0 => r.lanes.length
    | 1 => r.scalars.length
    | 2 => (k.undo.filter fun u => u.owner == r.id).length
    | 3 => (k.l1.filter fun x => x.quar.contains r.id).length
    | 4 => (k.hwb.filter fun h => h.owner == r.id).length
    | _ => (k.adds.filter fun a => a.region == r.id).length

/-- R209: units of a resource that a strand's regions hold; an add holds its entry until its completion arrives. -/
def strandUnits (s : State) (c : Nat) (t : Strand) (code : Nat) : Nat :=
  if code = 5 then ((coreOf s c).adds.filter fun a => t.effects.contains a.effect).length
  else (t.regions.map fun r => regionUnits s c r code).foldl (· + ·) 0

/-- R209: a side of the strand waits for a unit of a resource. -/
def waitsFor (t : Strand) (code : Nat) : Bool := t.swait == .resource code || t.lwait == .resource code

/-- R209: the waiting strand whose open region holds most units, the lowest slot among equals; none unless every
strand that holds units waits for that resource. -/
def resourceVictim (s : State) (c code : Nat) : Option (Nat × Strand) :=
  let rs := residents s c
  let openUnits (t : Strand) : Nat := (t.regions.map fun r => if r.close.isNone then regionUnits s c r code else 0).foldl (· + ·) 0
  if (code = 0 && !(coreOf s c).lateUnits.isEmpty) || !(rs.all fun e => strandUnits s c e.2 code == 0 || waitsFor e.2 code) then none
  else (rs.filter fun e => waitsFor e.2 code && !e.2.stopped && !e.2.saving).foldl (fun m e => match m with
    | none => some e
    | some y => if openUnits y.2 < openUnits e.2 then some e else m) none

/-- R209: every holder waits, so the largest one takes the region-resource trap at the instruction that waits. -/
def execEvRegionResourceTrap (c : Nat) (code : BitVec 3) (s : State) : Out :=
  match resourceVictim s c code.toNat with
  | none => .next s
  | some (l, t) =>
    if 5 < code.toNat then .next s
    else if t.lwait == .resource code.toNat then
      match t.st.current with
      | some r => .next (laneTrap s c l 0x16 code.toNat (BitVec.ofNat 64 (wordLanes s c t r)) 0)
      | none => .next s
    else .next (scalarTrap s c l 0x16 code.toNat)

/-! ### Delivery of a trap (R376 to R378) -/

/-- R377: the record of a trap goes to a handler: the entry that serves it, when the strand's trap level is free
and its stack takes the record. -/
def handlerFor (s : State) (c : Nat) (t : Strand) (h : HeldTrap) : Option (Word × TrapEntry × List Nat) :=
  match gridAt s t.part t.grid with
  | none => none
  | some g => match trapEntry (partAt s t.part) g.record.scode h.record.code.toNat with
    | none => none
    | some e =>
      if t.sc.tdepth then none
      else match writeFault s c t (spOf t.sc) 32 false with
        | .error _ => none
        | .ok locs => some (g.record.scode, e, locs)

/-- R246, R377: a handler serves the trap, and its stack's translation waits for the recall of a table's half. -/
def handlerWaits (s : State) (c : Nat) (t : Strand) (h : HeldTrap) : Bool :=
  (gridAt s t.part t.grid).any (fun g => (trapEntry (partAt s t.part) g.record.scode h.record.code.toNat).isSome) && !t.sc.tdepth
    && match writeFault s c t (spOf t.sc) 32 false with
      | .error k => k == cRecall
      | .ok _ => false

/-- R370, R371, R382, R430: what a trap's delivery waits for: the end of a save or of a stop, the REMAT clause unless it is what traps, an
answer of the link partner, a halt, room for a region, or a recall. -/
def deliveryWaits (s : State) (c : Nat) (t : Strand) (h : HeldTrap) : Bool :=
  t.saving || (rematWaits t && !t.stopped) || t.lphase == .requested || !headRoom t || (t.halted && t.stepping == 0)
    || hearthStopped s (hearthOf c) || handlerWaits s c t h

/-- R377: TAKING A TRAP IN ITS HANDLER, once the head of R376 is open: the record is stored at sp, the registers
change, and the clause queue is cleared. -/
def takeHandler (s : State) (c l : Nat) (h : HeldTrap) (scode : Word) (e : TrapEntry) (locs : List Nat) : State :=
  match strandAt s c l with
  | none => s
  | some t =>
    let s := keepFor s c t (spOf t.sc) 32
    let s := issueStore s c l (openId t) 0 true none (locs.zip (trapBytes h.record)) t.sc.seq t.sc.spc
    modStrand s c l fun t =>
      noteScalar (noteScalar { t with sc := enterHandler t.sc scode e.hoff, st := { queue := [], current := none } } 1) 2

/-- R376, R377, R378: DELIVERS a trap: an implicit head opens where the strand resumes, and the trap goes to its
handler or to a FAULT decision. A strand being saved keeps its traps (R370); requests of an atomic at the link
partner are answered first. -/
def deliverTrap (s : State) (c l : Nat) (t : Strand) (h : HeldTrap) : State :=
  match handlerFor s c t h with
  | some (scode, e, locs) =>
    if (storeNeeds s c t 0 locs).isSome then s
    else takeHandler (openDelivery s c l h) c l h scode e locs
  | none => faultTrap (openDelivery s c l h) t.part t.grid t.gang c h.record

def execEvTrapDelivery (c l : Nat) (s : State) : Out :=
  match (strandAt s c l).bind fun t => (nextTrap t).map fun h => (t, h) with
  | none => .next s
  | some (t, h) => if deliveryWaits s c t h then .next s else .next (deliverTrap s c l t h)

end Sys2Proof.Machine
end

