-- ==== Sys2Proof/Machine/Placement.lean ====
section
/-! DEFINITION. Acceptance of grids and the placement of gangs (spec/16 R322 to R324, R330, R331, spec/06 R178,
spec/18 R370, R371), item queues (R334), and where gangs leave their cores (R109, R193, R291). -/

namespace Sys2Proof.Machine

open Sys2Proof

/-! ### A strand at its start (R24, R29, R30) -/

/-- A stream with nothing queued. -/
def LaneStream.empty : LaneStream := { queue := [], current := none }

/-- R24, R30: the scalar side of a strand that starts. -/
def startSide (r : LaunchRec) (compat : Bool) (block number : Nat) (stack : Word) : ScalarSide :=
  { sregs := [(2, stack), (3, stack), (4, r.arg), (5, BitVec.ofNat 64 block), (6, BitVec.ofNat 64 number)], spoison := [],
    spc := canonPc (r.scode.toNat + 4), exec := execMask compat (-1), ks := [], mdata := [], mfull := 0, mpoison := 0,
    path := [], demote := false, sticky := 0, trapPend := false, seq := 0, rdepth := 0, tdepth := false, entryd := 0, tln := 0 }

/-- R29: lane state of a strand that starts. -/
def LaneSide.empty : LaneSide := { vregs := [], vpoison := [], verr := [], preds := [], ibase := [], ilen := [] }

/-- A strand before its first region. -/
def startStrand (p : Nat) (g : Grid) (gang block number : Nat) (x : ScalarSide) (stack now : Nat) : Strand :=
  { part := p, grid := g.launch, gang := gang, block := block, number := number, vblk := g.record.vblk, compat := g.compat,
    depth := g.depth, sc := x, ln := LaneSide.empty, st := LaneStream.empty, ops := [], vpend := [], spend := [], tpend := [],
    regions := [], serial := 0, recipe := none, sphase := .idle, lphase := .idle, swait := .none, lwait := .none, wake := false,
    traps := [], stopped := false, exited := false, halted := false, stepping := 0, saving := false, gwct := 0, effects := [],
    batches := [], nextBatch := 1, stack := stack, stackLen := stackBytes g.record, issued := [], meet := none, lastTag := (0, 0), placed := now, headTick := now,
    grafting := none, adds := [], addLost := 0 }

/-- R198: the region that a strand starts in, with serial 0 (DEDUCED, log 11). -/
def startRegion (s : State) (t : Strand) : Region :=
  { newRegion s t false t.sc none with serial := 0, laneHead := some t.ln, queue := some LaneStream.empty }

/-- R193: the lowest free register blocks of a core are granted to a slot. -/
def grantBlocks (s : State) (c l n : Nat) : State :=
  modCore s c fun k =>
    let free := ((List.range 256).filter fun b => (mget k.blocks b).isNone).take n
    { k with blocks := msets k.blocks (free.map fun b => (b, RegBlock.granted l)) }

/-- R177: a free strand slot of a core: the lowest (DESIGN CHOICE, log 123). -/
def freeSlotOf (s : State) (c : Nat) : Nat := ((List.range 64).find? fun l => (strandAt s c l).isNone).getD 0

/-- R381: the debugger halts every strand of its target grid. -/
def haltedNow (s : State) (t : Strand) : Bool := (partAt s t.part).halt && (partAt s t.part).dgrid.toNat == t.grid

/-- Places a strand that starts on a core. -/
def putFresh (s : State) (c : Nat) (t : Strand) : State :=
  let l := freeSlotOf s c
  let s := grantBlocks s c l t.vblk
  let r := startRegion s t
  let s := putStrand { s with nextId := s.nextId + 1 } c l { t with regions := [r], halted := haltedNow s t }
  bump (bump s c l r.id 11 1) c l r.id 13 1

/-- R369: a saved strand stands at no region head: it was saved whole, with nothing to rebuild (DEDUCED, log 117). -/
def savedWhole (t : Strand) : Bool := t.regions.isEmpty && !t.atRegion

/-- R369, R371: the REMAT clause of a resumption at a region head. -/
def rematOf (t : Strand) (region : Nat) : List Queued :=
  match t.recipe with
  | none => []
  | some r =>
    if !r.remv || t.exited || savedWhole t then []
    else [{ clause := r.remat, exec := t.sc.exec, ks := t.sc.ks, seq := t.sc.seq, region := region, header := none, remat := true }]

/-- R232: bytes of a store that the strand has made from another core, in this core's copy of their line; a line that enters
later holds them too. -/
def carryLine (eff line : Nat) (bs : List (Nat × Byte)) (k : Core) : Core :=
  { k with l1 := k.l1.map fun x =>
      if x.line == line && !x.pin.contains eff && !bs.isEmpty then
        { x with data := bytesPut x.data bs, pin := x.pin ++ [eff],
                 wmask := bs.foldl (fun m p => m ||| ((1 : BitVec 128) <<< (p.1 % 128))) x.wmask }
      else x }

/-- R236, R248 item 4, R267: the core that a saved strand is placed on carries the strand's stores and counter adds
whose completions have not arrived (DEDUCED, log 39). -/
def carryEffects (s : State) (c : Nat) (t : Strand) : State :=
  let adds := (s.cores.flatMap fun e => e.2.adds).filter fun a => t.effects.contains a.effect
  let s := modCore s c fun k => { k with adds := k.adds ++ (adds.filter fun a => !k.adds.contains a).eraseDups }
  (s.effects.filter fun e => t.effects.contains e.id && e.store).foldl (fun s e => match e.kind with
    | .write b => modCore s c fun k => (linesOf (b.map fun x => x.1)).foldl (fun k n => carryLine e.id n (b.filter fun x => x.1 / 128 == n) k) k
    | _ => s) s

/-- R370, R371: a saved strand is placed on a core. At an implicit head its region opens again; at an explicit one
`region` executes again, in the region of the REMAT clause when there is one. -/
def putSaved (s : State) (c : Nat) (t : Strand) : State :=
  let l := freeSlotOf s c
  let s := grantBlocks s c l t.vblk
  let id := s.nextId
  let last := t.regions.getLast?
  let old : LaneStream := { queue := t.st.queue.filter (fun q => !q.remat), current := t.st.current.filter fun r => !r.entry.remat }
  let st : LaneStream := { rebindClauses old id with queue := rematOf t id ++ (rebindClauses old id).queue }
  let fresh := newRegion s { t with regions := [] } false t.sc t.recipe
  let r : Region := { fresh with counts := (last.map fun r => r.counts).getD [], laneHead := some t.ln, queue := some st,
                                 results := (last.map fun r => r.results).getD {}, resumed := t.atRegion || last.any fun r => r.resumed }
  let opens := !t.exited && (!t.regions.isEmpty || !(rematOf t id).isEmpty)
  let t' : Strand := { t with st := if opens then st else t.st, regions := if opens then [r] else [], remat := opens && !(rematOf t id).isEmpty,
                              serial := if opens then t.serial + 1 else t.serial, placed := s.now, saving := false, halted := t.halted || haltedNow s t }
  let s := { s with nextId := id + 1, copies := s.copies.map fun y =>
    if y.block == t.block && y.number == t.number then { y with core := c, slot := l } else y }
  putStrand (carryEffects s c t) c l t'

/-! ### Placing a gang (R178, R370) -/

/-- R188: the core's item queue goes to a grid with an item range. -/
def takeItems (s : State) (c p : Nat) (g : Grid) : State :=
  if g.record.iqcount = 0 then s else modCore s c fun k => { k with itemGrid := some (p, g.launch) }

/-- R321, R235: the placement acts as an acquire at `.pkg` on the core: a sweep that runs ends first. -/
def acquireCore (s : State) (c : Nat) : State :=
  modCore s c fun k => { sweepCore k with gen := !k.gen, sweeping := true }

/-- R324: the stack bases of the strands of n blocks of a record from block `first`, in grid-linear order, and the arena stacks
that are left over of those taken. -/
def gangStacks (r : LaunchRec) (first n : Nat) (taken : List Nat) : List Nat × List Nat :=
  let k := n * (r.bstr + 1)
  if r.sbase = 0 then (taken.take k, taken.drop k)
  else ((List.range k).map fun i => (r.sbase.toNat + (first * (r.bstr + 1) + i) * r.sstride) % 2 ^ 64, taken)

/-- R324: the arena stacks of n blocks of a record that are placed for the first time. -/
def arenaStacks (s : State) (p : Nat) (r : LaunchRec) (n : Nat) : Option (List Nat × State) :=
  if r.sbase = 0 then takeStacks (n * (r.bstr + 1)) s p (stackBytes r) else some ([], s)

/-- R178, R179: a block that starts on a core, with its strands. -/
def putBlock (s : State) (p : Nat) (g : Grid) (gang number gidx gsize c : Nat) (stackUse : List Nat) : State :=
  let r := g.record
  let bid := s.nextId
  let b : Block := { part := p, grid := g.launch, gang := gang, number := number, gidx := gidx, gsize := gsize, bsize := r.bstr, core := c,
                     area := areaOf r, windows := r.windows, scratch := [], wins := [], chunks := [], cursors := [], saved := none }
  let s : State := { s with nextId := bid + 1, blocks := mset s.blocks bid b }
  (List.range (r.bstr + 1)).foldl (fun s k =>
    let base := stackUse.getD k 0
    putFresh s c (startStrand p g gang bid k (startSide r g.compat number k (BitVec.ofNat 64 base)) base s.now)) s

/-- R292, R370: a saved griddle is held for its block from the tick of placement. -/
def restoreGriddle (s : State) (c bid : Nat) (b : Block) : State :=
  match b.saved with
  | none => s
  | some g =>
    let segs := g.segs.map fun x => { x with id := s.nextId, core := c, opened := s.now }
    modCore { s with nextId := s.nextId + 1 } c fun k => { k with griddle := { g with holder := bid, segs := segs, latch := none } }

/-- R370: a saved block is placed on a core, with its strands. -/
def restoreBlock (s : State) (c bid : Nat) (b : Block) (ts : List Strand) : State :=
  let s : State := { s with blocks := mset s.blocks bid { b with core := c, saved := none } }
  (ts.filter fun t => t.block == bid).foldl (fun s t => putSaved s c t) (restoreGriddle s c bid b)

/-- What every placement does on each core of the gang. -/
def enterCores (s : State) (p : Nat) (g : Grid) (c n : Nat) : State :=
  (List.range n).foldl (fun s i => wakeCore (acquireCore (takeItems s (c + i) p g) (c + i)) (c + i) 0x20) s

/-- R324, R369: a context image gives its place in the launch arena back. -/
def dropImage (s : State) (p : Nat) (g : Gang) : State :=
  match g.image with
  | some b => returnArena s p b
  | none => s

/-- R358, R369: the copies of a gang that is placed again go on from their saved chunks. -/
def resumeCopies (s : State) (gang : Nat) : State :=
  let mine (y : Copy) : Bool := y.gang == gang && y.paused
  let engines := ((s.copies.filter mine).map fun y => y.engine).eraseDups
  engines.foldl engineEvents { s with copies := s.copies.map fun y => if mine y then { y with paused := false } else y }

/-- Places the next gang of a grid on cores c, c + 1, …, where it fits, with arena stacks that have been taken for it. The answer
has those left over. -/
def placeNext (s : State) (p launch c : Nat) (filler : Bool) (taken : List Nat) : State × List Nat :=
  match gridAt s p launch with
  | none => (s, taken)
  | some g => match nextGang g with
    | none => (s, taken)
    | some (.saved x) =>
      let s := dropImage (enterCores (accrueAll s p) p g c x.count) p x
      let s := modGang s p x.id fun y => { y with state := .resident, core := c, placed := s.now, quantum := s.now, filler := filler,
                                                  strands := [], blocks := [], image := none }
      (resumeCopies ((List.range x.blocks.length).foldl (fun s i => match x.blocks[i]? with
        | some (bid, b) => restoreBlock s (c + b.gidx) bid b x.strands
        | none => s) s) x.id, taken)
    | some (.fresh i) =>
      let f := gangBlocks g.record i
      let bases := gangStacks g.record f.1 f.2 taken
      let s := enterCores (accrueAll s p) p g c f.2
      let id := s.nextId
      let gang : Gang := { id := id, index := i, first := f.1, count := f.2, state := .resident, core := c, placed := s.now,
                           quantum := s.now, filler := filler, retries := 0, strands := [], blocks := [], hold := false, fault := none }
      let s := modGrid { s with nextId := id + 1 } p launch fun y => { y with gangs := y.gangs ++ [gang] }
      ((List.range f.2).foldl (fun s j =>
        putBlock s p g id (f.1 + j) j (f.2 - 1) (c + j) ((bases.1.drop (j * (g.record.bstr + 1))).take (g.record.bstr + 1))) s, bases.2)

/-- Places the next gang of a grid with its arena stacks, when these can be had. -/
def placeOne (s : State) (p : Nat) (g : Grid) (c : Nat) (filler : Bool) : Option State :=
  let n := match nextGang g with | some (.fresh i) => (gangBlocks g.record i).2 | _ => 0
  (arenaStacks s p g.record n).map fun e => (placeNext e.2 p g.launch c filler e.1).1

/-! ### Placing a co-resident grid (R183, R331) -/

/-- A gang that is to be placed: its number, and for each of its blocks whether it holds a griddle. -/
structure GangNeed where
  index  : Nat
  blocks : List Bool
  deriving DecidableEq, Repr

/-- The gangs of a grid that wait to be placed. -/
def gangNeeds (g : Grid) : List GangNeed :=
  ((waitingGangs g).map fun x => { index := x.index, blocks := x.blocks.map fun b => (b.2.saved.map fun k => k.held).getD false })
    ++ (List.range (gangCount g.record - g.gangs.length)).map fun j =>
      { index := g.gangs.length + j, blocks := List.replicate (gangBlocks g.record (g.gangs.length + j)).2 false }

/-- R178: how many more blocks of a record fit on a core. -/
def blockRoom (s : State) (c p launch : Nat) (r : LaunchRec) : Nat :=
  if !itemsFree s c p launch r then 0
  else
    let n := min (freeSlots s c / (r.bstr + 1)) (freeRegs s c / ((r.bstr + 1) * r.vblk))
    if areaOf r = 0 then n else min n (freeScratch s c / areaOf r)

/-- A gang fits on the cores from c on, beside the blocks and griddles that a plan has put on cores already. -/
def planFits (room : Nat → Nat) (griddle : Nat → Bool) (used held : List Nat) (n : GangNeed) (c : Nat) : Bool :=
  c % 4 + n.blocks.length ≤ 4 && (List.range n.blocks.length).all fun i =>
    used.count (c + i) < room (c + i) && (!(n.blocks.getD i false) || (griddle (c + i) && !held.contains (c + i)))

/-- R183, R331: cores for every gang of a list, if there are any: every place of a gang unlike the others is tried, and gangs of
full size and no griddle take the first that is left, which serves them best. -/
def planGangs (room : Nat → Nat) (griddle : Nat → Bool) (full : Nat) (places : List Nat) :
    List GangNeed → List Nat → List Nat → Option (FMap Nat)
  | [], _, _ => some []
  | n :: rest, used, held =>
    let at_ (c : Nat) : Option (FMap Nat) :=
      (planGangs room griddle full places rest ((List.range n.blocks.length).map (fun i => c + i) ++ used)
        ((((List.range n.blocks.length).filter fun i => n.blocks.getD i false).map fun i => c + i) ++ held)).map fun m => mset m n.index c
    let fits := places.filter (planFits room griddle used held n)
    if n.blocks.length = full && !(n.blocks.any id) then fits.head?.bind at_ else fits.findSome? at_

/-- R183, R331: the cores of every waiting gang of a co-resident grid, if they all fit at once. -/
def gridPlan (s : State) (p : Nat) (g : Grid) : Option (FMap Nat) :=
  let full := min (g.record.gang + 1) g.record.gblocks
  let rooms : FMap Nat := (heldHearths (partAt s p)).flatMap fun h => (List.range 4).map fun o => (4 * h + o, blockRoom s (4 * h + o) p g.launch g.record)
  let like (n : GangNeed) : Bool := n.blocks.length == full && !(n.blocks.any id)
  let needs := gangNeeds g
  planGangs (fun c => mgetD rooms c 0) (fun c => !(coreOf s c).griddle.held) full (rooms.map fun e => e.1)
    (needs.filter (fun n => !like n) ++ needs.filter like) [] []

/-- Places the waiting gangs of a grid, in their order, where a plan says, with arena stacks taken for all of them. -/
def placeAll : Nat → State → Nat → Nat → FMap Nat → List Nat → Option State
  | 0, _, _, _, _, _ => none
  | fuel + 1, s, p, launch, plan, taken =>
    match gridAt s p launch with
    | none => none
    | some g => match nextGang g with
      | none => some s
      | some n =>
        let i := match n with | .saved x => x.index | .fresh k => k
        match mget plan i with
        | none => none
        | some c =>
          if blocksFitAt s p (.grid g) (c / 4) (c % 4) then
            let e := placeNext s p launch c false taken
            placeAll fuel e.1 p launch plan e.2
          else none

/-- R183, R324, R331: a co-resident grid is placed whole: cores for all its gangs, and stacks for all their strands, at once. -/
def placeWhole (s : State) (p : Nat) (g : Grid) : Option State :=
  let first := ((List.range (gangCount g.record)).drop g.gangs.length).map fun i => (gangBlocks g.record i).2
  match gridPlan s p g, arenaStacks s p g.record (first.foldl (· + ·) 0) with
  | some plan, some e => placeAll (gangCount g.record + 1) e.2 p g.launch plan e.1
  | _, _ => none

/-! ### Acceptance (R330) -/

/-- R330: the launch number that is next assigned: its low 24 bits are those of no live grid. -/
def nextNumber (x : Partition) : Nat → Nat → Nat
  | 0, n => n
  | fuel + 1, n => if x.grids.any fun g => g.launch % 2 ^ 24 == n % 2 ^ 24 then nextNumber x fuel (n + 1) else n

/-- R322: the kernel header word: COMPAT, or none when it is wrong or cannot be read. The hub reads it with the
translations of a core of the partition. -/
def kernelCompat (s : State) (p : Nat) (scode : Word) : Option Bool :=
  match (List.range 4).foldr (fun i acc => match acc, walk s p ((scode.toNat + i) % 2 ^ 57) with
      | some l, .ok t =>
        let pa := redirect s (t.pbase + (scode.toNat + i) % 2 ^ 57 % t.size)
        if !t.x || s.poison.contains (pa / 128) then none else some (memByte s.mem pa :: l)
      | _, _ => none) (some []) with
  | none => none
  | some l => match leNat l with
    | 0xFC010000 => some false
    | 0xFC018000 => some true
    | _ => none

/-- R246: the header word of a kernel, or a table of its walk, lies in a half that a CXL host owns. -/
def headerOwned (s : State) (p : Nat) (scode : Word) : Bool := hubWaits s p scode.toNat 4

/-- R324, R330: the slice pool of a grid: its base, or none when the launch arena cannot supply it. -/
def takePool (s : State) (p : Nat) (r : LaunchRec) : Option (Nat × State) :=
  if r.nslice = 0 || r.spool != 0 then some (0, s)
  else
    let x := partAt s p
    (takeRange s x.arena (arenaBase x) (arenaSize x) (65536 * r.nslice) 65536).map fun b =>
      (b, { modPart s p fun y => { y with arena := (b, 65536 * r.nslice) :: y.arena } with fresh := s.fresh + 1 })

/-- R330 to R332: why a grid fails at acceptance; where 0x12 and 0x13 both apply it is 0x12 (DESIGN CHOICE, log 136). -/
def acceptCode (s : State) (p : Nat) (r : LaunchRec) : Nat :=
  if (kernelCompat s p r.scode).isNone then 0x11
  else if (takePool s p r).isNone || stacksTooLarge (partAt s p) r then 0x12
  else if !r.cores && tooLarge (partAt s p) r then 0x13 else 0

/-- R330: the first record of a queue becomes a grid; the answer is its launch number. -/
def acceptRecord (s : State) (p q : Nat) : Option (Nat × State) :=
  match (queueOf (partAt s p) q).records with
  | [] => none
  | e :: rest =>
    let r := e.record
    let n := nextNumber (partAt s p) 70000 (partAt s p).nextLaunch
    let code := acceptCode s p r
    let s := walkLease s p [r.scode.toNat]
    let got := if code = 0 then takePool s p r else none
    let s' := (got.map fun e => e.2).getD s
    let pooled := got.isSome && r.nslice != 0 && r.spool == 0
    let g : Grid := { part := p, pooled := pooled, launch := n, record := r, depth := e.depth, compat := (kernelCompat s p r.scode).getD false,
                      arrived := e.arrived, gangs := [], slices := [], pool := (got.map fun e => e.1).getD 0, cursor := 0, returned := [],
                      gwct := 0, parked := false, killed := false, report := none, code := if code = 0 then none else some code,
                      step := if code = 0 then 0 else 1, children := 0 }
    let s' := modQueue s' p q fun y => { y with records := rest }
    some (n, modPart s' p fun x => { x with nextLaunch := n + 1, grids := x.grids ++ [g] })

/-! ### Items (R334) -/

/-- The number j of an item of a grid. -/
def itemIndex (g : Grid) (i : W32) : Nat := (i - g.record.iqfirst).toNat

/-- Puts an item among returned ones, in ascending j. -/
def insertItem (g : Grid) (i : W32) : List W32 → List W32
  | [] => [i]
  | y :: ys => if itemIndex g i < itemIndex g y then i :: y :: ys else y :: insertItem g i ys

/-- R334: the grid's last gang has left a core: the items of its queue return to the grid. -/
def returnItems (s : State) (c p launch : Nat) : State :=
  if (coreOf s c).itemGrid != some (p, launch) || (s.blocks.any fun e => e.2.core == c && e.2.part == p && e.2.grid == launch) then s
  else
    let items := (coreOf s c).items
    modGrid (modCore s c fun k => { k with items := [], itemGrid := none }) p launch fun g =>
      { g with returned := items.foldl (fun l i => insertItem g i l) g.returned }

/-- R334: the hub moves items to a core queue that holds fewer than 128. -/
def execEvItemQueueRefill (c : Nat) (s : State) : Out :=
  match (coreOf s c).itemGrid with
  | none => .next s
  | some (p, launch) => match gridAt s p launch with
    | none => .next s
    | some g =>
      let k := coreOf s c
      let room := min 128 (256 - k.items.length)
      let back := g.returned.take room
      let n := min (room - back.length) (g.record.iqcount - g.cursor)
      let new := (List.range n).map fun i => g.record.iqfirst + BitVec.ofNat 32 (g.cursor + i)
      if 128 ≤ k.items.length then .next s
      else
        let s := modGrid s p launch fun g => { g with returned := g.returned.drop back.length, cursor := g.cursor + n }
        .next (wakeCore (modCore s c fun k => { k with items := k.items ++ back ++ new }) c 0)

/-! ### Where gangs leave their cores -/

/-- R193: the outstanding operations that write a register of a strand's n-th block. -/
def lateFor (t : Strand) (n : Nat) : List Nat :=
  (t.ops.filter fun o => !o.scalar && !o.landed && o.dests.any fun d => d.reg / 32 == n || (d.pair && (d.reg + 1) / 32 == n)).map fun o => o.id

/-- R193: the register blocks of a slot, the n-th of which in ascending order holds registers 32 n to 32 n + 31: each is free,
or draining while writes to one of its registers are outstanding. -/
def releaseBlocks (s : State) (c l : Nat) (t : Strand) : State :=
  let mine := ((coreOf s c).blocks.filter fun e => e.2 == .granted l).map fun e => e.1
  let next (b : Nat) : Option RegBlock := match lateFor t (mine.idxOf b) with
    | [] => none
    | ops => some (.draining ops)
  modCore s c fun k =>
    { k with orphans := k.orphans ++ (t.ops.filter fun o => !o.scalar && !o.landed && !o.dests.isEmpty).map (fun o => o.id),
             blocks := k.blocks.filterMap fun e => if e.2 == .granted l then (next e.1).map fun x => (e.1, x) else some e }

/-- A strand leaves its slot. -/
def vacate (s : State) (c l : Nat) (t : Strand) : State :=
  let s := releaseBlocks s c l t
  dropWatches { dropClaim s c l with strands := mdel s.strands (skey c l) } c l

/-- R225, R226: ways that pass to the scratchpad drop their lines: the least recently used of each set that holds
too many. -/
def shrinkL1 (k : Core) : Core :=
  { k with l1 := (k.l1.foldr (fun x acc =>
      if (acc.filter fun y => y.line % 512 == x.line % 512).length < waysOf k then x :: acc else acc) []) }

/-- R225, R226: a core that holds no gang can take a new split: no line that would go is pinned. -/
def splitReady (s : State) (c size : Nat) : Bool :=
  let k := coreOf s c
  let kept := (shrinkL1 { k with spsize := size }).l1
  k.spsize != size && (gangsOn s c).isEmpty && !(k.l1.any fun x => !x.pin.isEmpty && !(kept.any fun y => y.line == x.line))

/-- R225: a core of a partition that holds none of its gangs takes the new split. -/
def execEvSpsizeTakesEffect (c : Nat) (s : State) : Out :=
  match (List.range 16).find? fun p => holdsHearth (partAt s p) (hearthOf c) with
  | none => .next s
  | some p =>
    let n := (partAt s p).spsize
    if splitReady s c n then .next (putCore s c (shrinkL1 { coreOf s c with spsize := n })) else .next s

/-- R178: a gang whose every strand has freed its slot has retired, whole: its blocks leave their cores, which are
offered again. Until then the area of a block whose strands have ended stays where it is. -/
def retireGang (s : State) (p gang : Nat) : State :=
  match gangAt s p gang with
  | none => s
  | some (launch, g) =>
    let s := accrueAll s p
    let s : State := { s with blocks := s.blocks.filter fun e => e.2.gang != gang }
    let s := modGang s p gang fun y => { y with state := .retired }
    let s := (List.range g.count).foldl (fun s i => returnItems s (g.core + i) p launch) s
    reoffer s p 0

/-- Strands of a block on its core. -/
def blockStrands (s : State) (c bid : Nat) : List (Nat × Strand) := (residents s c).filter fun e => e.2.block == bid

/-- R266, R270: writes and adds to an area of a gang, or copies that name one, are still to be performed. -/
def areasInUse (s : State) (gang : Nat) : Bool :=
  let blocks := (s.blocks.filter fun e => e.2.gang == gang).map fun e => e.1
  (s.cores.any fun k => k.2.hwb.any fun h => blocks.contains h.block)
    || s.copies.any fun y => y.gang == gang && !y.done && [y.src, y.dst, y.ctr].any inAperture

/-- R109 step 4: an exited strand whose clauses have issued and whose regions have all cleared. -/
def mayFree (t : Strand) : Bool :=
  t.exited && t.st.queue.isEmpty && t.st.current.isNone && t.traps.isEmpty && t.regions.all fun r => r.cleared

/-- R109, R291: an exited strand frees its slot and its register blocks. The last strand of a block that holds the griddle
waits for its release, and the last one of a gang while an area of the gang is in use (DEDUCED, log 137). -/
def execEvStrandSlotFreed (c l : Nat) (s : State) : Out :=
  match strandAt s c l with
  | none => .next s
  | some t =>
    let last := (blockStrands s c t.block).length == 1
    let lastOf := !(s.strands.any fun e => e.2.gang == t.gang && e.1 != skey c l)
    if !mayFree t || (last && heldBy s c t.block) || (lastOf && areasInUse s t.gang) then .next s
    else
      let old := s
      let s := vacate s c l (keepAdds t (t.regions.flatMap fun r => r.adds))
      let s := if ((recordOf s t.part t.grid).any fun r => r.sbase == 0) then returnStack s t.part t.stack else s
      let s := modGrid s t.part t.grid fun g => { g with gwct := max g.gwct t.gwct }
      .next (if lastOf then retireGang s t.part t.gang else reofferNew old s t.part)

/-- R291: once every strand of the block is ready to free its slot, the stream stops, its open segment closes, and
when no segment is left the griddle is free. -/
def execEvBlockGriddleRelease (c : Nat) (s : State) : Out :=
  let g := (coreOf s c).griddle
  let ts := blockStrands s c g.holder
  if !g.held || ts.length != 1 || !(ts.all fun e => mayFree e.2) then .next s
  else if g.run then
    .next (modGriddle (closeSegment s c) c fun g => { g with run := false, latch := none, reading := none, waiting := none })
  else if g.segs.any fun x => !x.cleared then .next s
  else .next (wakeCore (modCore s c fun k => { k with griddle := Griddle.reset }) c 0)

end Sys2Proof.Machine
end

