-- ==== Sys2Proof/Machine/Hub.lean ====
section
/-! DEFINITION. Flashback saves (spec/18 R368 to R370), `kill`, `park` and the fault record (R354, R380), the
completion of grids (spec/16 R332, R333, spec/06 R189), and the events of the dispatch hub (spec/17 R337, R360). -/

namespace Sys2Proof.Machine

open Sys2Proof

/-! ### The fault record (R380) -/

/-- R271, R380: the token of a sealed batch: the one written, or, of a batch that has not completed, STATUS 7 with
the DONEK of its first copy that has not (DEDUCED, log 29). -/
def tokenNow (s : State) (b : Batch) : Word :=
  match b.token with
  | some w => w
  | none =>
    let ys := b.copies.map fun k => copyAt s k
    let pending (i : Nat) : Bool := ((ys[i]?).bind id).any fun y => !y.done || y.status != 0
    match (List.range ys.length).find? pending with
    | none => tokenWord b.number 0 0 0
    | some i =>
      let y := (ys[i]?).bind id
      let st := (y.map fun y => if y.done then y.status else 7).getD 7
      tokenWord b.number st i ((y.map fun y => if y.done then y.donek else y.chunks).getD 0)

/-- R380: the serial of a strand's last head, and the tick at which its region opened: that of the head a squash has restored, or,
where no region has been squashed, of the last region that has cleared. -/
def headNow (t : Strand) : BitVec 8 × Nat :=
  match t.regions.getLast? with
  | some r => if r.close.isSome && !t.atRegion then (r.serial, r.opened) else (t.headSerial, t.headTick)
  | none => (t.headSerial, t.headTick)

/-- R380: the 1,024 bytes of a strand entry. -/
def strandEntry (s : State) (block : Nat) (t : Strand) : List Byte :=
  let toks := (((t.batches.filter fun b => b.sealed && !b.read).map (tokenNow s)).take 32)
  let head := headNow t
  leBytes 8 (block + t.number * 2 ^ 32) ++ leBytes 8 t.sc.spc.toNat
    ++ leBytes 8 (head.1.toNat + toks.length * 2 ^ 8 + t.adds.length * 2 ^ 16 + t.addLost % 2 ^ 32 * 2 ^ 24)
    ++ leBytes 8 head.2
    ++ (List.range 32).flatMap (fun i => leBytes 8 (toks.getD i 0).toNat)
    ++ (List.range 32).flatMap (fun i => let e := t.adds.getD i (0, 0); leBytes 8 e.1.toNat ++ leBytes 8 e.2.toNat)
    ++ List.replicate 224 0

/-- R380: a fault record is made; it is written and posted once what it lists is visible. -/
def postRecord (s : State) (p launch code tick : Nat) (trap : Option TrapRec) (entries : List (Nat × Strand)) : State :=
  let r : FaultReport := { launch := launch, code := code, tick := tick, trap := trap, count := entries.length,
                           body := entries.flatMap fun e => strandEntry s e.1 e.2 }
  modPart s p fun y => { y with reports := y.reports ++ [r] }

/-- R380: the bytes of a fault record. -/
def reportBytes (r : FaultReport) : List Byte :=
  leBytes 8 r.launch ++ leBytes 8 r.code ++ leBytes 8 r.tick ++ leBytes 8 r.count ++ ((r.trap.map trapBytes).getD (List.replicate 32 0)) ++ r.body

/-- R324, R380: the place that a fault record takes in the launch arena, where there is room. -/
def reportPlace (s : State) (p : Nat) (r : FaultReport) : Option Nat :=
  let x := partAt s p
  takeRange s x.arena (arenaBase x) (arenaSize x) (64 + 1024 * r.count) 64

/-- R380: a counter add that a record lists is visible to every observer once the record is posted: those of cleared regions
have all been released. -/
def addsReleased (s : State) (p launch : Nat) : Bool :=
  (s.effects.all fun e => !(e.part == p && e.grid == launch) || match e.kind, e.stage with
    | .add _ _, .done _ _ => true
    | .add _ _, _ => false
    | _, _ => true)
    && !(s.cores.any fun k => k.2.hwb.any fun h => h.add.isSome && h.part == p && h.grid == launch)

/-- R380, R395, R401: the oldest fault record of a partition may be written: what it lists is visible, and no host owns a half of its
place, nor is a frame of it being claimed or copied. -/
def reportReady (s : State) (p : Nat) : Bool :=
  match (partAt s p).reports with
  | [] => false
  | r :: _ => (r.code == 3 || addsReleased s p r.launch) && (reportPlace s p r).all fun b =>
      let locs := (List.range (64 + 1024 * r.count)).map fun i => redirect s (b + i)
      !hostOwned s locs && !frameHeld s locs

/-- R380: the oldest fault record is written into the launch arena and posted to the fault queue. Where the arena has no
room left it is posted with address 0 (DEDUCED, log 30). -/
def writeReport (s : State) (p : Nat) : State :=
  let x := partAt s p
  let seq := x.faultSeq + 1
  match x.reports with
  | [] => s
  | r :: rest => match reportPlace s p r with
    | none => modPart s p fun y => { y with faults := y.faults ++ [(0, r.launch, seq)], faultSeq := seq, reports := rest }
    | some b =>
      let bs := (placed b (reportBytes r)).map fun e => (redirect s e.1, e.2)
      let s : State := { s with mem := memPuts s.mem bs, fresh := s.fresh + 1 }
      modPart s p fun y => { y with arena := (b, 64 + 1024 * r.count) :: y.arena, faults := y.faults ++ [(b, r.launch, seq)], faultSeq := seq,
                                    reports := rest }

/-- The strands of a gang with their blocks' grid-linear numbers, resident or saved. -/
def gangEntries (s : State) (g : Gang) : List (Nat × Strand) :=
  let live := (s.strands.filter fun e => e.2.gang == g.id).map fun e => (((blockAt s e.2.block).map fun b => b.number).getD 0, e.2)
  live ++ g.strands.map fun t => (((g.blocks.find? fun b => b.1 == t.block).map fun b => b.2.number).getD 0, t)

/-- The strand entries of a grid. -/
def gridEntries (s : State) (g : Grid) : List (Nat × Strand) := g.gangs.flatMap (gangEntries s)

/-- R380: the record of a `park` is made once the grid's strands have reached their saved heads. -/
def reportPark (s : State) (p launch : Nat) : State :=
  match gridAt s p launch with
  | none => s
  | some g => match g.report with
    | none => s
    | some (tick, trap) =>
      if g.gangs.any fun x => x.state == .saving || x.state == .resident then s
      else modGrid (postRecord s p launch 1 tick trap (gridEntries s g)) p launch fun y => { y with report := none }

/-! ### Saving a gang (R369) -/

/-- R369: what of a scalar side is live at the saved head: its recipe's registers, and the results of an atomic. -/
def liveScalar (r : Option Recipe) (res : Results) (x : ScalarSide) : ScalarSide :=
  match r with
  | none => x
  | some q =>
    let live (n : Nat) : Bool := q.slive.getLsbD n || res.scalars.contains n
    { x with sregs := x.sregs.filter (fun e => live e.1), spoison := x.spoison.filter live }

/-- R369: the same of the lane state. -/
def liveLane (r : Option Recipe) (res : Results) (x : LaneSide) : LaneSide :=
  match r with
  | none => x
  | some q =>
    let live (k : Nat) : Bool := (q.ranges.any fun e => e.1 ≤ k / 64 && k / 64 ≤ e.2) || res.lanes.contains k
    { vregs := x.vregs.filter (fun e => live e.1), vpoison := x.vpoison.filter live, verr := x.verr.filter live,
      preds := x.preds.filter (fun e => q.plive.getLsbD e.1 || res.preds.contains e.1),
      ibase := x.ibase.filter (fun e => q.ilive.getLsbD (e.1 / 64)), ilen := x.ilen.filter fun e => q.ilive.getLsbD (e.1 / 64) }

/-- R368: the strand has reached its saved head: older regions have cleared, its loads have landed and its held
traps are deliverable. -/
def atSavedHead (t : Strand) : Bool :=
  t.saving && t.lphase != .requested && (t.regions.all fun r => r.cleared || r.close.isNone)
    && (t.ops.all fun o => o.dests.isEmpty || o.landed) && t.traps.all fun h => h.ready.isSome

/-- R369: the image of a strand at its saved head (DEDUCED, log 95). A strand whose regions have all cleared stands at no region
head: at an instruction that has closed its region and has not performed yet, at a trap, or at its end. It is saved whole
(R135; DEDUCED, log 117). -/
def saveStrand (t : Strand) : Strand :=
  let t := keepAdds t (t.regions.flatMap fun r => r.adds)
  let head := t.regions.filter fun r => r.close.isNone
  let res := (head.getLast?.map fun r => r.results).getD {}
  let recipe := if head.isEmpty && !t.atRegion then none else t.recipe
  { t with sc := liveScalar recipe res t.sc, ln := liveLane recipe res t.ln, ops := [], issued := [], vpend := [], spend := [], regions := head,
           sphase := .idle, lphase := .idle, swait := .none, lwait := .none, wake := false, stopped := false, stepping := 0,
           headSerial := (headNow t).1, headTick := (headNow t).2 }

/-- R369, R398: the window write-backs of a save: held effects of a cleared region with an immediate CLOSE, whose walks the core keeps.
A chunk whose write-back faults keeps its words and its state; so does a block whose strands have all ended (DEDUCED, log 37). -/
def saveWindows (s : State) (c bid : Nat) : State :=
  match blockAt s bid with
  | none => s
  | some b =>
    match (blockStrands s c bid).head? with
    | none => s
    | some lead =>
    let s := (dirtyChunks b none).foldl (fun s e =>
      match chunkPhysical s c b.part e.2.1 e.2.2 .write with
      | .error _ => s
      | .ok pa =>
        let s := keepTrans s c b.part (chunkAddr e.2.1 e.2.2)
        let l := lead.1
        let id := s.nextId
        let s := sendEffect s c l 0 lead.2.serial (homeOf s pa) (.write (dirtyBytes b e.2.2 (pa / 128)))
          (some (s.now + qPkg s c)) none 0 0
        let s := modStrand s c l fun t => { t with effects := t.effects ++ [id] }
        modBlock s bid fun x => { x with chunks := mmod x.chunks e.2.2 fun k => { k with wdirty := 0 } }) s
    modBlock s bid fun x => { x with chunks := (x.chunks.filter fun k => k.2.wdirty != 0).map fun k => (k.1, { k.2 with lease := 0, filling := none }) }

/-- R246, R369: a write-back of a save waits for the recall of a translation table's half. -/
def saveRecalls (s : State) (b : Block) : Bool :=
  (dirtyChunks b none).any fun e => match chunkPhysical s b.core b.part e.2.1 e.2.2 .write with
    | .error k => k == cRecall
    | .ok _ => false


/-- R369: the griddle that a block holds, at its rewind point. -/
def saveGriddle (s : State) (c bid : Nat) : State :=
  if !heldBy s c bid then s
  else
    let g := (coreOf s c).griddle
    let kept : Griddle := { g with latch := none, reading := none, segs := (g.segs.filter fun x => x.close.isNone).map fun x => { x with deps := [] } }
    modCore (modBlock s bid fun b => { b with saved := some kept }) c fun k => { k with griddle := Griddle.reset }

/-- R358, R369: every copy of a gang stops at a chunk boundary with its resume state, and leaves its place to others. -/
def pauseCopies (s : State) (gang : Nat) : State :=
  { s with copies := s.copies.map fun y => if y.gang == gang && !y.done then { y with paused := true, active := false } else y }

/-- The resident strands of a gang, with core and slot. -/
def gangStrands (s : State) (gang : Nat) : List (Nat × Nat × Strand) :=
  (s.strands.filter fun e => e.2.gang == gang).map fun e => (e.1 / 64, e.1 % 64, e.2)

/-- R369: every strand of the gang has reached its saved head, its streams have stopped with nothing uncleared, and
no write of a neighbour to one of its areas is on its way (DEDUCED, log 97). A hearth that a clock step has stopped saves none (R430). -/
def maySave (s : State) (gang : Nat) : Bool :=
  let blocks := s.blocks.filter fun e => e.2.gang == gang
  blocks.all (fun e => !hearthStopped s (hearthOf e.2.core) && !saveRecalls s e.2)
    && (gangStrands s gang).all (fun e => atSavedHead e.2.2 && !(s.links.any (ownLink s e.1 e.2.1)))
    && blocks.all (fun e => !heldBy s e.2.core e.1 || (coreOf s e.2.core).griddle.segs.all fun x => x.close.isNone)
    && !(s.cores.any fun k => k.2.hwb.any fun h => blocks.any fun e => e.1 == h.block)

/-- R324, R369: the context image of a gang takes a place in the launch arena, where there is room; how many bytes it has is not
architected (DESIGN CHOICE, log 119). -/
def takeImage (s : State) (p gang : Nat) : State :=
  let x := partAt s p
  let n := Config.imageBytes s.fresh
  let s : State := { s with fresh := s.fresh + 1 }
  match takeRange s x.arena (arenaBase x) (arenaSize x) n 64 with
  | none => s
  | some b => modGang (modPart s p fun y => { y with arena := (b, n) :: y.arena }) p gang fun y => { y with image := some b }

/-- R369: saves a gang and frees its cores. -/
def saveGang (s : State) (p launch : Nat) (g : Gang) : State :=
  let s := accrueAll s p
  let bids := (s.blocks.filter fun e => e.2.gang == g.id).map fun e => (e.2.core, e.1)
  let s := bids.foldl (fun s e => saveGriddle (saveWindows s e.1 e.2) e.1 e.2) s
  let ts := gangStrands s g.id
  let s := ts.foldl (fun s e => vacate s e.1 e.2.1 e.2.2) (pauseCopies s g.id)
  let blocks := s.blocks.filter fun e => e.2.gang == g.id
  let s : State := { s with blocks := s.blocks.filter fun e => e.2.gang != g.id }
  let s := takeImage (modGang s p g.id fun y => { y with state := .saved, strands := ts.map (fun e => saveStrand e.2.2), blocks := blocks }) p g.id
  let s := (List.range g.count).foldl (fun s i => returnItems s (g.core + i) p launch) s
  let s := match g.fault with
    | some r => raiseFault (modGang s p g.id fun y => { y with fault := none }) p launch g.id r.2 0 (some r.1)
    | none => s
  reoffer (reportPark s p launch) p 0

/-- R369, R378: the context of a gang is saved. -/
def execEvContextSave (p gang : Nat) (s : State) : Out :=
  match gangAt s p gang with
  | none => .next s
  | some (launch, g) => if g.state == .saving && maySave s gang then .next (saveGang s p launch g) else .next s

/-- R360, R364, R368: a request from outside a decision: a withdrawn filler, a hearth that is handed over, or the
debugger. -/
def execEvPreemptionRequest (p gang : Nat) (cause : PreemptCause) (s : State) : Out :=
  match gangAt s p gang with
  | none => .next s
  | some (_, g) =>
    let ok := match cause with
      | .filler => g.filler && (partAt s p).withdraw.isSome
      | .ownership => (partAt s p).awaiting.contains (0, hearthOf g.core)
      | .debugger => true
    .next (if ok then preemptGang s p gang else s)

/-! ### kill and park (R354) -/

/-- R354: the copies of a grid stop at a chunk boundary, with STATUS 7, and make no add: one that has left, and has not been
performed, is discarded. A copy whose add has been performed is no longer in progress. -/
def killCopies (s : State) (p launch : Nat) : State :=
  let made (y : Copy) : Bool := y.added && !(s.effects.any fun e => y.awaits.contains e.id && match e.stage with | .done _ _ => false | _ => true)
  let mine (y : Copy) : Bool := y.part == p && y.grid == launch && !y.done && !made y
  let engines := ((s.copies.filter mine).map fun y => y.engine).eraseDups
  let stop (y : Copy) : Copy :=
    { y with done := true, active := false, suspended := false, paused := false, status := 7, donek := y.chunks, staged := [] }
  let adds := (s.copies.filter fun y => mine y && y.added).flatMap fun y => y.awaits
  let s : State := { s with copies := s.copies.map (fun y => if mine y then stop y else y), effects := s.effects.filter fun e => !adds.contains e.id }
  engines.foldl engineEvents s

/-- R354: every uncleared region and segment of a resident gang is squashed. -/
def killRegions (s : State) (g : Gang) : State :=
  (List.range g.count).foldl (fun s i =>
    let c := g.core + i
    let seeds := (residents s c).flatMap fun e => if e.2.gang == g.id then (e.2.regions.filter fun r => !r.cleared).map fun r => r.id else []
    let k := coreOf s c
    let segs := if k.griddle.held && ((blockAt s k.griddle.holder).any fun b => b.gang == g.id)
      then (k.griddle.segs.filter fun x => !x.cleared).map fun x => x.id else []
    squashSet s c (seeds ++ segs)) s

/-- The strands and blocks of a killed gang are gone. -/
def clearGang (s : State) (p launch : Nat) (g : Gang) : State :=
  let ts := gangStrands s g.id
  let gw := (ts.map fun e => e.2.2.gwct) ++ g.strands.map fun t => t.gwct
  let s := ts.foldl (fun s e => vacate (dropGraft s e.2.2) e.1 e.2.1 e.2.2) s
  let s := ((ts.map fun e => e.2.2.stack) ++ g.strands.map fun t => t.stack).foldl (fun s b =>
    if ((recordOf s p launch).any fun r => r.sbase == 0) then returnStack s p b else s) s
  let s := (s.blocks.filter fun e => e.2.gang == g.id).foldl (fun s e =>
    if heldBy s e.2.core e.1 then modCore s e.2.core fun k => { k with griddle := Griddle.reset } else s) s
  let s : State := { s with blocks := s.blocks.filter fun e => e.2.gang != g.id,
                            links := s.links.filter fun q => !(ts.any fun e => ownLink s e.1 e.2.1 q) }
  let s := modGang (dropImage s p g) p g.id fun y => { y with state := .retired, strands := [], blocks := [], hold := false, image := none }
  let s := modGrid s p launch fun y => { y with gwct := gw.foldl max y.gwct }
  (List.range g.count).foldl (fun s i => returnItems s (g.core + i) p launch) s

/-- R354, R380: `kill`: the grid ends; the effects of its cleared regions remain, and no other does. -/
def killGrid (s : State) (p launch : Nat) (trap : Option TrapRec) : State :=
  match gridAt s p launch with
  | none => s
  | some g =>
    if g.code.isSome || g.killed then s
    else
      let live := g.gangs.filter fun x => x.state == .resident || x.state == .saving
      let s := live.foldl killRegions (accrueAll (killCopies s p launch) p)
      let s := postRecord s p launch 2 s.now trap (gridEntries s g)
      let s := (g.gangs.filter fun x => x.state != .retired).foldl (fun s x => clearGang s p launch x) s
      reoffer (modGrid s p launch fun y => { y with killed := true, parked := false, report := none }) p 0

/-- R354: `park`: every resident gang is pre-empted and the grid is held from placement. -/
def parkGrid (s : State) (p launch : Nat) (trap : Option TrapRec) : State :=
  match gridAt s p launch with
  | none => s
  | some g =>
    if g.code.isSome || g.killed then s
    else
      let s := modGrid s p launch fun y => { y with parked := true, report := some (s.now, trap) }
      reportPark ((g.gangs.filter fun x => x.state == .resident).foldl (fun s x => preemptGang s p x.id) s) p launch

/-- R379: a parked grid returns to placement; RETRIES is 0 again. -/
def unparkGrid (s : State) (p launch : Nat) : State :=
  match gridAt s p launch with
  | none => s
  | some g =>
    if !g.parked then s
    else reoffer (modGrid s p launch fun y =>
      { y with parked := false, gangs := y.gangs.map fun x => { x with hold := false, retries := 0 } }) p 0

/-! ### Completion (R189, R332, R333) -/

/-- R189: everything of a grid has ended: its gangs, its copies and its children. -/
def gridEnded (s : State) (g : Grid) : Bool :=
  g.code.isNone && g.children == 0 && (s.copies.all fun y => !(y.part == g.part && y.grid == g.launch) || y.done)
    && (g.killed || (g.gangs.length == gangCount g.record && g.gangs.all fun x => x.state == .retired))

/-- R324: a grid's pool goes back to the launch arena. -/
def returnPool (s : State) (p : Nat) (g : Grid) : State := if g.pooled then returnArena s p g.pool else s

/-- R189, R324: a grid retires, or the end of a killed grid is complete: its pool goes back. -/
def execEvGridRetire (p launch : Nat) (s : State) : Out :=
  match gridAt s p launch with
  | none => .next s
  | some g =>
    if gridEnded s g then
      .next (modGrid (returnPool s p g) p launch fun y => { y with code := some (if y.killed then 1 else 0), step := 1, pooled := false })
    else .next s

/-- R333: no effect of the grid is left without its completion, no write or add to a gang member's area waits, and its largest GWCT has
passed. -/
def gridSettled (s : State) (g : Grid) : Bool :=
  !(s.effects.any fun e => e.part == g.part && e.grid == g.launch)
    && !(s.cores.any fun k => k.2.hwb.any fun h => h.part == g.part && h.grid == g.launch) && g.gwct < s.now

/-- R332: a physical address that the hub writes for a partition: a translated, writable one. -/
def hubAddr (s : State) (p : Nat) (a : Word) : Option Nat :=
  if inAperture a || !canonical a then none
  else match walk s p (a.toNat % 2 ^ 57) with
    | .error _ => none
    | .ok t => if t.w then some (redirect s (t.pbase + a.toNat % 2 ^ 57 % t.size)) else none

/-- R332, R380: a completion write that failed: a fault record and a KIND 0x12 error record. -/
def completionFailed (s : State) (p launch : Nat) : State :=
  raiseError (postRecord s p launch 3 s.now none []) 0x12 2 (errSource 8 0) (some p) (launch % 2 ^ 32)

/-- R332: the status word. -/
def statusWord (g : Grid) : Nat := g.code.getD 0 + g.launch % 2 ^ 24 * 2 ^ 16

/-- R392, R402, R404: bytes that a partition writes to host memory are handed to the egress of the port that serves it, with the
TEE bit of its interface; of an interface in ERROR they are dropped. -/
def toHost (s : State) (part pa : Nat) (bs : FMap Byte) : State :=
  if hostDropped s part pa then s
  else
    let port := pa / 2 ^ 44 % 16
    let out : Outbound := { addr := pa, bytes := bs, tee := frozen s part, msix := none }
    { s with ports := mset s.ports port (let q := mgetD s.ports port Port.reset; { q with egress := q.egress ++ [out] }) }

/-- R332 step 1: the status word is written at its home; `register` writes words of the partition's own registers. -/
def statusWrite (register : State → FMap Byte → State) (p launch : Nat) (s : State) : Out :=
  match gridAt s p launch with
  | none => .next s
  | some g =>
    if g.step ≠ 1 || g.code.isNone || !gridSettled s g then .next s
    else
      let next (s : State) (gw : Nat) : State := modGrid s p launch fun y => { y with step := 2, gwct := max y.gwct gw }
      if g.record.saddr = 0 then .next (next s 0)
      else if hubWaits s p g.record.saddr.toNat 8 then .next s
      else match hubAddr s p g.record.saddr with
        | none => .next (next (completionFailed s p launch) 0)
        | some pa =>
          if frameHeld s [pa] then .next s else
          let bs := leBytes 8 (statusWord g)
          let s := walkLease s p [g.record.saddr.toNat]
          if isleOf pa = 15 then .next (next (noteWatches (register s (placed pa bs))) s.now)
          else if atHost pa then .next (next (toHost s p pa (placed pa bs)) s.now)
          else if hostDropped s p pa then .next (next s s.now)
          else .next (next (noteWatches { s with mem := memPuts s.mem (placed pa bs) }) (max s.now (horizonOf s (pa / 128))))

/-- R332: a grid that has completed is gone: its pool and its copies are, and its parent counts it no more. -/
def removeGrid (s : State) (p : Nat) (g : Grid) : State :=
  let s := returnPool s p g
  let s := modGrid s p g.record.parent fun y => { y with children := y.children - 1 }
  let s : State := { s with copies := s.copies.filter fun y => !(y.part == p && y.grid == g.launch) }
  modPart s p fun x => { x with grids := x.grids.filter fun y => y.launch != g.launch }

/-- R332 step 2: the completion add, as a release at `.sys`. -/
def execEvCompletionCounterAdd (p launch : Nat) (s : State) : Out :=
  match gridAt s p launch with
  | none => .next s
  | some g =>
    if g.step ≠ 2 || s.now ≤ g.gwct then .next s
    else if g.record.ctr = 0 then .next (removeGrid s p g)
    else if hubWaits s p g.record.ctr.toNat 8 then .next s
    else match (hubAddr s p g.record.ctr).filter fun pa => isleOf pa < 14 with
      | none => .next (removeGrid (completionFailed s p launch) p g)
      | some pa =>
        if frameHeld s [pa] then .next s else
        let old := BitVec.ofNat 64 (memNat s.mem pa 8)
        let s := walkLease s p [g.record.ctr.toNat]
        let s := noteWatches { s with mem := memWrite s.mem pa 8 (satAdd old g.record.amt).toNat }
        .next (removeGrid (if addOverflows old g.record.amt then completionFailed s p launch else s) p g)

/-! ### Events that the hub raises (R337, R360) -/

/-- R337 SUB 2: a DISPATCH 10,000 ticks after the last decision for a hearth, when that one held. -/
def execEvDispatchPeriodic (p h : Nat) (s : State) : Out :=
  match mget (partAt s p).heldAt h with
  | none => .next s
  | some t =>
    if s.now < t + 10000 || !hearthOffers s p h then .next s
    else .next (offerHearth (modPart s p fun x => { x with heldAt := mdel x.heldAt h }) p 2 h)

/-- R337 SUB 0: a gang has been resident for DPQUANT ticks and some queue is not empty. -/
def quantumDue (s : State) (p : Nat) (g : Gang) : Bool :=
  let x := partAt s p
  x.dpquant != 0 && g.state == .resident && g.quantum + x.dpquant.toNat ≤ s.now && !(headsOf x).isEmpty
    && !(x.events.any fun e => e.kind == 1 && e.gang == g.id) && !(x.interp.any fun i => i.event.kind == 1 && i.event.gang == g.id)

def execEvPreemptQuantum (p gang : Nat) (s : State) : Out :=
  match gangAt s p gang with
  | none => .next s
  | some (launch, g) =>
    if !quantumDue s p g then .next s
    else match gridAt s p launch with
      | none => .next s
      | some y => .next (raiseEvent s p { plainEvent s 1 0 (hearthOf g.core) with
          core := g.core, gang := gang, grid := launch, info := prioWord y.record false, since := s.now - g.placed })

/-- R347, R360: every gang on a core waits on a stalled collective: its grid has a descriptor in a stalled channel and
each of its strands there waits on a counter (DEDUCED, log 99). -/
def coreStalled (s : State) (p c : Nat) : Bool :=
  let on := (residents s c).filter fun e => e.2.part == p && !e.2.exited
  !on.isEmpty && on.all fun e => e.2.swait == .counter
    && s.channels.any fun k => k.2.stalled && k.2.descs.any fun d => d.part == p && d.grid == e.2.grid

/-- R347: the STALLED mask of a hearth. -/
def stalledMask (s : State) (p h : Nat) : Nat :=
  (List.range 4).foldl (fun a o => if coreStalled s p (4 * h + o) then a + 2 ^ o else a) 0

/-- R360, R431: module power lies below the floor. -/
def belowFloor (s : State) : Bool := s.ramp.demand < 1000 * s.pwrctl.floor.toNat

/-- R360: the STALLED mask of a hearth while a stall lasts and module power lies below the floor. -/
def stallMask (s : State) (p h : Nat) : Nat := if belowFloor s then stalledMask s p h else 0

/-- R360: a hearth whose mask differs from the one for which a DISPATCH with SUB 3 was last raised. -/
def stallChanged (s : State) (p : Nat) : Option Nat :=
  if (partAt s p).stallSeen.isEmpty && !(s.channels.any fun e => e.2.stalled && e.2.descs.any fun d => d.part == p) then none
  else (heldHearths (partAt s p)).find? fun h => stallMask s p h != mgetD (partAt s p).stallSeen h 0

/-- R360: a DISPATCH with SUB 3 for a held hearth on which a core has become STALLED. -/
def offerStall (s : State) (p h : Nat) : State :=
  let m := stallMask s p h
  let new := m &&& (15 ^^^ mgetD (partAt s p).stallSeen h 0)
  let s := modPart s p fun x => { x with stallSeen := if m = 0 then mdel x.stallSeen h else mset x.stallSeen h m }
  if new = 0 then s else raiseEvent s p { plainEvent s 0 3 h with mask := m }

/-- R360, R421: a collective that has moved no data for 2,000 ticks stalls; KIND 0x0B is raised once per stall. -/
def execEvCollectiveStall (k : Nat) (s : State) : Out :=
  let ch := mgetD s.channels k Channel.reset
  match ch.descs with
  | [] => .next s
  | d :: _ =>
    if ch.stalled || s.now < ch.moved + 2000 then .next s
    else
      let s : State := { s with channels := mset s.channels k { ch with stalled := true } }
      .next (raiseError s 0x0B 4 (errSource 5 0) none d.group)

/-- R360: a stall of a collective of the partition ends: its filler gangs are to be withdrawn (DEDUCED, log 99). -/
def stallEnds (s : State) (p : Nat) : State :=
  if (residentGangs (partAt s p)).any fun e => e.2.filler then
    modPart s p fun x => { x with withdraw := some (x.withdraw.getD s.now) }
  else s

/-- R360: a collective of the partition has moved again: its filler gangs are pre-empted. -/
def execEvFillerWithdrawal (p : Nat) (s : State) : Out :=
  if (partAt s p).withdraw.isNone then .next s
  else
    let s := modPart s p fun x => { x with withdraw := none }
    .next (((residentGangs (partAt s p)).filter fun e => e.2.filler).foldl (fun s e => preemptGang s p e.2.id) s)

/-! ### Accounts (R366, R367) -/

/-- R359: suspended copies whose account is no longer exhausted rejoin the front of the waiting copies. -/
def rejoinCopies (s : State) (p : Nat) : State :=
  let back (y : Copy) : Bool := y.part == p && y.suspended && !exhausted (partAt s p) y.acct
  let mine := (s.copies.filter back).map fun y => { y with suspended := false }
  if mine.isEmpty then s
  else ((mine.map fun y => y.engine).eraseDups).foldl engineEvents { s with copies := mine ++ s.copies.filter fun y => !back y }

/-- R366: the balance after a refill; REFILL and CAP are read as signed, as BALANCE is (DESIGN CHOICE, log 138). -/
def refilled (a : Account) : Word :=
  let b := a.balance.toInt
  BitVec.ofInt 64 (max b (min (b + a.refill.toInt) a.cap.toInt))

/-- R366: at REFILLAT the account is refilled. -/
def execEvAccountRefill (p acct : Nat) (s : State) : Out :=
  let a := accountOf (partAt s p) acct
  if a.period = 0 || s.now < a.refillAt then .next s
  else
    let s := accrue s p acct
    .next (rejoinCopies (modAccount s p acct fun a => { a with balance := refilled a, refillAt := a.refillAt + a.period.toNat }) p)

/-- R367: an account is charged its core time up to this tick. -/
def execEvAccountCharge (p acct : Nat) (s : State) : Out := .next (accrue s p acct)

end Sys2Proof.Machine
end

