-- ==== Sys2Proof/Machine/HostPorts.lean ====
section
/-! DEFINITION. Who may reach which registers (spec/19 R384 to R387, R391, R402, R403), the control semaphore (R386),
and the ordering of host writes (R388 to R391, spec/20 R408). -/

namespace Sys2Proof.Machine

open Sys2Proof

/-! ### Ports -/

def portAt (s : State) (n : Nat) : Port := mgetD s.ports n Port.reset
def modPort (s : State) (n : Nat) (f : Port → Port) : State := { s with ports := mset s.ports n (f (portAt s n)) }

/-- R391: every earlier posted write of the port has been performed, so that its register access takes effect. -/
def portQuiet (s : State) (h : HostAccess) : Bool := h.port < 2 && (portAt s h.port).up && (portAt s h.port).pieces.all fun x => x.performed

/-- R386: the port owns the control semaphore. -/
def ownsSem (s : State) (h : HostAccess) : Bool := h.port < 2 && s.owner == h.port + 1

/-- R402: while an interface is not unlocked, its function answers on the locking port alone. -/
def onLockPort (s : State) (h : HostAccess) (p : Nat) : Bool :=
  (partAt s p).tdisp.state == .unlocked || (partAt s p).tdisp.port == h.port

/-- R384, R402: the function of a partition answers on a port. -/
def vfAnswers (s : State) (h : HostAccess) (p : Nat) : Bool :=
  h.port < 2 && p < 16 && (portAt s h.port).up && (portAt s h.port).pserve.getLsbD p && onLockPort s h p

/-- R402: an access carries the TEE bit that a locked interface asks for. -/
def teeOk (s : State) (h : HostAccess) (p : Nat) : Bool := !frozen s p || h.tee

/-- A write of a register of a partition's function takes effect. -/
def vfMay (s : State) (h : HostAccess) (p : Nat) : Bool := portQuiet s h && vfAnswers s h p && teeOk s h p

/-- R356, R366: registers that the semaphore's holder may write as well, on whichever port it holds it (DEDUCED, log 40). -/
def vfOrOwner (s : State) (h : HostAccess) (p : Nat) : Bool :=
  vfMay s h p || (portQuiet s h && p < 16 && ownsSem s h && onLockPort s h p && teeOk s h p)

/-- R387: a write that only the semaphore's owner may make; from the other port it is dropped and counted
(DEDUCED, log 41). -/
def ownerWrite (s : State) (h : HostAccess) (act : State → State) : State :=
  if !portQuiet s h then s
  else if ownsSem s h then act s
  else modPort s h.port fun q => { q with refused := q.refused + 1 }

/-- A write that only the semaphore's owner may make, and that R387 does not count. -/
def ownerOnly (s : State) (h : HostAccess) (act : State → State) : State :=
  if portQuiet s h && ownsSem s h then act s else s

/-- R416, R429: the access is Zhevwell's, which acts under its policy (DESIGN CHOICE, log 141). -/
def byZhevwell (h : HostAccess) : Bool := h.port == 2

/-- R416, R429: a write that the semaphore's owner or Zhevwell may make. -/
def ownerOrZhevwell (s : State) (h : HostAccess) (act : State → State) : State := if byZhevwell h then act s else ownerOnly s h act

/-! ### Trusted interfaces -/

/-- R403, R412: a locked interface enters ERROR. -/
def toError (s : State) (p : Nat) : State :=
  if frozen s p then
    raiseError (modPart s p fun x => { x with tdisp := { x.tdisp with state := .error, since := s.now, acted := false } }) 0x10 3
      (errSource 5 0) (some p) p
  else s

/-- R403: every interface that a condition names enters ERROR. -/
def errorAll (s : State) (which : Nat → Bool) : State :=
  (List.range 16).foldl (fun s p => if which p then toError s p else s) s

/-! ### The control semaphore (R386) -/

/-- R386, R403: OWNER changes: EPOCH advances, and every locked interface enters ERROR. -/
def changeOwner (s : State) (n : Nat) : State := errorAll { s with owner := n, epoch := s.epoch + 1, takeAt := none } fun _ => true

/-- R386: TAKE. Of two TAKEs at one tick, port 0's wins, whichever comes first in the list of turns (DEDUCED, log 80). -/
def execEvTake (h : HostAccess) (s : State) : Out :=
  if portQuiet s h && s.owner == 0 then .next { changeOwner s (h.port + 1) with takeAt := some s.now }
  else if portQuiet s h && h.port == 0 && s.owner == 2 && s.takeAt == some s.now then .next { s with owner := 1 }
  else .next s

/-- R386: GIVE. -/
def execEvGive (h : HostAccess) (s : State) : Out :=
  if portQuiet s h && ownsSem s h then .next (changeOwner s 0) else .next s

/-- R386, R403, R412: a port's link goes down: the semaphore it held is free, the interfaces locked through it enter
ERROR, and an error record is raised. Its pieces still under way are performed. -/
def execEvHostLinkDown (port : Nat) (s : State) : Out :=
  if 2 ≤ port then .next s
  else
    let s := modPort s port fun q => { q with up := false }
    let s := errorAll s fun p => (partAt s p).tdisp.port == port
    let s := if s.owner == port + 1 then changeOwner s 0 else s
    .next (raiseError s 0x0E 3 (errSource 7 port) none port)

/-! ### Inbound writes (R388 to R391, R408) -/

/-- R408: where a byte that a host access of a partition names lies: translated and owned; none when that fails. -/
def hostByteAddr (s : State) (p a : Nat) (u : Use) : Option Nat :=
  if !canonical (BitVec.ofNat 64 a) || inAperture (BitVec.ofNat 64 a) then none
  else match walk s p (a % 2 ^ 57) with
    | .error _ => none
    | .ok t => if u == .write && !t.w then none else some (redirect s (t.pbase + a % 2 ^ 57 % t.size))

/-- The addresses of the bytes of a host access. -/
def hostAddrs (s : State) (p a n : Nat) (u : Use) : Option (List Nat) :=
  (List.range n).foldr (fun i acc => match acc, hostByteAddr s p (a + i) u with
    | some l, some x => some (x :: l)
    | _, _ => none) (some [])

/-- R388: the route of a line: its home, or for isle 15 the I/O die (route 12). -/
def routeOf (s : State) (line : Nat) : Nat := homeOf s (128 * line)

/-- R390: the entries that a port holds in an isle. -/
def portEntries (q : Port) (route : Nat) : Nat := (q.pieces.filter fun x => x.route == route && !x.performed).length

/-- R214, R390: shared entries of an isle in use. -/
def sharedUsed (s : State) (home : Nat) : Nat :=
  (s.effects.filter fun e => e.home == home && e.stage == .pending && e.entry == 2).length
    + portEntries (portAt s 0) home + portEntries (portAt s 1) home

/-- R412: KIND 0x0F of a host port. -/
def hostRefused (s : State) (port : Nat) : State := raiseError s 0x0F 2 (errSource 7 port) none port

/-- R388: the lines of a translated write, with their bytes. -/
def splitLines (addrs : List Nat) (bytes : List Byte) : List (Nat × FMap Byte) :=
  let all := addrs.zip bytes
  (linesOf addrs).map fun n => (n, msets [] (all.filter fun e => e.1 / 128 == n))

/-- R388, R390, R408: a posted write is translated, numbered and split. With no entry left to the port, of its own or of the
shared ones, it waits at the link. Dropped and refused writes are numbered and count as acknowledged. -/
def execEvHostPostedWrite (h : HostAccess) (p : Nat) (addr : Word) (bytes : List Byte) (s : State) : Out :=
  if 2 ≤ h.port || !vfAnswers s h p || !teeOk s h p || bytes.isEmpty then .next s
  else
    let q := portAt s h.port
    let s := walkLease s p [addr.toNat, addr.toNat + bytes.length - 1]
    let skip (s : State) : State := modPort (hostRefused s h.port) h.port fun q => { q with nextSeq := q.nextSeq + 1 }
    if hubWaits s p addr.toNat bytes.length && (hostAddrs s p addr.toNat bytes.length .write).isNone then .next s
    else match hostAddrs s p addr.toNat bytes.length .write with
    | none => .next (skip s)
    | some addrs =>
      if addrs.any fun a => isleOf a == 14 then .next (skip s)
      else
        let lines := splitLines addrs bytes
        let full := lines.any fun e => routeOf s e.1 < 12 &&
          let n := (lines.filter fun f => routeOf s f.1 == routeOf s e.1).length
          (512 < portEntries q (routeOf s e.1) + n || 2048 < sharedUsed s (routeOf s e.1) + n)
        if full then .next s
        else
          let new := lines.map fun e => { seq := q.nextSeq, route := routeOf s e.1, bytes := e.2, performed := false : Piece }
          .next (modPort s h.port fun q => { q with nextSeq := q.nextSeq + 1, pieces := q.pieces ++ new })

/-- R389: the grant of a route: the largest value below which every write with a piece on another route has been
acknowledged. -/
def grantFor (q : Port) (route : Nat) : Nat :=
  (q.pieces.filter fun x => x.route != route).foldl (fun g x => min g x.seq) q.nextSeq

/-- R389: the ordering point's latest grant reaches a route. A grant never falls. -/
def execEvGrantMessage (port route : Nat) (s : State) : Out :=
  if 2 ≤ port || 13 ≤ route then .next s
  else .next (modPort s port fun q =>
    let g := max (grantFor q route) (mgetD q.granted route 0)
    { q with granted := mset q.granted route g, seen := mset q.seen route g })

/-- R389: the next piece of a port on a route, if the grant that stands there lets it be performed. -/
def nextPiece (q : Port) (route : Nat) : Option Piece :=
  match q.pieces.find? fun x => x.route == route && !x.performed with
  | some x => if x.seq ≤ mgetD q.seen route 0 then some x else none
  | none => none

/-- R389: the write of a piece has been acknowledged once all its pieces on the route have been performed. -/
def execEvAck (port route : Nat) (s : State) : Out :=
  if 2 ≤ port then .next s
  else
    let q := portAt s port
    let open_ (n : Nat) : Bool := q.pieces.any fun x => x.route == route && x.seq == n && !x.performed
    match q.pieces.find? fun x => x.route == route && x.performed && !open_ x.seq with
    | none => .next s
    | some x => .next (modPort s port fun q => { q with pieces := q.pieces.filter fun y => !(y.route == route && y.seq == x.seq) })

end Sys2Proof.Machine
end

