-- ==== Sys2Proof/Machine/Damper.lean ====
section
/-! DEFINITION. The damper: views (spec/17 R344 to R348), the interpreter and its operations (R340 to R343, R349 to
R354, R359, R360), and the loading of a policy (R355 to R357). -/

namespace Sys2Proof.Machine

open Sys2Proof

/-! ### Views -/

/-- The key of word w of entry e of view v in a snapshot. -/
def viewKey (v e w : Nat) : Nat := 65536 * v + 16 * e + w

/-- The words of an entry, from word 0. -/
def viewEntry (v e : Nat) (ws : List Word) : FMap Word := (List.range ws.length).zip ws |>.map fun x => (viewKey v e x.1, x.2)

def nat64 (n : Nat) : Word := BitVec.ofNat 64 n
def flagBit (b : Bool) (n : Nat) : Nat := if b then 2 ^ n else 0

/-- R345: the entry of a queue (DEDUCED, log 42). -/
def queueEntry (s : State) (p : Nat) (e : DecEvent) (q : Nat) : FMap Word :=
  let x := partAt s p
  let k := queueOf x q
  match headOf x q with
  | none => viewEntry 0 q [0, nat64 k.records.length, 0, 0, 0, 0, 0, 0, -1, nat64 k.placed, nat64 k.lastdsp]
  | some h =>
    let r := h.record!
    let fit := viewFit s p h (if holdsHearth x e.hearth && e.channel.isNone then some e.hearth else none)
    let wait := s.now - h.arrived
    let grid := match h with | .grid _ => true | .record _ => false
    let w0 := flagBit (e.kind == 0 && fit.isSome) 0 + 2 + flagBit grid 2 + flagBit r.cores 3
    viewEntry 0 q [nat64 w0, nat64 k.records.length, nat64 (r.prio * 2 ^ 60 + min wait (2 ^ 60 - 1)), nat64 wait, nat64 r.prio, nat64 r.acct,
      nat64 (r.gang + 1), nat64 h.launch, (fit.map nat64).getD (-1), nat64 k.placed, nat64 k.lastdsp]

/-- R346: the entry of an account. -/
def accountEntry (s : State) (p a : Nat) : FMap Word :=
  let x := partAt s p
  let y := accountOf x a
  viewEntry 1 a [nat64 (flagBit (accountValid x a) 0 + flagBit (exhausted x a) 1), y.balance, nat64 (accountCores s p a).length,
    nat64 (y.charged.toNat / 1000), y.bytes, nat64 y.refillAt]

/-- R347: the gangs on a core with their grids, the earliest placed first. -/
def gangsByAge (s : State) (p c : Nat) : List (Grid × Gang) :=
  let all := (gangsOn s c).filterMap fun i => (gangAt s p i).bind fun e => (gridAt s p e.1).map fun g => (g, e.2)
  all.foldl (fun l e => insertGang e l) []
where
  /-- Inserts a gang by the tick of its placement. -/
  insertGang (e : Grid × Gang) : List (Grid × Gang) → List (Grid × Gang)
    | [] => [e]
    | y :: ys => if e.2.placed < y.2.placed then e :: y :: ys else y :: insertGang e ys

/-- R347: the three words of a core of a hearth. -/
def coreWords (s : State) (p c : Nat) : List Word :=
  match gangsByAge s p c with
  | [] => [0, 0, 0]
  | l@((g, x) :: _) =>
    [nat64 g.launch, nat64 (g.record.prio + g.record.acct * 16 + flagBit x.filler 20 + flagBit g.record.cores 21 + l.length * 2 ^ 32), nat64 x.placed]

/-- R347: cores of a hearth that hold a filler gang. -/
def fillerMask (s : State) (p h : Nat) : Nat :=
  (List.range 4).foldl (fun a o => if (gangsByAge s p (4 * h + o)).any fun e => e.2.filler then a + 2 ^ o else a) 0

/-- R347: the entry of the i-th owned hearth. -/
def hearthEntry (s : State) (p i h : Nat) : FMap Word :=
  let w0 := 1 + freeMask s h * 16 + stalledMask s p h * 256 + fillerMask s p h * 4096
  let w1 := (mgetD s.hearths h HearthStep.reset).step.toNat + adjOf h * 16
  viewEntry 2 i ([nat64 w0, nat64 w1] ++ (List.range 4).flatMap fun o => coreWords s p (4 * h + o))
where
  /-- R429: the near isle adjacent to a hearth. -/
  adjOf (h : Nat) : Nat := h / 16

/-- The place of a hearth among those a partition holds; 0 for one it does not hold. -/
def hearthIndex (x : Partition) (h : Nat) : Nat := (heldHearths x).findIdx? (· == h) |>.getD 0

/-- R344: the core index of a package core. -/
def coreIndex (x : Partition) (c : Nat) : Nat := 4 * hearthIndex x (c / 4) + c % 4

/-- R348: the event record. -/
def eventEntry (s : State) (p : Nat) (e : DecEvent) : FMap Word :=
  let x := partAt s p
  let hi := if e.channel.isSome then 0 else hearthIndex x e.hearth
  let w3 := if e.kind = 0 then e.mask else if e.kind = 3 then 0 else coreIndex x e.core
  let w8 := if e.kind = 3 then flagBit e.channel.isSome 0 else e.code
  viewEntry 3 0 [nat64 (e.kind + 16 * e.sub), nat64 e.tick, nat64 hi, nat64 w3, nat64 e.grid, e.info, nat64 e.waiter, e.winfo,
    nat64 w8, nat64 e.retries, nat64 (if e.kind = 1 then e.since else 0)]

/-- R340: the snapshot of the four views. Accounts that nothing has touched are left out (DEDUCED, log 93). -/
def snapshot (s : State) (p : Nat) (e : DecEvent) : FMap Word :=
  let x := partAt s p
  let accts := if (mget x.accounts 0).isSome then x.accounts.map fun a => a.1 else 0 :: x.accounts.map fun a => a.1
  (List.range 64).flatMap (queueEntry s p e) ++ accts.flatMap (accountEntry s p)
    ++ (((List.range (heldHearths x).length).zip (heldHearths x)).flatMap fun h => hearthEntry s p h.1 h.2) ++ eventEntry s p e

/-- R344: the entries of a view: 64 queues, 4,096 accounts, the owned hearths, one event. -/
def viewSize (i : Interp) (v : Nat) : Nat :=
  if v = 0 then 64 else if v = 1 then 4096
  else if v = 2 then ((List.range 192).filter fun e => (mget i.view (viewKey 2 e 0)).isSome).length else 1

/-- R344, R346: a word of a view; an account that nothing has touched has a BALANCE of 0 and is exhausted. -/
def viewWord (i : Interp) (v e w : Nat) : Word :=
  if e < viewSize i v && w < 16 then
    mgetD i.view (viewKey v e w) (if v = 1 && w = 0 && (mget i.view (viewKey 1 e 0)).isNone then 2 else 0)
  else 0

/-! ### The interpreter -/

/-- R349: a damper register, and the value of src. -/
def dreg (i : Interp) (r : Nat) : Word := mgetD i.regs r 0
def dput (i : Interp) (r : Nat) (v : Word) : Interp := { i with regs := mset i.regs r v }
def dsrc (i : Interp) (s : BitVec 4) (m : BitVec 2) (x : BitVec 16) : Word :=
  if m = 0 then dreg i s.toNat else if m = 1 then nat64 s.toNat else nat64 x.toNat

def setInterp (s : State) (p : Nat) (i : Option Interp) : State := modPart s p fun x => { x with interp := i }

/-- R341: one cycle more for MODE 10. -/
def modeCost (m : BitVec 2) : Nat := if m = 2 then 1 else 0

/-- R351: the condition state after a comparison. -/
def compared (i : Interp) (a b : Word) : Interp :=
  { i with eq := a == b, ltn := a.toNat < b.toNat, lts := a.toInt < b.toInt }

/-- R351: a condition of `jf`. -/
def condHolds (i : Interp) (cc : Nat) : Bool :=
  match cc with
  | 0 => true | 1 => i.eq | 2 => !i.eq | 3 => i.ltn | 4 => !i.ltn | 5 => !i.ltn && !i.eq
  | 6 => i.ltn || i.eq | 7 => i.lts | 8 => !i.lts | 9 => !i.lts && !i.eq | 10 => i.lts || i.eq | _ => false

/-! ### Decisions -/

/-- R337: the last decision for a hearth held, or did not; R337 SUB 0: a PREEMPT decision starts a gang's quantum. -/
def noteDecision (s : State) (p : Nat) (e : DecEvent) (held : Bool) : State :=
  let s := if e.kind = 0 then
      modPart s p fun x => { x with heldAt := if held then mset x.heldAt e.hearth s.now else mdel x.heldAt e.hearth }
    else s
  if e.kind = 1 then modGang s p e.gang fun g => { g with quantum := s.now } else s

/-- R331, R354: gangs of a grid placed by `dsp`: the one gang, or a co-resident grid whole; a co-resident grid that
this decision has accepted and that does not fit fails with 0x10. The answer counts the gangs placed. -/
def placeGrid (s : State) (p launch c : Nat) (filler fresh : Bool) : Option (Nat × State) :=
  match gridAt s p launch with
  | none => none
  | some g =>
    let count (s : State) : Nat := ((gridAt s p launch).map fun g => (g.gangs.filter fun x => x.state == .resident).length).getD 0
    if g.code.isSome then some (0, s)
    else if g.record.cores then
      match placeWhole s p g with
      | some s' => some (count s' - count s, s')
      | none => if fresh then some (0, modGrid s p launch fun y => { y with code := some 0x10, step := 1 }) else none
    else (placeOne s p g c filler).map fun s' => (count s' - count s, s')

/-- R354: `dsp`: accepts the head of a queue if it is a record and places its next gang at a core offset of a hearth;
none when the state does not allow it (R343). `op`: a `dsp` or a `fill` does so, and no fallback (R345). -/
def dispatchHead (s : State) (p h q off : Nat) (filler op : Bool) : Option State :=
  let x := partAt s p
  if !holdsHearth x h || 64 ≤ q then none
  else match headOf x q with
    | none => none
    | some hd =>
      let whole := hd.record!.cores
      if !whole && (4 ≤ off || !(neverFits x hd || gangFitsAt s p hd h off)) then none
      else
        let got : Option (Nat × Bool × State) := match hd with
          | .grid g => some (g.launch, false, s)
          | .record _ => (acceptRecord s p q).map fun r => (r.1, true, r.2)
        match got with
        | none => none
        | some (launch, fresh, s) =>
          (placeGrid s p launch (4 * h + off) filler fresh).map fun r =>
            reoffer (modQueue r.2 p q fun k => { k with placed := k.placed + r.1, lastdsp := if op then s.now else k.lastdsp }) p 0

/-- R354, R372: `pre`: flashback of the gang placed earliest on a core; of a co-resident grid, of every gang
(DEDUCED, log 46). -/
def preCore (s : State) (p idx : Nat) : Option State :=
  match (heldHearths (partAt s p))[idx / 4]? with
  | none => none
  | some h => match gangsByAge s p (4 * h + idx % 4) with
    | [] => none
    | (g, x) :: _ =>
      if g.record.cores then
        if g.gangs.any fun y => y.state == .saving then none
        else some ((g.gangs.filter fun y => y.state == .resident).foldl (fun s y => preemptGang s p y.id) s)
      else if x.state == .resident then some (preemptGang s p x.id) else none

/-- R372: the event's gang is being saved. -/
def eventSaving (s : State) (p : Nat) (e : DecEvent) : Bool :=
  (e.kind == 1 || e.kind == 2) && ((gangAt s p e.gang).any fun g => g.2.state == .saving)

/-- R343: the event's grid is still live. -/
def eventGrid (s : State) (p : Nat) (e : DecEvent) : Option Grid :=
  (gridAt s p e.grid).filter fun g => g.code.isNone && !g.killed && !eventSaving s p e

def parkEvent (s : State) (p : Nat) (e : DecEvent) : Option State := (eventGrid s p e).map fun _ => parkGrid s p e.grid e.trap

def killEvent (s : State) (p : Nat) (e : DecEvent) : Option State := (eventGrid s p e).map fun _ => killGrid s p e.grid e.trap

/-- R354, R368: `retry`: the gang, saved at its heads or pre-empted now, returns to placement, while retries are left. -/
def retryEvent (s : State) (p : Nat) (e : DecEvent) (limit : Nat) : Option State :=
  match eventGrid s p e, gangAt s p e.gang with
  | some _, some (_, g) =>
    if g.state != .saved && g.state != .resident then none
    else if g.retries < limit then
      let s := modGang s p e.gang fun y => { y with retries := y.retries + 1, hold := false }
      some (if g.state == .resident then preemptGang s p e.gang else reoffer s p 0)
    else parkEvent s p e
  | _, _ => none

/-- R359: the holder and the waiter of an ENGINE event at a copy engine, if they still stand so. -/
def enginePair (s : State) (e : DecEvent) : Option (Copy × Copy) :=
  match copyAt s e.gang, copyAt s e.core with
  | some h, some w => if h.active && copyWaits w then some (h, w) else none
  | _, _ => none

/-- R359: the waiter takes the holder's place; the holder is left with `f` and goes to the front of the copies. -/
def swapCopies (s : State) (h w : Copy) (f : Copy → Copy) : State :=
  let s := modCopy s w.id fun y => { y with started := true, active := true }
  engineEvents { s with copies := f { h with active := false } :: s.copies.filter fun y => y.id != h.id } h.engine

/-- R359: `susp` (DEDUCED, log 49). -/
def suspEvent (s : State) (p : Nat) (e : DecEvent) : Option State :=
  if e.channel.isSome then none
  else (enginePair s e).bind fun x =>
    if exhausted (partAt s p) x.1.acct then some (swapCopies s x.1 x.2 fun y => { y with suspended := true }) else none

/-- R359: `grant`; on a channel the waiter's descriptor runs next, if the holder's still runs. -/
def grantEvent (s : State) (e : DecEvent) : Option State :=
  match e.channel with
  | none => (enginePair s e).map fun x => swapCopies s x.1 x.2 id
  | some k =>
    let ch := mgetD s.channels k Channel.reset
    match ch.descs with
    | d :: rest => match rest.find? fun w => w.id == e.core with
      | some w =>
        if d.id != e.gang then none
        else some { s with channels := mset s.channels k { ch with descs := d :: w :: rest.filter fun x => x.id != w.id } }
      | none => none
    | [] => none

/-- R342: the queue that the DISPATCH fallback takes: READY, with the largest WAIT. -/
def oldestReady (i : Interp) : Option Nat :=
  (List.range 64).foldl (fun m q =>
    if !(viewWord i 0 q 0).getLsbD 0 then m
    else match m with
      | none => some q
      | some b => if (viewWord i 0 b 3).toNat < (viewWord i 0 q 3).toNat then some q else m) none

/-- R342, R343: the fallback of the event's kind; where it cannot be carried out nothing is done (DEDUCED, log 44). -/
def fallback (s : State) (p : Nat) (i : Interp) : State :=
  match i.event.kind with
  | 0 => match (oldestReady i).bind fun q => dispatchHead s p i.event.hearth q (viewWord i 0 q 8).toNat false false with
    | some s => noteDecision s p i.event false
    | none => noteDecision s p i.event true
  | 2 => (parkEvent s p i.event).getD s
  | _ => noteDecision s p i.event true

/-- The queue that the decision instruction at the program counter names. -/
def decisionQueue (i : Interp) : Option Nat :=
  match decodeDamper (i.policy.getD i.pc 0) (i.policy.getD (i.pc + 1) 0) with
  | .ok (.dDsp q _ _ _, _) => some (dreg i q.toNat).toNat
  | .ok (.dFill q _ _ _, _) => some (dreg i q.toNat).toNat
  | _ => none

/-- R246, R322: the record at the head of a queue has its kernel header in a half that a CXL host owns. -/
def headWaits (s : State) (p q : Nat) : Bool :=
  match headOf (partAt s p) q with
  | some (.record r) => headerOwned s p r.record.scode
  | _ => false

/-- R246: a decision of a queue, or its fallback, waits for the recall of the header that it reads. -/
def decisionWaits (s : State) (p : Nat) (i : Interp) (q : Option Nat) : Bool :=
  i.event.kind == 0 && (q.any (headWaits s p) || (oldestReady i).any (headWaits s p))

/-- R356: a decision has been made, and the interpreter is idle. -/
def decided (s : State) (p : Nat) : State := modPart s p fun x => { x with interp := none, dpcnt := x.dpcnt + 1 }

/-- R341: an overrun, on the tick after the last cycle that was run. -/
def overrunRun (s : State) (p : Nat) (i : Interp) : State :=
  if s.now < i.began + i.cycles || decisionWaits s p i none then s
  else fallback (modPart (decided s p) p fun x => { x with dpovr := x.dpovr + 1 }) p i

/-- What a damper instruction that decides nothing does: R341's cost, then `f` on the interpreter with its word index
past the instruction. -/
def damperRun (s : State) (cost : Interp → Nat) (m : BitVec 2) (f : Interp → Interp) : Out :=
  match s.agent with
  | .damper p => match (partAt s p).interp with
    | none => .fault .noAgent
    | some i =>
      let n := cost i + modeCost m
      if 512 < i.cycles + n then .next (overrunRun s p i)
      else .next (setInterp s p (some (f { i with cycles := i.cycles + n, pc := i.pc + 1 + modeCost m })))
  | _ => .fault .noAgent

/-- R339, R343: a decision instruction, performed on the tick after its last cycle: `ok` says whether the kind accepts
it, `f` performs it where the state allows; otherwise it is refused and the fallback is performed. -/
def damperDecide (s : State) (m : BitVec 2) (ok : DecEvent → Bool) (held : Bool) (f : State → Nat → Interp → Option State) : Out :=
  match s.agent with
  | .damper p => match (partAt s p).interp with
    | none => .fault .noAgent
    | some i =>
      let n := 1 + modeCost m
      if 512 < i.cycles + n then .next (overrunRun s p i)
      else if s.now < i.began + i.cycles + n || decisionWaits s p i (decisionQueue i) then .next s
      else
        let s := decided s p
        match (if ok i.event then f s p i else none) with
        | some s => .next (noteDecision s p i.event held)
        | none => .next (fallback (modPart s p fun x => { x with dpref := x.dpref + 1 }) p i)
  | _ => .fault .noAgent

/-! ### Arithmetic, comparison and jumps (R350, R351) -/

/-- R350: dD := dD op src. -/
def damperArith (d s : BitVec 4) (m : BitVec 2) (x : BitVec 16) (f : Word → Word → Word) (st : State) : Out :=
  damperRun st (fun _ => 1) m fun i => dput i d.toNat (f (dreg i d.toNat) (dsrc i s m x))

def execDAdd (d s : BitVec 4) (m : BitVec 2) (x : BitVec 16) (st : State) : Out := damperArith d s m x (fun a b => a + b) st
def execDSub (d s : BitVec 4) (m : BitVec 2) (x : BitVec 16) (st : State) : Out := damperArith d s m x (fun a b => a - b) st
def execDMul (d s : BitVec 4) (m : BitVec 2) (x : BitVec 16) (st : State) : Out := damperArith d s m x (fun a b => a * b) st
def execDMin (d s : BitVec 4) (m : BitVec 2) (x : BitVec 16) (st : State) : Out :=
  damperArith d s m x (fun a b => if b.toNat < a.toNat then b else a) st
def execDMax (d s : BitVec 4) (m : BitVec 2) (x : BitVec 16) (st : State) : Out :=
  damperArith d s m x (fun a b => if a.toNat < b.toNat then b else a) st
def execDAnd (d s : BitVec 4) (m : BitVec 2) (x : BitVec 16) (st : State) : Out := damperArith d s m x (fun a b => a &&& b) st
def execDOr (d s : BitVec 4) (m : BitVec 2) (x : BitVec 16) (st : State) : Out := damperArith d s m x (fun a b => a ||| b) st
def execDXor (d s : BitVec 4) (m : BitVec 2) (x : BitVec 16) (st : State) : Out := damperArith d s m x (fun a b => a ^^^ b) st
/-- R350: the count is src mod 64. -/
def execDShl (d s : BitVec 4) (m : BitVec 2) (x : BitVec 16) (st : State) : Out :=
  damperArith d s m x (fun a b => a <<< (b.toNat % 64)) st
def execDShr (d s : BitVec 4) (m : BitVec 2) (x : BitVec 16) (st : State) : Out :=
  damperArith d s m x (fun a b => a >>> (b.toNat % 64)) st

/-- R351. -/
def execDCmp (d s : BitVec 4) (m : BitVec 2) (x : BitVec 16) (st : State) : Out :=
  damperRun st (fun _ => 1) m fun i => compared i (dreg i d.toNat) (dsrc i s m x)

/-- R351: a jump counts from the word after it. -/
def execDJf (c s : BitVec 4) (m : BitVec 2) (x : BitVec 16) (st : State) : Out :=
  damperRun st (fun _ => 1) m fun i => if condHolds i c.toNat then { i with pc := i.pc + (dsrc i s m x).toNat } else i

/-! ### Views (R352, R353) -/

/-- R352: a word of a view; an address of 2^16 or more reads 0. -/
def damperLoad (v : Nat) (d s : BitVec 4) (m : BitVec 2) (x : BitVec 16) (st : State) : Out :=
  damperRun st (fun _ => 4) m fun i =>
    let a := (dsrc i s m x).toNat
    dput i d.toNat (if a < 65536 then viewWord i v (a / 16) (a % 16) else 0)

def execDLdq (d s : BitVec 4) (m : BitVec 2) (x : BitVec 16) (st : State) : Out := damperLoad 0 d s m x st
def execDLdt (d s : BitVec 4) (m : BitVec 2) (x : BitVec 16) (st : State) : Out := damperLoad 1 d s m x st
def execDLdh (d s : BitVec 4) (m : BitVec 2) (x : BitVec 16) (st : State) : Out := damperLoad 2 d s m x st
def execDLde (d s : BitVec 4) (m : BitVec 2) (x : BitVec 16) (st : State) : Out := damperLoad 3 d s m x st

/-- R353: the candidate with the smallest or largest key; the lowest entry among equals. -/
def bestEntry (i : Interp) (first desc : Nat) : Word :=
  let v := bits desc 1 0
  let key (e : Nat) : Nat := (viewWord i v e (bits desc 6 3)).toNat
  let cand := ((List.range (bits desc 10 7 + 1)).map fun k => first + k).filter fun e => e < viewSize i v && (viewWord i v e 0).getLsbD 0
  if v = 3 then -1
  else match cand with
    | [] => -1
    | e :: t => nat64 (t.foldl (fun b e => if (if desc.testBit 2 then key b < key e else key e < key b) then e else b) e)

/-- R353: of the descriptor bits [10:0] are used. -/
def execDBest (d s : BitVec 4) (m : BitVec 2) (x : BitVec 16) (st : State) : Out :=
  let desc (i : Interp) : Nat := (dsrc i s m x).toNat % 2048
  damperRun st (fun i => 4 + (bits (desc i) 10 7 + 1)) m fun i =>
    let v := bestEntry i (dreg i d.toNat).toNat (desc i)
    compared (dput i d.toNat v) v (-1)

/-! ### Decision instructions (R339, R354, R359, R360) -/

def execDDsp (q s : BitVec 4) (m : BitVec 2) (x : BitVec 16) (st : State) : Out :=
  damperDecide st m (fun e => e.kind == 0) false fun st p i =>
    dispatchHead st p i.event.hearth (dreg i q.toNat).toNat (dsrc i s m x).toNat false true

/-- R343, R354, R360: on a core that is STALLED as it is performed, of a gang of several blocks every core (DESIGN CHOICE, log 139); a
co-resident head is refused. -/
def execDFill (q s : BitVec 4) (m : BitVec 2) (x : BitVec 16) (st : State) : Out :=
  damperDecide st m (fun e => e.kind == 0 && e.sub == 3) false fun st p i =>
    let k := (dreg i q.toNat).toNat
    let off := (dsrc i s m x).toNat
    let mask := stalledMask st p i.event.hearth
    match if k < 64 then headOf (partAt st p) k else none with
    | none => none
    | some hd =>
      let n := hd.gang.1
      if hd.record!.cores || 4 ≤ off || !((List.range n).all fun j => mask.testBit (off + j)) then none
      else dispatchHead st p i.event.hearth k off true true

def execDPre (c : BitVec 4) (st : State) : Out :=
  damperDecide st 0 (fun e => e.kind == 1) false fun st p i => preCore st p (dreg i c.toNat).toNat

def execDPark (st : State) : Out := damperDecide st 0 (fun e => e.kind == 2) false fun st p i => parkEvent st p i.event

def execDKill (st : State) : Out :=
  damperDecide st 0 (fun e => e.kind == 1 || e.kind == 2) false fun st p i => killEvent st p i.event

def execDRetry (s : BitVec 4) (m : BitVec 2) (x : BitVec 16) (st : State) : Out :=
  damperDecide st m (fun e => e.kind == 2) false fun st p i => retryEvent st p i.event (dsrc i s m x).toNat

def execDSusp (st : State) : Out := damperDecide st 0 (fun e => e.kind == 3) false fun st p i => suspEvent st p i.event

def execDGrant (st : State) : Out := damperDecide st 0 (fun e => e.kind == 3) false fun st _ i => grantEvent st i.event

def execDHold (st : State) : Out := damperDecide st 0 (fun e => e.kind != 2) true fun st _ _ => some st

/-! ### Beginning a decision (R338, R340, R357) -/

/-- R338: the order of pending events. -/
def eventRank (x : Partition) (e : DecEvent) : List Nat :=
  let kind := if e.kind = 2 then 0 else if e.kind = 1 then 1 else if e.kind = 3 then 2 else 3
  [e.tick, kind, if e.channel.isSome then 0 else hearthIndex x e.hearth,
   if e.kind = 1 || e.kind = 2 then coreIndex x e.core else 0, e.grid, (e.channel.map fun k => k + 1).getD 0]

/-- Lexicographic order of lists of numbers. -/
def ranksBefore : List Nat → List Nat → Bool
  | a :: s, b :: t => a < b || (a == b && ranksBefore s t)
  | _, _ => false

/-- R338: the pending event that is decided next. -/
def nextEvent (x : Partition) : Option DecEvent :=
  x.events.foldl (fun m e => match m with
    | none => some e
    | some b => if ranksBefore (eventRank x e) (eventRank x b) then some e else m) none

/-- R357: the policy that a decision beginning at this tick runs. -/
def swapPolicy (s : State) (p : Nat) : State :=
  modPart s p fun x => match x.shadow with
    | some (ws, t) => if t ≤ s.now then { x with policy := ws, shadow := none, dpstate := if x.dpstate = 1 then 1 else 0 } else x
    | none => x

/-- R246: a decision that no policy makes waits for the recall of a header that it may read. -/
def beginWaits (s : State) (p : Nat) : Bool :=
  let x := partAt (swapPolicy s p) p
  x.policy.isEmpty && (List.range 64).any (headWaits s p) && (nextEvent x).any fun e => e.kind == 0

/-- R340, R342, R357: the idle interpreter begins the next decision on a snapshot; with no policy the fallback is
performed. -/
def execEvDecisionBegins (p : Nat) (s : State) : Out :=
  if (partAt s p).interp.isSome || (partAt s p).events.isEmpty || beginWaits s p then .next s
  else
    let s := swapPolicy (accrueAll s p) p
    match nextEvent (partAt s p) with
    | none => .next s
    | some e =>
      let i : Interp := { regs := [], eq := false, ltn := false, lts := false, pc := 0, cycles := 0, began := s.now, event := e,
                          view := snapshot s p e, policy := (partAt s p).policy }
      let s := modPart s p fun x => { x with events := x.events.erase e }
      .next (if i.policy.isEmpty then fallback (decided s p) p i else setInterp s p (some i))

/-- R341: the instruction at the word index would pass 512 cycles, or its word is no instruction. -/
def damperOver (i : Interp) : Bool :=
  match decodeDamper (i.policy.getD i.pc 0) (i.policy.getD (i.pc + 1) 0) with
  | .error _ => true
  | .ok (x, n) => 512 < i.cycles + (n - 1) + (match x with
      | .dLdq _ _ _ _ | .dLdt _ _ _ _ | .dLdh _ _ _ _ | .dLde _ _ _ _ => 4
      | .dBest _ s m w => 5 + bits ((dsrc i s m w).toNat % 2048) 10 7
      | _ => 1)

/-- R341: an overrun takes the fallback. -/
def execEvDamperOverrun (p : Nat) (s : State) : Out :=
  match (partAt s p).interp with
  | none => .next s
  | some i => .next (if damperOver i then overrunRun s p i else s)

/-! ### Loading a policy (R355 to R357) -/

/-- R356, R357: writing LOAD starts a check of the blob, with the swap tick sampled. -/
def startLoad (s : State) (p : Nat) : State :=
  modPart s p fun x =>
    if x.dpstate = 1 then x
    else { x with checking := some (x.dpbase, x.dplen.toNat, x.dpswap), dpstate := 1, dpcause := 0, dpreason := 0, dpword := 0 }

def execEvLoad (p : Nat) (h : HostAccess) (s : State) : Out := .next (if vfOrOwner s h p then startLoad s p else s)

/-- Bytes that the hub reads for a partition; none where one cannot be read. -/
def hubRead (s : State) (p : Nat) (a : Word) (n : Nat) : Option (List Byte) :=
  (List.range n).foldr (fun i acc => match acc, hostByteAddr s p ((a.toNat + i) % 2 ^ 64) .read with
    | some l, some pa => if isleOf pa = 15 then none else some (homeByte s pa :: l)
    | _, _ => none) (some [])

/-- R355 step 4: the fields of an instruction that the decoder does not judge. -/
def immediateOk (i : Instr) : Bool :=
  match i with
  | .dBest _ s m x => m == 0 || (let d := if m == 1 then s.toNat else x.toNat; bits d 1 0 != 3 && bits d 15 11 == 0)
  | .dDsp _ s m x | .dFill _ s m x => m == 0 || (if m == 1 then s.toNat else x.toNat) ≤ 3
  | _ => true

/-- R60: the assigned operations. -/
def damperOpOk (op : Nat) : Bool := op ≤ 0x10 || (0x18 ≤ op && op ≤ 0x20)

/-- R355 step 4: the lowest REASON that applies to the instruction at a word; 0 for none. -/
def wordReason (ws : List (BitVec 16)) (k : Nat) : Nat :=
  let w := ws.getD k 0
  let m := bits w.toNat 1 0
  let op := bits w.toNat 15 10
  if m = 3 || !damperOpOk op then 1
  else if m = 2 && ws.length ≤ k + 1 then 2
  else if op = 0x0F && (m = 0 || 11 ≤ bits w.toNat 9 6) then 3
  else match decodeDamper w (ws.getD (k + 1) 0) with
    | .error _ => 5
    | .ok (i, _) => if immediateOk i then 0 else 5

/-- R355 step 4: the first words of the instructions from a word on, or the failure. -/
def firstWords (ws : List (BitVec 16)) : Nat → Nat → Except (Nat × Nat) (List Nat)
  | 0, _ => .ok []
  | fuel + 1, k =>
    if ws.length ≤ k then .ok []
    else match wordReason ws k with
      | 0 => (firstWords ws fuel (k + if bits (ws.getD k 0).toNat 1 0 = 2 then 2 else 1)).map fun l => k :: l
      | r => .error (r, k)

/-- R351: the target of a `jf` at a word. -/
def jumpTarget (ws : List (BitVec 16)) (k : Nat) : Nat :=
  let w := (ws.getD k 0).toNat
  if bits w 1 0 = 2 then k + 2 + (ws.getD (k + 1) 0).toNat else k + 1 + bits w 5 2

/-- R355 steps 4 to 6: the REASON and WORD of a refusal. -/
def checkWords (ws : List (BitVec 16)) : Option (Nat × Nat) :=
  match firstWords ws (ws.length + 1) 0 with
  | .error e => some e
  | .ok ks =>
    let op (k : Nat) : Nat := bits (ws.getD k 0).toNat 15 10
    match ks.find? fun k => op k == 0x0F && !ks.contains (jumpTarget ws k) with
    | some k => some (3, k)
    | none => match ks.getLast? with
      | some k => if 0x18 ≤ op k then none else some (4, k)
      | none => some (2, 0)

/-- The words of a blob. -/
def wordsOf : List Byte → List (BitVec 16)
  | a :: b :: t => BitVec.ofNat 16 (a.toNat + 256 * b.toNat) :: wordsOf t
  | _ => []

/-- R355, R435: the check of a blob: REASON and WORD of its refusal, or its words. Without a registered key no signature verifies. -/
def checkBlob (s : State) (p : Nat) (base : Word) (n : Nat) : Except (Nat × Nat) (List (BitVec 16)) :=
  if n = 0 || 1024 < n then .error (2, 0)
  else
    let word (k : Nat) : Option (List Byte) := hubRead s p (base + nat64 (2 * k)) 2
    match (List.range n).find? fun k => (word k).isNone with
    | some k => .error (7, k)
    | none =>
      let img := (List.range n).flatMap fun k => (word k).getD []
      let x := partAt s p
      let sig := if signPolicy x then hubRead s p (base + nat64 ((2 * n + 3) / 4 * 4)) 2820 else some []
      match sig with
      | none => .error (7, n)
      | some g =>
        if signPolicy x && !(mget s.flash.policyKeys p).any (fun k => Config.xmssVerify (k.toNat + 1) img g) then .error (6, 0)
        else match checkWords (wordsOf img) with
          | some e => .error e
          | none => .ok (wordsOf img)

/-- R355, R357: the check ends: the blob enters the shadow slot, or the load is refused (DEDUCED, log 45). -/
def execEvDamperLoadCheckDone (p : Nat) (s : State) : Out :=
  match (partAt s p).checking with
  | none => .next s
  | some (base, n, swap) =>
    let total := (2 * n + 3) / 4 * 4 + 2820
    if 0 < n && n ≤ 1024 && hubWaits s p base.toNat (if signPolicy (partAt s p) then total else 2 * n) then .next s else
    let s : State := { walkLease s p [base.toNat, base.toNat + total] with fresh := s.fresh + 1 }
    match checkBlob s p base n with
    | .ok ws => .next (modPart s p fun x => { x with checking := none, shadow := some (ws, swap.toNat), dpstate := 2 })
    | .error (r, w) => .next (modPart s p fun x =>
        { x with checking := none, dpstate := 3, dpcause := 0x0A, dpreason := BitVec.ofNat 8 r, dpword := BitVec.ofNat 16 w })

end Sys2Proof.Machine
end

