-- ==== Sys2Proof/Machine/Windows.lean ====
section
/-! DEFINITION. Scratch windows (spec/08 R237 to R241, spec/09 R272, R273), claims of homes (R274) and the
submission of collectives (R275). -/

namespace Sys2Proof.Machine

open Sys2Proof

/-! ### Windows -/

/-- Two ranges share a byte. -/
def rangesMeet (a n b m : Nat) : Bool := a < b + m && b < a + n

/-- R237: a descriptor breaks no rule of its block: its scratch range lies in the area after the header, and
it overlaps no other window in scratch or in global range. -/
def windowOk (b : Block) (g sc n : Nat) : Bool :=
  g % 128 == 0 && sc % 128 == 0 && 128 ≤ sc && 1 ≤ n && n ≤ 8191 && sc + 128 * n ≤ b.area
    && b.wins.all fun e => !e.2.valid ||
      (!rangesMeet sc (128 * n) (128 * e.2.schunk.toNat) (128 * e.2.nchunk.toNat)
        && !rangesMeet (g % 2 ^ 57) (128 * n) (128 * e.2.gbase.toNat) (128 * e.2.nchunk.toNat))

/-- An empty window descriptor. -/
def WinDesc.reset : WinDesc := { gbase := 0, mode := 0, valid := false, schunk := 0, nchunk := 0 }

/-- The lowest window number that is granted and not mapped. -/
def freeWindow (b : Block) : Option Nat :=
  (List.range b.windows).find? fun n => !(mgetD b.wins n WinDesc.reset).valid

/-- R237, R238: replaces a descriptor; a squash of the open region restores the old one, and the flags of the given chunks. -/
def putWindow (s : State) (c : Nat) (t : Strand) (n : Nat) (w : WinDesc) (chunks : FMap Chunk) : State :=
  match blockAt s t.block with
  | none => s
  | some b =>
    let what := UndoWhat.desc t.block n (mgetD b.wins n WinDesc.reset) (chunks.map fun e => (e.1, e.2.wvalid, e.2.wdirty))
    let u : Undo := { owner := openId t, what := what }
    modBlock (modCore s c fun k => { k with undo := u :: k.undo }) t.block fun b => { b with wins := mset b.wins n w }

/-- R238: the chunks of a window that hold any state. -/
def chunksOf (b : Block) (first n : Nat) : FMap Chunk := b.chunks.filter fun e => first ≤ e.1 && e.1 < first + n

/-- R272: the state of every chunk of a window is zeroed. -/
def clearChunks (b : Block) (first n : Nat) : Block :=
  { b with chunks := b.chunks.filter fun e => e.1 < first || first + n ≤ e.1 }

/-- R272. -/
def execWmap (d a b : BitVec 7) (m : BitVec 2) (s : State) : Out :=
  if m == 3 || !groupOk b 2 then scalarReserved s
  else scalarRun s [a.toNat, b.toNat, b.toNat + 1] d.toNat fun s c l t =>
    let g := sget t.sc a.toNat
    let sc := (sget t.sc b.toNat).toNat
    let n := (sget t.sc (b.toNat + 1)).toNat
    match blockAt s t.block with
    | none => s
    | some x =>
      match freeWindow x with
      | none => scalarTrap s c l cWindow 0
      | some k =>
        if !canonical g || !windowOk x g.toNat sc n then scalarTrap s c l cWindow 0
        else if undoFree (coreOf s c) < 1 then scalarWait s c l (.resource 2)
        else
          let w : WinDesc := { gbase := BitVec.ofNat 50 (g.toNat / 128), mode := m, valid := true,
                               schunk := BitVec.ofNat 13 (sc / 128), nchunk := BitVec.ofNat 14 n }
          let s := modBlock (putWindow s c t k w (chunksOf x (sc / 128) n)) t.block fun b => clearChunks b (sc / 128) n
          finish s c l d.toNat (nextPc (sput t.sc d.toNat (BitVec.ofNat 64 k)))

/-- R273: the window that s[a] names, with its number. -/
def namedWindow (s : State) (t : Strand) (a : BitVec 7) : Option (Nat × WinDesc) :=
  let n := (sget t.sc a.toNat).toNat
  match blockAt s t.block with
  | none => none
  | some b => if n < 8 && (mgetD b.wins n WinDesc.reset).valid then some (n, mgetD b.wins n WinDesc.reset) else none

/-- R273: what the three window instructions share: the named window, or the window fault. -/
def windowRun (a : BitVec 7) (s : State) (k : State → Nat → Nat → Strand → Nat → WinDesc → State) : Out :=
  scalarRun s [a.toNat] 0 fun s c l t =>
    match namedWindow s t a with
    | none => scalarTrap s c l cWindow 0
    | some (n, w) => k s c l t n w

/-- R235, R240, R273: writes a window back, or takes the fault of the write-back; then `k`. -/
def flushWindow (s : State) (c l : Nat) (t : Strand) (n : Nat) (k : State → State) : State :=
  if acquirePending t then scalarWait s c l .pending else
  match writeBackFault s c t (some n) with
  | some (e, a) => scalarFault s c l e a
  | none => if writeBackShort s c t (some n) || undoFree (coreOf s c) < 1 then scalarWait s c l (.resource 2)
    else k (writeBack s c l t (openId t) (some n))

/-- The strand retires an instruction that only advances. -/
def retire (s : State) (c l : Nat) : State :=
  match strandAt s c l with
  | some t => finish s c l 0 (nextPc t.sc)
  | none => s

/-- R273. -/
def execWflush (a : BitVec 7) (s : State) : Out :=
  windowRun a s fun s c l t n _ => flushWindow s c l t n fun s => retire s c l

/-- R273: the scratch words keep their contents and become plain scratchpad. -/
def execWunmap (a : BitVec 7) (s : State) : Out :=
  windowRun a s fun s c l t n w => flushWindow s c l t n fun s => retire (putWindow s c t n { w with valid := false } []) c l

/-- R273: WVALID := WDIRTY and LEASE_END := 0 in every chunk; a squash restores WVALID. -/
def execWinval (a : BitVec 7) (s : State) : Out :=
  windowRun a s fun s c l t _ w =>
    match blockAt s t.block with
    | none => s
    | some b =>
      let mine := chunksOf b w.schunk.toNat w.nchunk.toNat
      let us : List Undo := mine.map fun e => { owner := openId t, what := .valid t.block e.1 e.2.wvalid }
      if undoFree (coreOf s c) < us.length then scalarWait s c l (.resource 2)
      else
        let s := modCore s c fun k => { k with undo := us ++ k.undo }
        let s := modBlock s t.block fun b =>
          { b with chunks := msets b.chunks (mine.map fun e => (e.1, { e.2 with wvalid := e.2.wdirty, lease := 0 })) }
        retire s c l

/-! ### Claims (R274) -/

/-- R429: the near isle adjacent to a hearth. -/
def adjIsle (hearth : Nat) : Nat := hearth / 16

/-- R274: the partition owns the slice of an isle that would be the home of a frame (DESIGN CHOICE, log 17). -/
def ownsSlice (x : Partition) (isle frame : Nat) : Bool :=
  let sl := bits (recNat x.record) (192 + 8 * isle + 7) (192 + 8 * isle)
  sl == 0xFF || sl.testBit (Config.frameSlice frame % 8)

/-- R274: the new home of a frame: the adjacent isle's slice, or the nearest that the partition owns
(DESIGN CHOICE, log 24). -/
def claimHome (x : Partition) (hearth frame : Nat) : Option Nat :=
  if ownsSlice x (adjIsle hearth) frame then some (adjIsle hearth)
  else ((List.range 12).filter fun i => ownsSlice x i frame).foldl (fun m i => match m with
    | none => some i
    | some j => if Config.sliceDistance hearth i < Config.sliceDistance hearth j then some i else m) none

/-- R274: the frame of a page of the range, or its fault. -/
def claimPage (s : State) (c p : Nat) (v : Word) : Except Nat Nat :=
  if !canonical v || inAperture v then .error cTranslation
  else match physical s c p (v.toNat % 2 ^ 57) .read with
    | .error k => .error k
    | .ok pa => if 14 ≤ isleOf pa then .error cAccess else .ok (pa / 65536)

/-- The first of n pages from an address that has a fault of a kind, with its address. -/
def firstFault (page : Word → Except Nat Nat) (kind : Nat → Bool) : Nat → Word → Option (Nat × Word)
  | 0, _ => none
  | n + 1, v => match page v with
    | .error k => if kind k then some (k, v) else firstFault page kind n (v + 65536)
    | .ok _ => firstFault page kind n (v + 65536)

/-- R250, R274: the frames of n pages, or the fault with its address: a translation fault of any page comes before an access
fault, of the range's length or of a page. -/
def claimFrames (s : State) (c p : Nat) (a : Word) (n : Nat) : Except (Nat × Word) (List Nat) :=
  match firstFault (claimPage s c p) (fun k => k != cAccess) n a with
  | some e => .error e
  | none =>
    if 2 ^ 14 < n then .error (cAccess, a)
    else match firstFault (claimPage s c p) (fun _ => true) n a with
      | some e => .error e
      | none => .ok ((List.range n).filterMap fun i => (claimPage s c p (a + BitVec.ofNat 64 (65536 * i))).toOption)

/-- Locations that a held effect touches. -/
def effectLines (e : Effect) : List Nat :=
  match e.kind with
  | .write b => linesOf (b.map fun p => p.1)
  | .add a _ => [a / 128]
  | .reduce _ _ a _ => [a / 128]

/-- R274 step 2: the home of a frame holds a pending effect of it. -/
def frameBusy (s : State) (frames : List Nat) : Bool :=
  s.effects.any fun e => e.stage == .pending && (effectLines e).any fun n => frames.contains (n / 512)

/-- The home that keeps the record of an effect's tag. -/
def recordHome (e : Effect) : Nat := e.via.getD e.home

/-- R274 step 4, R401 step 4: an effect that waits at its home's ingress, or is on its way there, goes on to the home that its
line has now. -/
def sendOn (s : State) (e : Effect) : Effect :=
  match effectLines e with
  | [] => e
  | n :: _ =>
    if (e.stage == .flight || e.stage == .ingress) && homeOf s (128 * n) != e.home then { e with home := homeOf s (128 * n), via := some (recordHome e) }
    else e

/-- R274: a claim whose wait may have ended tries again. -/
def wakeClaims (s : State) : State := s.claims.foldl (fun s e => wakeCore s (e.1 / 64) 0x10) s

/-- R274 step 4: the map switches, and what waits for the frames goes on. -/
def rehome (s : State) (onto : FMap Nat) : State :=
  let t : State := { s with homeMap := msets s.homeMap onto }
  { t with effects := t.effects.map fun e => if (effectLines e).any fun n => (mget onto (n / 512)).isSome then sendOn t e else e }

/-- R274 steps 1 to 4, R417: a claim whose frames have reached their homes waits for the earlier moves and claims of them, and for
the effects that are pending there, holding every later request; then the map switches. -/
def claimStep (s : State) (c l : Nat) (t : Strand) (m : Claim) : State :=
  if movedBefore s m.order m.frames || claimedBefore s m.order m.frames || frameBusy s m.frames then
    scalarWait { s with claims := mset s.claims (skey c l) m } c l .clearing
  else
    let onto := m.frames.filterMap fun f => (claimHome (partAt s t.part) (hearthOf c) f).map fun h => (f, h)
    finishAtomic (rehome (dropClaim s c l) onto) c l {} (nextPc t.sc)

/-- R274 (DEDUCED, log 134: the frames are those that the range had when the claim reached the home map). -/
def execClaim (a b : BitVec 7) (s : State) : Out :=
  memRun s [a.toNat, b.toNat] 0 fun s c l t =>
    let base := sget t.sc a.toNat
    let len := (sget t.sc b.toNat).toNat
    match mget s.claims (skey c l) with
    | some m => claimStep s c l t m
    | none =>
      if base.toNat % 65536 ≠ 0 || len % 65536 ≠ 0 then scalarFault s c l cAlign base
      else match claimFrames s c t.part base (len / 65536) with
        | .error (k, v) => scalarFault s c l k v
        | .ok frames => atomicThen s c l t false fun s t =>
          claimStep { s with nextId := s.nextId + 1 } c l t { order := s.nextId, frames := frames }

/-! ### Collectives (R275) -/

/-- R275: a descriptor of 64 bytes, read as one number. -/
def descOf (n part grid acct : Nat) : CollDesc :=
  { part := part, grid := grid, acct := acct, op := BitVec.ofNat 8 (bits n 7 0), dtype := BitVec.ofNat 4 (bits n 11 8),
    group := bits n 31 16, attempt := BitVec.ofNat 32 (bits n 63 32), src := BitVec.ofNat 64 (bits n 127 64),
    dst := BitVec.ofNat 64 (bits n 191 128), count := bits n 255 192, ctr := BitVec.ofNat 64 (bits n 319 256),
    amt := BitVec.ofNat 64 (bits n 383 320), root := bits n 399 384, doneN := 0, gwct := 0, aborted := false, raised := [] }

/-- R275: a descriptor that names an operation, a type and a count, with no reserved bit and a counter that
is one (R265). -/
def descWellFormed (n : Nat) (d : CollDesc) (ranks : Nat) : Bool :=
  d.op.toNat ≤ 6 && d.dtype.toNat ≤ 4 && bits n 15 12 == 0 && bits n 511 400 == 0 && 1 ≤ d.count && d.count ≤ 2 ^ 32
    && d.ctr.toNat % 8 == 0 && (d.op != 5 || d.root < ranks)

/-- R358, R365: the owned channel with the fewest descriptors waiting behind the one that runs, the lowest among equals. -/
def channelFor (s : State) (x : Partition) : Option Nat :=
  let len (k : Nat) : Nat := (mgetD s.channels k Channel.reset).descs.length - 1
  ((List.range 16).filter fun k => ownsChannel x k && !x.awaiting.contains (2, k)).foldl (fun m k => match m with
    | none => some k
    | some j => if len k < len j then some k else m) none

/-- R275: the status of a submission, in the order of its list (DEDUCED, log 25), with the channel that takes it. -/
def collStatus (s : State) (p n : Nat) (d : CollDesc) : Nat × Option Nat :=
  let g := mgetD s.groups d.group Group.reset
  match channelFor s (partAt s p) with
  | none => (4, none)
  | some k =>
    if Config.channelRoom < (mgetD s.channels k Channel.reset).descs.length then (1, none)
    else if !descWellFormed n d g.ranks then (2, none)
    else if d.attempt.toNat < g.attempt.toNat then (3, none)
    else if g.owner ≠ p then (4, none)
    else (0, some k)

/-- R275, R358: a descriptor joins its channel's queue. -/
def queueDesc (s : State) (k : Nat) (d : CollDesc) : State :=
  let ch := mgetD s.channels k Channel.reset
  let ch := { ch with descs := ch.descs ++ [{ d with id := s.nextId }], moved := if ch.descs.isEmpty then s.now else ch.moved,
                      stalled := if ch.descs.isEmpty then false else ch.stalled }
  channelEvents { s with channels := mset s.channels k ch, nextId := s.nextId + 1 } k

/-- R275. -/
def execXcoll (d a : BitVec 7) (s : State) : Out :=
  memRun s [a.toNat] d.toNat fun s c l t =>
    let addr := sget t.sc a.toNat
    if addr.toNat % 64 ≠ 0 then scalarFault s c l cAlign addr
    else match readFault s c t addr 64 false with
      | .error k => scalarFault s c l k addr
      | .ok _ => atomicThen s c l t true fun s t =>
        match readFault s c t addr 64 false with
        | .error k => scalarFault s c l k addr
        | .ok locs => match copyWait s t locs with
        | some w => scalarWait (startTouches s locs) c l w
        | none =>
          if homePoisoned s locs then scalarFault s c l cPoison addr else
          let s := noteReads s t.part locs
          let n := leNat (locs.map fun x => if isScratch x then seenByte s c t x else homeByte s x)
          let desc := descOf n t.part t.grid (acctOf s t.part t.grid)
          let r := collStatus s t.part n desc
          let s := match r.2 with | some k => queueDesc s k desc | none => s
          finishAtomic { s with fresh := s.fresh + 1 } c l { scalars := [d.toNat] } (nextPc (sput t.sc d.toNat (BitVec.ofNat 64 r.1)))

end Sys2Proof.Machine
end

