-- ==== Sys2Proof/Machine/FarMemory.lean ====
section
/-! DEFINITION. Translation leases and unmaps (spec/19 R397 to R399), frame migration (R400, R401), frame retirement
(spec/21 R415 to R417), and the halves of far lines that a CXL host owns (R246, R395). -/

namespace Sys2Proof.Machine

open Sys2Proof

/-! ### Translations -/

/-- R397, R398: a walk of a partition that works on a core completes; where it fails, the access that needs it
faults. -/
def execEvTranslationWalk (p c : Nat) (addr : Word) (s : State) : Out :=
  if !(s.blocks.any fun e => e.2.core == c && e.2.part == p) || !canonical addr || inAperture addr then .next s
  else .next (keepTrans s c p (addr.toNat % 2 ^ 57))

/-- R398: translations whose lease has ended are dropped. -/
def execEvTranslationLeaseExpires (c : Nat) (s : State) : Out :=
  .next (modCore s c fun k => { k with tlb := k.tlb.filter fun t => s.now < t.lease })

/-- R399: an unmap wait that takes effect at this tick. -/
def unmapWait (s : State) (p : Nat) : State :=
  modPart s p fun x => { x with tdone := max x.tdone (max s.now x.horizon + 2) }

def execEvTunmap (p : Nat) (h : HostAccess) (s : State) : Out := .next (if vfMay s h p then unmapWait s p else s)

/-! ### The pages of a partition -/

/-- R397: the leaves below a table: page base and size. -/
def leavesFrom (m : Memory) : Nat → List (Nat × Nat × Nat) → List (Nat × Nat)
  | _, [] => []
  | table, (level, lo, n) :: rest =>
    if 14 ≤ isleOf table then []
    else (List.range (2 ^ n)).flatMap fun i =>
      let e := memNat m (table + 8 * i) 8
      let addr := bits e 51 8 * 256
      if !entryOk level e then []
      else if e.testBit 1 then (if addr % 2 ^ lo = 0 then [(addr, 2 ^ lo)] else [])
      else leavesFrom m addr rest

/-- The pages that a partition maps. -/
def pagesOf (s : State) (p : Nat) : List (Nat × Nat) :=
  let root := (partAt s p).ptroot.toNat
  if root.testBit 0 then leavesFrom s.mem (bits root 51 8 * 256) walkLevels else []

/-- Some page of a partition maps a frame that satisfies a condition. -/
def mapsFrame (s : State) (p : Nat) (f : Nat → Bool) : Bool :=
  (pagesOf s p).any fun e => (List.range (e.2 / 65536)).any fun k => f (e.1 / 65536 + k)

/-! ### Moving a frame (R400, R401) -/

/-- R400: REASON 1 to 3 of a move, the lowest that applies; 0 for none. -/
def moveReason (s : State) (p : Nat) (entry dst : Nat) : Nat :=
  let e := memNat s.mem entry 8
  let src := bits e 51 16 * 65536
  if entry % 8 ≠ 0 || 14 ≤ isleOf entry || !ownsPage s p entry || !entryOk 0 e || bits e 15 8 ≠ 0 || 14 ≤ isleOf src || !ownsPage s p src then 1
  else if dst % 65536 ≠ 0 || 2 ^ 52 ≤ dst || 14 ≤ isleOf dst || !ownsPage s p dst || dst == src || mapsFrame s p (fun f => f == dst / 65536)
    || movedBefore s s.nextId [dst / 65536] then 2
  else if isleOf src < 12 && isleOf dst < 12 then 3
  else 0

/-- R246, R274, R395: the migration engine's access to the entry waits for the recall of its half, or for a claim. -/
def entryWaits (s : State) (entry : Nat) : Bool := s.owned.contains (entry / 64) || claimHeld s [entry]

/-- R401 step 1: the engine reads the entry, and the move goes on or fails. -/
def checkMove (s : State) (p : Nat) : State :=
  let x := partAt s p
  let entry := x.msrc.toNat
  match moveReason s p entry x.mdst.toNat with
  | 0 =>
    let old := nat64 (memNat s.mem entry 8)
    let m : Move := { src := bits old.toNat 51 16 * 65536, dst := x.mdst.toNat, entry := entry, old := old, order := s.nextId,
                      switch := none, drain := 0 }
    modPart { s with nextId := s.nextId + 1 } p fun y => { y with mstate := 1, mreason := 0, mcheck := false, move := some m }
  | r => modPart s p fun y => { y with mstate := 3, mreason := BitVec.ofNat 8 r, mcheck := false }

/-- R400, R401: a move starts; while one is under way the write is ignored (DEDUCED, log 50). Where the entry cannot be read at once
the engine reads it later. -/
def startMove (s : State) (p : Nat) : State :=
  if (partAt s p).mstate = 1 then s
  else if entryWaits s (partAt s p).msrc.toNat then modPart s p fun y => { y with mstate := 1, mreason := 0, mcheck := true }
  else checkMove s p

def execEvMgo (p : Nat) (h : HostAccess) (s : State) : Out := .next (if vfMay s h p then startMove s p else s)

/-- R395, R401 step 2, R417: nothing of the frame is pending at its home, no host owns a half of it, of its destination or of the entry,
and no earlier claim or move names one of the frames. -/
def moveReady (s : State) (m : Move) : Bool :=
  let f := m.src / 65536
  !(s.effects.any fun e => e.stage == .pending && (effectLines e).any fun n => n / 512 == f)
    && !(s.owned.any fun h => h / 1024 == f || h / 1024 == m.dst / 65536) && !entryWaits s m.entry
    && !claimedBefore s m.order [f, m.dst / 65536] && !movedBefore s m.order [f, m.dst / 65536]

/-- Where a location lies after a frame has moved. -/
def movedLoc (m : Move) (a : Nat) : Nat := if a / 65536 == m.src / 65536 then m.dst / 65536 * 65536 + a % 65536 else a
def movedLine (m : Move) (n : Nat) : Nat := movedLoc m (128 * n) / 128
def movedKeys {α : Type} (m : Move) (l : FMap α) : FMap α := msets [] (l.map fun e => (movedLoc m e.1, e.2))

/-- R401: an effect under way goes to the frame's new place. -/
def movedEffect (m : Move) (e : Effect) : Effect :=
  match e.kind with
  | .write b => { e with kind := .write (movedKeys m b) }
  | .add a v => { e with kind := .add (movedLoc m a) v }
  | .reduce o t a v => { e with kind := .reduce o t (movedLoc m a) v }

/-- R401: a strand's requests under way. -/
def movedOps (m : Move) (t : Strand) : Strand :=
  { t with ops := t.ops.map fun o => { o with dests := o.dests.map (fun d => { d with locs := d.locs.map (movedLoc m) }),
                                              lines := o.lines.map (movedLine m), got := movedKeys m o.got } }

/-- R401: a core's copies and requests of the frame. -/
def movedCore (m : Move) (k : Core) : Core :=
  { k with l1 := k.l1.map (fun x => { x with line := movedLine m x.line, data := movedKeys m x.data }),
           fills := k.fills.map (fun f => { f with line := movedLine m f.line, answer := f.answer.map fun a => (movedKeys m a.1, a.2) }),
           adds := k.adds.map (fun a => { a with addr := movedLoc m a.addr }),
           watches := k.watches.map fun w => { w with addr := movedLoc m w.addr } }

/-- R401 steps 3 and 4: the frame's released values, marks and horizons stand at the destination, and everything on its
way to the source goes there (DEDUCED, log 52). -/
def switchFrame (s : State) (m : Move) : State :=
  let f := m.src / 65536
  let bytes := (s.mem.filter fun e => e.1 / 65536 == f).map fun e => (movedLoc m e.1, e.2)
  let cleared := s.mem.filter fun e => e.1 / 65536 != m.dst / 65536
  let hs := (s.horizon.filter fun e => e.1 / 512 == f).map fun e => (movedLine m e.1, e.2)
  let sent (e : Effect) : Effect := if (effectLines e).any fun n => n / 512 == f then sendOn s (movedEffect m e) else e
  { s with mem := memPuts cleared bytes,
           poison := (s.poison.filter (fun n => n / 512 != m.dst / 65536)) ++ (s.poison.filter (fun n => n / 512 == f)).map (movedLine m),
           horizon := msets s.horizon hs, effects := s.effects.map sent,
           strands := s.strands.map (fun e => (e.1, movedOps m e.2)), cores := s.cores.map (fun e => (e.1, movedCore m e.2)),
           watches := s.watches.map (fun w => { w with addr := movedLoc m w.addr }),
           ports := s.ports.map fun e => (e.1, { e.2 with pieces := e.2.pieces.map fun x => { x with bytes := movedKeys m x.bytes } }) }

/-- R401 step 5: what the drain waits out: the switch tick and H_T at it, and the horizons of the frame's lines. -/
def drainOf (s : State) (m : Move) (ht : Nat) : Nat :=
  (s.horizon.filter fun e => e.1 / 512 == m.src / 65536).foldl (fun d e => max d e.2) (max s.now ht + 2)

/-- R401 step 4: a migration compares the entry with what the engine read and switches, or fails. -/
def switchMove (s : State) (p : Nat) (m : Move) : State :=
  if nat64 (memNat s.mem m.entry 8) != m.old then wakeClearing (modPart s p fun x => { x with move := none, mstate := 3, mreason := 4 })
  else
    let s1 := switchFrame s m
    let new := bits m.old.toNat 15 0 + m.dst / 65536 * 65536 + bits m.old.toNat 63 52 * 2 ^ 52
    let s2 : State := { s1 with mem := memWrite s1.mem (movedLoc m m.entry) 8 new }
    modPart s2 p fun x => { x with move := some { m with switch := some s.now, drain := drainOf s m x.horizon } }

/-- R401 steps 1, 3 and 4; partition number 16 names the retirement of R416, which remaps the media and checks no entry. -/
def execEvMigrationSwitch (p : Nat) (s : State) : Out :=
  if p = 16 then
    match s.retire.move.filter fun m => m.switch.isNone && moveReady s m with
    | none => .next s
    | some m =>
      let d := drainOf s m ((s.parts.map fun e => e.2.horizon).foldl max 0)
      .next { s with retire := { s.retire with move := some { m with switch := some s.now, drain := d } } }
  else if (partAt s p).mcheck then .next (if entryWaits s (partAt s p).msrc.toNat then s else checkMove s p)
  else
    match (partAt s p).move.filter fun m => m.switch.isNone && moveReady s m with
    | none => .next s
    | some m => .next (switchMove s p m)

/-- R401 steps 5 and 6: the horizons have passed, no host owns a half that it reached through the redirect, which ends, and the
source frame is free (DEDUCED, log 52). -/
def execEvMigrationDrainEnds (p : Nat) (s : State) : Out :=
  let past (m : Move) : Bool := m.switch.isSome && m.drain < s.now && !(s.owned.any fun h => h / 1024 == m.dst / 65536)
  if (partAt s p).move.any past then .next (wakeClearing (modPart s p fun x => { x with move := none, mstate := 2 })) else .next s

/-! ### Retiring a frame (R415 to R417) -/

/-- The bad frames of an isle (DESIGN CHOICE, log 32). -/
def badOf (s : State) (isle : Nat) : List BadFrame := s.flash.bad.filter fun b => b.isle == isle

/-- R415: the frame index of an address within its isle. -/
def frameIndex (pa : Nat) : BitVec 23 := BitVec.ofNat 23 (pa / 65536)

/-- R416: REASON 1 to 3, the lowest that applies; 0 for none. An address past its isle's size is refused with REASON 2 (DESIGN CHOICE,
log 113). -/
def retireReason (s : State) (pa : Nat) : Nat :=
  let i := isleOf pa
  if i < 14 && 4096 ≤ (badOf s i).length then 1
  else if 14 ≤ i || !inIsle pa then 2
  else if (badOf s i).any fun b => b.frame == frameIndex pa then 3 else 0

/-- R415: the KIND that led to a frame's retirement: that of the latest error record of the frame; where Zhevwell's log has none, which
the spec leaves open, a free value (DEDUCED, log 142). -/
def retireWhy (s : State) (pa : Nat) : Byte :=
  match (s.errLog.filter fun r => r.kind != 0x0D && r.addr != 0 && r.addr.toNat / 65536 == pa / 65536).getLast? with
  | some r => r.kind
  | none => Config.retireWhy s.fresh

/-- R412, R416: a KIND 0x0D record: STATE and REASON of RSTAT. -/
def retireRecord (s : State) (pa : Nat) : State :=
  raiseErrorAt s 0x0D 4 (if isleOf pa < 12 then errSource 3 (isleOf pa) else if isleOf pa < 14 then errSource 4 (isleOf pa - 12) else errSource 5 0)
    s.now (nat64 pa) none 1 (s.retire.state.toNat + 256 * s.retire.reason.toNat)

/-- R416: a retirement starts, or is refused (DEDUCED, log 51). -/
def startRetire (s : State) : State :=
  if s.retire.state = 1 then s
  else
    let pa := s.retire.frame.toNat
    match retireReason s pa with
    | 0 =>
      let m : Move := { src := pa, dst := pa, entry := 0, old := 0, order := s.nextId, switch := none, drain := 0 }
      { s with nextId := s.nextId + 1, retire := { s.retire with state := 1, reason := 0, move := some m } }
    | r => retireRecord { s with retire := { s.retire with state := 3, reason := BitVec.ofNat 8 r } } pa

def execEvRgo (h : HostAccess) (s : State) : Out := .next (ownerOrZhevwell s h startRetire)

/-- R416: the lowest spare that an isle has not used. -/
def freeSpare (s : State) (isle : Nat) : Nat := ((List.range 4096).find? fun k => !((badOf s isle).any fun b => b.spare == BitVec.ofNat 12 k)).getD 0

/-- R416: Zhevwell confirms the list entry, the media having been switched and the horizons passed, and the retirement
is done. -/
def execEvRetirementConfirmed (s : State) : Out :=
  match s.retire.move.filter fun m => m.switch.isSome && m.drain < s.now with
  | none => .next s
  | some m =>
    let pa := m.src
    let b : BadFrame := { isle := isleOf pa, frame := frameIndex pa, spare := BitVec.ofNat 12 (freeSpare s (isleOf pa)), why := retireWhy s pa }
    let s : State := { s with fresh := s.fresh + 1, flash := { s.flash with bad := s.flash.bad ++ [b] },
                              retire := { s.retire with state := 2, move := none } }
    .next (retireRecord (wakeClearing s) pa)

/-! ### CXL hosts (R395). Ports 2 to 5 of the state are the CXL ports -/

/-- R393: a CXL port (0, 1 of F0; 2, 3 of F1) that stands in the upstream role exposes a half of its far isle. -/
def exposes (s : State) (port half : Nat) : Bool :=
  port < 4 && isleOf (64 * half) == 12 + port / 2 && 64 * half < 2 ^ 52 && inIsle (64 * half) && mgetD s.flash.roles port 0 == 0

/-- R395: the partition whose bank keeps a half: the owner of the frame's memory channel (DESIGN CHOICE, log 31). -/
def bankOf (s : State) (half : Nat) : Option Nat :=
  (List.range 16).find? fun p => recValid (partAt s p) && ownsFrame s (partAt s p) (64 * half)

/-- The 64 bytes of a half as released. -/
def halfBytes (s : State) (half : Nat) : List Byte := (List.range 64).map fun i => memByte s.mem (64 * half + i)

/-- A pending device effect touches a half. -/
def halfPending (s : State) (half : Nat) : Bool :=
  s.effects.any fun e => e.stage == .pending && match e.kind with
    | .write b => b.any fun x => x.1 / 64 == half
    | .add a _ => a / 64 == half
    | .reduce _ _ a _ => a / 64 == half

/-- R401: where a half that a host names stands now. -/
def movedHalf (s : State) (half : Nat) : Nat := redirect s (64 * half) / 64

/-- R274: the frame of a half is being claimed. -/
def halfClaimed (s : State) (half : Nat) : Bool := claimHeld s [64 * half]

/-- R395: a read without ownership is served from released values. -/
def execEvCxlRead (port half : Nat) (s : State) : Out :=
  let h := movedHalf s half
  if !exposes s port half || s.owned.contains h || halfClaimed s h then .next s
  else .next (modPort s (2 + port) fun q => { q with reply := some (halfBytes s h) })

/-- R395: a read for ownership waits for pending effects of the half and for room in the partition's banks: full ones recall
their least recently granted half. -/
def execEvCxlReadForOwnership (port half : Nat) (s : State) : Out :=
  let h := movedHalf s half
  let bank := bankOf s half
  let held := s.owned.filter fun x => bankOf s x == bank
  if !exposes s port half || bank.isNone || s.owned.contains h || halfPending s h || halfClaimed s h then .next s
  else if bank.any fun p => Config.snoopRoom p < held.length then
    .next (match held with
      | x :: _ => if s.recalled.contains x then s else { s with recalled := s.recalled ++ [x] }
      | [] => s)
  else .next (modPort { s with owned := s.owned ++ [h], ownedBy := mset s.ownedBy h port } (2 + port) fun q =>
    { q with reply := some (halfBytes s h) })

/-- R185, R246: what may wait for a recall: a side that waits, a fetch, or the matrix stream of a core. -/
def mayAwaitHalf (s : State) (e : Nat × Strand) : Bool :=
  e.2.swait == .pending || e.2.lwait == .pending || codeOwned s (e.1 / 64) e.2.part e.2.sc.spc 4
    || (e.2.st.current.any fun r => laneOwned s (e.1 / 64) e.2 (r.entry.clause.toNat + r.index)) || (coreOf s (e.1 / 64)).griddle.run

/-- R246, R395: the bytes that a host gives back are merged as a performed write, the half returns to the device, and what waited
for it goes on. -/
def returnHalf (s : State) (half : Nat) (dirty : List (Nat × Byte)) : State :=
  let cores := ((s.strands.filter (mayAwaitHalf s)).map fun e => e.1 / 64).eraseDups
  let t : State := { s with owned := s.owned.erase half, ownedBy := mdel s.ownedBy half, recalled := s.recalled.erase half,
                            mem := memPuts s.mem ((dirty.filter fun e => e.1 < 64).map fun e => (64 * half + e.1, e.2)) }
  cores.foldl (fun s c => wakeCore s c 0) (noteWatches t)

/-- R395: a write-back or a clean eviction of a half that the port's host owns (DEDUCED, log 53). -/
def execEvCxlWriteBack (port half : Nat) (dirty : List (Nat × Byte)) (s : State) : Out :=
  let h := movedHalf s half
  if !exposes s port half || !s.owned.contains h || mget s.ownedBy h != some port then .next s else .next (returnHalf s h dirty)

/-- R246, R395: the host answers a back-invalidation snoop with its data, or clean: of the half that full banks recall, or of one
that an access waits for (DEDUCED, log 53). -/
def execEvBackInvalidationResponse (half : Nat) (dirty : List (Nat × Byte)) (s : State) : Out :=
  if !s.owned.contains half then .next s else .next (returnHalf s half dirty)

end Sys2Proof.Machine
end

