-- ==== Sys2Proof/Machine/Registers.lean ====
section
/-! DEFINITION. The registers of a partition's function BAR0 (spec/19 R385) and of PF0 BAR0: reads, writes, and the
events that a write is: queues (spec/16 R328, R329), accounts (spec/18 R366), debugging (R381 to R383), resumption (R379),
partition records (R363, R364, R438), windows (spec/07 R197), error ring and attempts (spec/21), clocks, power, telemetry
and firmware (spec/22). -/

namespace Sys2Proof.Machine

open Sys2Proof

/-! ### Debugging (R381 to R383) -/

/-- R381: the debug target's strands are halted, or every halt of the grid ends. -/
def haltGrid (s : State) (p grid : Nat) (on : Bool) : State :=
  let set (t : Strand) : Strand :=
    if t.part == p && t.grid == grid then { t with halted := on, stepping := if on then t.stepping else 0 } else t
  let cores := ((s.strands.filter fun e => e.2.part == p && e.2.grid == grid).map fun e => e.1 / 64).eraseDups
  let s : State := { s with strands := s.strands.map fun e => (e.1, set e.2) }
  let s := modGrid s p grid fun g => { g with gangs := g.gangs.map fun x => { x with strands := x.strands.map set } }
  cores.foldl (fun s c => wakeCore s c 0x80) s

/-- R381: a write of HALT. -/
def writeHalt (s : State) (p : Nat) (on : Bool) : State :=
  haltGrid (modPart s p fun x => { x with halt := on }) p (partAt s p).dgrid.toNat on

/-- R381: the target changes: a halt passes from the old one to the new one. -/
def writeTarget (s : State) (p : Nat) (v : Word) : State :=
  let x := partAt s p
  let s := modPart s p fun y => { y with dgrid := v }
  if x.halt then haltGrid (haltGrid s p x.dgrid.toNat false) p v.toNat true else s

/-- R381, R383: the strand that DSTRAND names takes a step; a lane step with no clause started does nothing. -/
def writeStep (s : State) (p : Nat) : State :=
  let x := partAt s p
  let block := x.dstrand.toNat % 2 ^ 32
  let named (t : Strand) : Bool := t.part == p && t.grid == x.dgrid.toNat && t.halted && t.number == x.dstrand.toNat / 2 ^ 32
    && ((blockAt s t.block).any fun b => b.number == block) && (!x.lstep || t.st.current.isSome)
  match s.strands.find? fun e => named e.2 with
  | none => s
  | some (k, _) => wakeCore (modStrand s (k / 64) (k % 64) fun t => { t with stepping := if x.lstep then 2 else 1 }) (k / 64) 0x80

def execEvHalt (p : Nat) (h : HostAccess) (s : State) : Out := .next (if vfMay s h p then writeHalt s p true else s)
def execEvDebugResume (p : Nat) (h : HostAccess) (s : State) : Out := .next (if vfMay s h p then writeHalt s p false else s)
def execEvStep (p : Nat) (h : HostAccess) (s : State) : Out := .next (if vfMay s h p then writeStep s p else s)

/-! ### Queues, triggers, resumption -/

/-- A line that the hub reads for a partition is poisoned. -/
def hubPoison (s : State) (p : Nat) (a : Word) (n : Nat) : Bool :=
  (List.range n).any fun i => (hostByteAddr s p ((a.toNat + i) % 2 ^ 64) .read).any fun pa => s.poison.contains (pa / 128)

/-- R328: the status of a record named by a doorbell or a trigger, with the record. -/
def pushStatus (s : State) (p q : Nat) (a : Word) : Nat × Nat :=
  if (partAt s p).tdisp.state == .error then (2, 0)
  else if a.toNat % 256 ≠ 0 then (4, 0)
  else match hubRead s p a 256 with
    | none => (6, 0)
    | some bs => if hubPoison s p a 256 then (6, 0) else (recordStatus (partAt s p) (leNat bs) (some q), leNat bs)

/-- R320, R321, R328: the hub copies and checks a record for queue q; its status goes to LASTST. -/
def copyRecord (s : State) (p q : Nat) (a : Word) (source : Nat) : State :=
  let r := pushStatus s p q a
  let s := if (partAt s p).tdisp.state == .error || a.toNat % 256 ≠ 0 then s else noteReads s p ((hostAddrs s p a.toNat 256 .read).getD [])
  let s := modQueue { walkLease s p [a.toNat, a.toNat + 255] with fresh := s.fresh + 1 } p q fun k => { k with lastst := BitVec.ofNat 8 r.1 }
  if r.1 = 0 then enqueueRecord s p r.2 1 0 source else s

/-- R246, R327: the copy of a record waits: for the recall of a half that a CXL host owns, or for a tick at which no record from
a source that ranks behind has arrived. -/
def recordWaits (s : State) (p q : Nat) (e : Word × Nat) : Bool :=
  (partAt s p).tdisp.state != .error && e.1.toNat % 256 == 0 && (hubWaits s p e.1.toNat 256 || outranked s p q e.2)

/-- R328, R329: a doorbell or a trigger names a record for queue q, which is copied at once unless it, or one named before it,
has to wait. -/
def pushRecord (s : State) (p q : Nat) (a : Word) (source : Nat) : State :=
  if (queueOf (partAt s p) q).todo.isEmpty && !recordWaits s p q (a, source) then copyRecord s p q a source
  else modQueue s p q fun k => { k with todo := k.todo ++ [(a, source)] }

/-- R327: of the named records of a queue that wait, the first from the source that ranks first. -/
def nextTodo (k : QueueBlock) : Option (Word × Nat) :=
  k.todo.foldl (fun m e => match m with
    | none => some e
    | some b => if e.2 < b.2 then some e else m) none

/-- R327, R328: named records that have waited and are copied at this tick. -/
def duePush (s : State) : Option State :=
  (s.parts.findSome? fun e => e.2.queues.findSome? fun k => ((nextTodo k.2).filter fun x => !recordWaits s e.1 k.1 x).map fun x => (e.1, k.1, x)).map
    fun (p, q, x) => copyRecord (modQueue s p q fun k => { k with todo := k.todo.erase x }) p q x.1 x.2

/-- R328: QPUSH. -/
def execEvQpush (p : Nat) (h : HostAccess) (q : Nat) (v : Word) (s : State) : Out :=
  .next (if vfMay s h p && q < 64 then pushRecord s p q v h.port else s)

/-- R329: a completion add of the collective engine has left a counter at a value: armed triggers on it fire. -/
def fireTriggers (s : State) (p pa : Nat) (value : Word) : State :=
  let armed := ((List.range 64).map fun q => queueOf (partAt s p) q).filter fun k => k.trec != 0
  (List.range 64).foldl (fun s q =>
    let k := queueOf (partAt s p) q
    if k.trec = 0 || hubAddr s p k.tctr != some pa || value.toNat < k.ttgt.toNat then s
    else pushRecord (modQueue s p q fun k => { k with trec := 0 }) p q k.trec 2) (walkLease s p (armed.map fun k => k.tctr.toNat))

/-- R246, R329: the place of an armed trigger's counter is not known before a recall ends. -/
def triggersWait (s : State) (p : Nat) : Bool :=
  (partAt s p).queues.any fun e => e.2.trec != 0 && hubWaits s p e.2.tctr.toNat 8

/-- R379: PARKRES. -/
def execEvParkres (p : Nat) (h : HostAccess) (v : Word) (s : State) : Out :=
  .next (if vfMay s h p then unparkGrid s p v.toNat else s)

/-! ### Accounts (R366, R367) -/

/-- R366, R367: an account's words after the charges up to this tick; a balance that falls to 0 or less raises its
events, and one that rises above it lets suspended copies go on. -/
def changeAccount (s : State) (p a : Nat) (f : Account → Account) : State :=
  rejoinCopies (changeBalance (accrueAll (accrue s p a) p) p a f) p

/-- R366: a write of PERIOD. -/
def writePeriod (s : State) (p a : Nat) (v : Word) : State :=
  changeAccount s p a fun y => { y with period := v, refillAt := s.now + v.toNat }

def execEvPeriodWrite (p : Nat) (h : HostAccess) (a : Nat) (v : Word) (s : State) : Out :=
  .next (if vfOrOwner s h p && a < 4096 then writePeriod s p a v else s)

/-- R225: a write of SPSIZE within SPLIM. -/
def writeSpcfg (s : State) (p : Nat) (v : Word) : State :=
  let n := v.toNat % 32
  if n ≤ min (spLimit (partAt s p)) 16 then modPart s p fun x => { x with spsize := n } else s

def execEvSpcfgWrite (p : Nat) (h : HostAccess) (v : Word) (s : State) : Out := .next (if vfMay s h p then writeSpcfg s p v else s)

/-! ### Partition records (R363, R364, R438) -/

/-- R364: hearths, engines, slices, channels and collective channels of a record, as bits of one number. -/
def resourceBits (r : FMap Word) : Nat := recNat r % 2 ^ 720

/-- R363, R438: no reserved bit is set and every field is in range. A launch arena past its isle's size is accepted, and its bytes are memory
(DESIGN CHOICE, log 113). -/
def recordInRange (r : FMap Word) : Bool :=
  let n := recNat r
  let w (i : Nat) : Nat := (mgetD r i 0).toNat
  bits n 767 727 == 0 && bits n 724 720 ≤ 16 && w 12 % 65536 == 0 && w 13 % 65536 == 0 && w 14 % 65536 == 0 && w 15 % 65536 == 0
    && w 12 < 14 * 2 ^ 48 && w 12 + w 13 ≤ 14 * 2 ^ 48 && canonical (mgetD r 14 0)

/-- R364: a slice or a memory channel that a record gives up. -/
def slicesLost (old new : Nat) (isle j : Nat) : Bool := old.testBit (192 + 8 * isle + j) && !new.testBit (192 + 8 * isle + j)
def channelsLost (old new : Nat) (isle c : Nat) : Bool := old.testBit (288 + 16 * isle + c) && !new.testBit (288 + 16 * isle + c)

/-- R364, R438: why a commit is refused: the lowest REASON that applies; 0 for none (DEDUCED, log 47). -/
def commitReason (s : State) (p : Nat) : Nat :=
  let x := partAt s p
  let new := if (recNat x.staged).testBit 726 then resourceBits x.staged else 0
  let old := if recValid x then resourceBits x.record else 0
  let others := (List.range 16).filter fun q => q != p && recValid (partAt s q)
  if others.any fun q => (new &&& resourceBits (partAt s q).record) != 0 then 1
  else if mapsFrame s p fun f => slicesLost old new (homeOf s (65536 * f)) (Config.frameSlice f % 8) then 2
  else if mapsFrame s p fun f => channelsLost old new (isleOf (65536 * f)) (Config.frameChannel f % 16) then 3
  else if frozen s p then 4
  else if !recordInRange x.staged then 5
  else 0

/-- Kind and index of each hearth (0), engine (1) and collective channel (2) of a record. -/
def handed (n : Nat) : List (Nat × Nat) :=
  ((List.range 192).filter fun h => n.testBit h).map (fun h => (0, h))
    ++ ((List.range 192).filter fun h => n.testBit (512 + h)).map (fun h => (1, h))
    ++ ((List.range 16).filter fun k => n.testBit (704 + k)).map fun k => (2, k)

/-- R187: a partition takes the cores of a hearth: no stop has ended yet. -/
def takeHearth (s : State) (h : Nat) : State :=
  (List.range 4).foldl (fun s i => modCore s (4 * h + i) fun k => { k with wakes := 0, wakeBits := 0, wakePend := 0 }) s

/-- R438: an applied commit. What the record gives up awaits its hand-over, and so does what it gains while the old
owner's work is still there. -/
def applyCommit (s : State) (p : Nat) : State :=
  let x := partAt s p
  let new := if (recNat x.staged).testBit 726 then resourceBits x.staged else 0
  let old := if recValid x then resourceBits x.record else 0
  let lost := (handed old).filter fun r => !(handed new).contains r
  let gained := (handed new).filter fun r => (s.parts.any fun e => e.1 != p && e.2.awaiting.contains r) && !(handed old).contains r
  let formed := !recValid x && (recNat x.staged).testBit 726
  let fresh (q : QueueBlock) : QueueBlock := if formed then { q with placed := 0, lastdsp := 0 } else q
  let s := modPart s p fun x =>
    { x with record := x.staged, refused := false, reason := 0, awaiting := x.awaiting ++ lost ++ gained,
             busy := !(lost ++ gained).isEmpty, queues := x.queues.map fun e => (e.1, fresh e.2) }
  let taken := ((handed new).filter fun r => r.1 == 0 && !(handed old).contains r).map fun r => r.2
  reoffer (taken.foldl takeHearth s) p 0

/-- R364, R403, R438: COMMIT. -/
def commitRecord (s : State) (p : Nat) : State :=
  let x := partAt s p
  if x.busy then s
  else
    let s := if recNat x.staged = recNat x.record then modPart s p fun x => { x with refused := false, reason := 0 }
      else match commitReason s p with
        | 0 => applyCommit s p
        | r =>
          let s := modPart s p fun x => { x with refused := true, reason := BitVec.ofNat 8 r }
          if frozen s p then toError s p else s
    modPart s p fun x => { x with staged := x.record }

def execEvCommit (h : HostAccess) (p : Nat) (s : State) : Out :=
  .next (if p < 16 then ownerWrite s h fun s => commitRecord s p else s)

/-- R364: nothing of the old owner is left on a resource that its record gave up. Work on a copy engine or a channel
can always be stopped at a chunk boundary, unless the old owner has no other channel for its descriptors
(DEDUCED, log 48). -/
def mayHandOver (s : State) (p : Nat) (r : Nat × Nat) : Bool :=
  match r.1 with
  | 0 => !(s.blocks.any fun e => e.2.part == p && hearthOf e.2.core == r.2)
  | 1 => true
  | _ => (channelFor s (partAt s p)).isSome || !((mgetD s.channels r.2 Channel.reset).descs.any fun d => d.part == p)

/-- R364, R365: the copies of the old owner leave an engine, for its other engines or with STATUS 2. -/
def moveCopies (s : State) (p engine : Nat) : State :=
  let mine (y : Copy) : Bool := y.part == p && y.engine == engine && !y.done
  let onto (y : Copy) : Copy := match engineFor (partAt s p) y.core with
    | some e => { y with engine := e, active := false }
    | none => { y with done := true, active := false, status := 2, donek := y.chunks, staged := [] }
  let engines := (((s.copies.filter mine).map onto).map fun y => y.engine).eraseDups
  (engine :: engines).foldl engineEvents { s with copies := s.copies.map fun y => if mine y then onto y else y }

/-- R360, R364: the descriptors of the old owner leave a channel; a stall of the one that runs ends there. -/
def moveDescs (s : State) (p k : Nat) : State :=
  let ch := mgetD s.channels k Channel.reset
  let mine := ch.descs.filter fun d => d.part == p
  let ran := ch.descs.head?.any fun d => d.part == p
  let ch' := { ch with descs := ch.descs.filter fun d => d.part != p }
  let s : State := { s with channels := mset s.channels k (if ran then { ch' with stalled := false, moved := s.now } else ch') }
  let s := channelEvents (if ran && ch.stalled then stallEnds s p else s) k
  mine.foldl (fun s d => match channelFor s (partAt s p) with
    | some j => queueDesc s j d
    | none => s) s

/-- Hands one resource over. -/
def handOver (s : State) (p : Nat) (r : Nat × Nat) : State :=
  let s := if r.1 = 1 then moveCopies s p r.2 else if r.1 = 2 then moveDescs s p r.2 else takeHearth s r.2
  { s with parts := s.parts.map fun e =>
      let rest := e.2.awaiting.filter fun q => q != r
      (e.1, { e.2 with awaiting := rest, busy := e.2.busy && !rest.isEmpty }) }

/-- R364: resources that partition p's record has given up and that its work has left are handed over. -/
def execEvResourceHandover (p : Nat) (s : State) : Out :=
  let x := partAt s p
  let n := if recValid x then resourceBits x.record else 0
  let ready := x.awaiting.filter fun r => !(handed n).contains r && mayHandOver s p r
  if ready.isEmpty then .next s
  else
    let s := ready.foldl (fun s r => handOver s p r) s
    .next ((List.range 16).foldl (fun s q => if recValid (partAt s q) then reoffer s q 0 else s) s)

/-! ### Windows, clocks, power (R197, R429 to R431) -/

/-- R197: a field that only rises. -/
def raised (old new : BitVec 16) : BitVec 16 := if new.toNat < old.toNat then old else new

/-- R197: a region or segment that closed at this very tick takes the windows now in force. -/
def rewindowRegion (s : State) (c : Nat) (r : Region) : Region :=
  if r.close == some s.now then closeRegion s c r else r

def rewindowSegment (s : State) (c : Nat) (x : Segment) : Segment :=
  if x.close == some s.now then { x with qcore := qCore s c, qdie := qDie s c } else x

/-- R197: the regions and segments of a die after a write of its windows; the w of their CLOSE messages, and of the records of those that
have arrived, follows. -/
def rewindow (s : State) (d : Nat) : State :=
  let ids := s.strands.flatMap fun e =>
    if dieOf (e.1 / 64) == d then (e.2.regions.filter fun r => r.close == some s.now).map fun r => r.id else []
  let strand (e : Nat × Strand) := (e.1, { e.2 with regions := e.2.regions.map (rewindowRegion s (e.1 / 64)) })
  let core (e : Nat × Core) :=
    (e.1, { e.2 with griddle := { e.2.griddle with segs := e.2.griddle.segs.map (rewindowSegment s e.1) } })
  { s with strands := s.strands.map fun e => if dieOf (e.1 / 64) == d then strand e else e,
           cores := s.cores.map fun e => if dieOf e.1 == d then core e else e,
           records := s.records.map (fun r => if ids.contains r.region then { r with close := r.close.map fun e => (e.1, qPkg s r.tag.core) } else r),
           msgs := s.msgs.map fun m => if !m.squash && ids.contains m.region then { m with w := qPkg s m.tag.core } else m }

/-- R197, R431: an accepted write of a setting that signed flash is to hold. -/
def noteSetting (s : State) (k : Nat) : State :=
  if (mget s.uncommitted k).isSome then s else { s with uncommitted := mset s.uncommitted k s.now }

/-- R197: a write of QCFG. -/
def writeQcfg (s : State) (d : Nat) (v : Word) : State :=
  let q := qcfgAt s d
  let f (lo : Nat) : BitVec 16 := BitVec.ofNat 16 (bits v.toNat (lo + 15) lo)
  let q := { qcore := raised q.qcore (f 0), qdie := raised q.qdie (f 16), qpkg := raised q.qpkg (f 32), replayTh := f 48 }
  noteSetting (rewindow { s with qcfg := mset s.qcfg d q } d) d

def execEvQcfgWrite (h : HostAccess) (d : Nat) (v : Word) (s : State) : Out :=
  .next (if d < 8 then ownerWrite s h fun s => writeQcfg s d v else s)

/-- R197, R431: Zhevwell commits a setting in force to signed flash. -/
def execEvSignedFlashCommit (i : FlashItem) (s : State) : Out :=
  match i with
  | .qcfg d => .next { s with flash := { s.flash with qcfg := mset s.flash.qcfg d (qcfgAt s d) },
                              uncommitted := s.uncommitted.filter fun e => e.1 != d }
  | .pwrctl => .next { s with flash := { s.flash with pwrctl := s.pwrctl }, uncommitted := s.uncommitted.filter fun e => e.1 != 8 }

def modHearth (s : State) (h : Nat) (f : HearthStep → HearthStep) : State := { s with hearths := mset s.hearths h (f (hearthAt s h)) }

/-- R429, R430: a write of a hearth's STEP starts a change, or gives the one under way a new target. -/
def writeStepReg (s : State) (h : Nat) (v : Word) : State :=
  let n := v.toNat % 16
  let x := hearthAt s h
  if 12 ≤ n || (!x.pend && x.step.toNat == n) then s
  else modHearth s h fun x => { x with target := BitVec.ofNat 4 n, since := if x.pend then x.since else s.now, pend := true }

def execEvStepRegisterWrite (h : HostAccess) (hearth : Nat) (v : Word) (s : State) : Out :=
  .next (if hearth < 192 then ownerOrZhevwell s h fun s => writeStepReg s hearth v else s)

/-- R186, R430: a wake event that came during the stop counts from the restart. -/
def restartCore (s : State) (since : Nat) (k : Core) : Core := { k with woken := k.woken.map fun t => if since ≤ t then s.now else t }

/-- R430: the gangs of a hearth whose pre-emption was requested during its stop, and which no strand or griddle has heard of yet. -/
def restartGangs (s : State) (hearth : Nat) : State :=
  let waits (g : Gang) : Bool := g.state == .saving && hearthOf g.core == hearth && !(s.strands.any fun e => e.2.gang == g.id && e.2.saving)
  ((s.parts.flatMap fun e => e.2.grids.flatMap fun g => g.gangs).filter waits).foldl (fun s g => (gangCores g).foldl (preemptCore g.id) s) s

/-- R430: the hearth restarts at its latest target. -/
def execEvStepChangeDone (hearth : Nat) (s : State) : Out :=
  if (hearthAt s hearth).pend then
    let since := (hearthAt s hearth).since
    let s : State := { s with cores := s.cores.map fun e => if hearthOf e.1 == hearth then (e.1, restartCore s since e.2) else e }
    .next (restartGangs (modHearth s hearth fun x => { x with step := x.target, pend := false, stops := x.stops + 1 }) hearth)
  else .next s

/-- R431: a write of PWRCTL; a field out of range is left as it is. -/
def writePwrctl (s : State) (v : Word) : State :=
  let r := bits v.toNat 8 0
  let f := bits v.toNat 27 16
  let c := bits v.toNat 43 32
  let p := s.pwrctl
  noteSetting { s with pwrctl := { ramp := if 1 ≤ r && r ≤ 500 then BitVec.ofNat 9 r else p.ramp, floor := if f ≤ 3000 then BitVec.ofNat 12 f else p.floor,
                                   cap := if 1 ≤ c && c ≤ 3000 then BitVec.ofNat 12 c else p.cap } } 8

def execEvPwrctlWrite (h : HostAccess) (v : Word) (s : State) : Out := .next (ownerOnly s h fun s => writePwrctl s v)

/-! ### Error ring, time, firmware -/

/-- R414: ERRNEXT. -/
def execEvErrnext (h : HostAccess) (s : State) : Out := .next (ownerOnly s h fun s => { s with ring := s.ring.drop 1 })

/-- R427: a read of TSTAT clears OFFJUMP. -/
def clearOffjump (s : State) : State := { s with ptp := { s.ptp with offjump := false } }

def execEvTstatRead (h : HostAccess) (s : State) : Out :=
  .next (if portQuiet s h then clearOffjump s else s)

/-- R436: FWGO starts staging. -/
def execEvFwgo (h : HostAccess) (s : State) : Out :=
  .next (ownerWrite s h fun s => if s.fw.state = 1 then s else { s with fw := { s.fw with state := 1, reason := 0 } })

/-- R403, R436: an interface is locked or runs, so that an ACT is held. -/
def anyLocked (s : State) : Bool := (List.range 16).any (frozen s)

/-- R436: ACT arms the staged image, or is held. -/
def execEvAct (h : HostAccess) (s : State) : Out :=
  .next (ownerWrite s h fun s =>
    if s.fw.state ≠ 2 then s
    else if anyLocked s then { s with fw := { s.fw with heldAct := true } } else { s with fw := { s.fw with armed := true } })

/-! ### Collective attempts (R421, R422) -/

def groupAt (s : State) (g : Nat) : Group := mgetD s.groups g Group.reset

/-- R422: an abort token raises a rank's attempt; descriptors of older attempts make no further write and no add. -/
def takeAttempt (s : State) (g : Nat) (a : W32) : State :=
  let x := groupAt s g
  let n : W32 := if x.attempt.toNat < a.toNat then a else x.attempt
  let hit (d : CollDesc) : CollDesc := if d.group == g && d.attempt.toNat < n.toNat then { d with aborted := true } else d
  let s : State := { s with groups := mset s.groups g { x with attempt := n },
                            channels := s.channels.map fun e => (e.1, { e.2 with descs := e.2.descs.map hit }) }
  raiseError s 0x0C 4 (errSource 5 0) none (g % 65536 + n.toNat % 65536 * 65536)

/-- R406, R422: an abort token leaves over every external strait of its group. -/
def sendTokens (s : State) (g : Nat) (a : W32) : State :=
  { s with straits := ((List.range 18).filter fun n => (groupAt s g).straits.getLsbD n).foldl (fun m n =>
      let x := mgetD m n Strait.reset
      mset m n { x with tokens := x.tokens ++ [(g, a)] }) s.straits }

/-- R421, R422: GABORT: the token carries the next attempt to every rank, this one included (DEDUCED, log 58). -/
def abortGroup (s : State) (p : Nat) : State :=
  let g := (partAt s p).gsel.toNat % 65536
  let a := (groupAt s g).attempt + 1
  if (groupAt s g).owner == p then takeAttempt (sendTokens s g a) g a else s

def execEvGabort (p : Nat) (h : HostAccess) (s : State) : Out := .next (if vfMay s h p then abortGroup s p else s)

/-- R422: a token of another rank arrives. -/
def execEvAbortToken (g : Nat) (a : W32) (s : State) : Out := .next (if g < 65536 then takeAttempt s g a else s)

/-! ### Plain registers (R8) -/

/-- R377: a word of a trap-table entry. -/
def writeTrapWord (e : TrapEntry) (w : Nat) (v : Word) : TrapEntry :=
  match w with
  | 0 => { e with scode := v }
  | 1 => { e with hoff := v }
  | 2 => { e with handled := v }
  | _ => { e with valid := v &&& 1 }

def trapAt (x : Partition) (n : Nat) : TrapEntry := mgetD x.traps n { scode := 0, hoff := 0, handled := 0, valid := 0 }

/-- R403: PSERVE; the bits of locked interfaces are frozen, and a write that would change one moves its interface to
ERROR (DEDUCED, log 55). -/
def writePserve (s : State) (port : Nat) (v : Word) : State :=
  let old := (portAt s port).pserve
  let new : BitVec 16 := v.setWidth 16
  let keep := (List.range 16).filter fun p => frozen s p && old.getLsbD p != new.getLsbD p
  let masked := keep.foldl (fun (m : BitVec 16) p => m ^^^ ((1 : BitVec 16) <<< p)) new
  errorAll (modPort s port fun q => { q with pserve := masked }) fun p => keep.contains p

/-- A write to a register, or to register bits, with no behaviour of their own; reserved bits are not written
(DEDUCED, log 56). -/
def putReg (s : State) (r : RegPlace) (v : Word) : State :=
  match r with
  | .dpbase p => modPart s p fun x => { x with dpbase := v }
  | .dplen p => modPart s p fun x => { x with dplen := v.setWidth 11 }
  | .dpswap p => modPart s p fun x => { x with dpswap := v }
  | .dpquant p => modPart s p fun x => { x with dpquant := v }
  | .trec p q => modQueue s p q fun k => { k with trec := v }
  | .tctr p q => modQueue s p q fun k => if k.trec = 0 then { k with tctr := v } else k
  | .ttgt p q => modQueue s p q fun k => if k.trec = 0 then { k with ttgt := v } else k
  | .trapTable p n w => modPart s p fun x => { x with traps := mset x.traps n (writeTrapWord (trapAt x n) w v) }
  | .balance p a => changeAccount s p a fun y => { y with balance := v }
  | .refill p a => changeAccount s p a fun y => { y with refill := v }
  | .cap p a => changeAccount s p a fun y => { y with cap := v }
  | .rateValid p a => changeAccount s p a fun y => { y with rate := v.setWidth 16, valid := a != 0 && v.getLsbD 16 }
  | .ptroot p => modPart s p fun x => { x with ptroot := v &&& 0xFFFFFFFFFFF01 }
  | .msrc p => modPart s p fun x => { x with msrc := v }
  | .mdst p => modPart s p fun x => { x with mdst := v }
  | .gsel p => modPart s p fun x => { x with gsel := v }
  | .dgrid p => writeTarget s p v
  | .debugMode p => modPart s p fun x => { x with lstep := v.getLsbD 2, brkarm := v.getLsbD 3 }
  | .dstrand p => modPart s p fun x => { x with dstrand := v.setWidth 36 }
  | .pserve n => writePserve s n v
  | .recordWord p w => modPart s p fun x => { x with staged := mset x.staged w v }
  | .rframe => { s with retire := { s.retire with frame := v &&& 0xFFFFFFFFF0000 } }
  | .fwaddr => { s with fw := { s.fw with fwaddr := v } }
  | .fwlen => { s with fw := { s.fw with fwlen := v.setWidth 32 } }
  | .groupOwner g => { s with groups := mset s.groups g { groupAt s g with owner := v.toNat % 32 } }
  | .groupRanks g => { s with groups := mset s.groups g { groupAt s g with ranks := v.toNat % 65536 } }
  | .groupRank g => { s with groups := mset s.groups g { groupAt s g with rank := v.toNat % 65536 } }
  | .groupStraits g => { s with groups := mset s.groups g { groupAt s g with straits := v.setWidth 18 } }
  | .policyKey p => { s with flash := { s.flash with policyKeys := mset s.flash.policyKeys p v } }
  | .cxlRole n => { s with flash := { s.flash with roles := mset s.flash.roles n (v.toNat % 2) } }

/-- R356, R366, R384, R387: who may write a register, and whether it exists. -/
def mayPut (s : State) (h : HostAccess) (r : RegPlace) : State × Bool :=
  let vf (p : Nat) (ok : Bool) : State × Bool := (s, ok && vfMay s h p)
  let both (p : Nat) (ok : Bool) : State × Bool := (s, ok && vfOrOwner s h p)
  let owner (ok : Bool) : State × Bool := if !ok then (s, false) else if portQuiet s h && ownsSem s h then (s, true) else (ownerWrite s h id, false)
  match r with
  | .dpbase p | .dplen p | .dpswap p | .dpquant p => both p true
  | .trec p q | .tctr p q | .ttgt p q => vf p (q < 64)
  | .trapTable p n w => vf p (n < 16 && w < 4)
  | .balance p a | .refill p a | .cap p a | .rateValid p a => both p (a < 4096)
  | .ptroot p | .msrc p | .mdst p | .gsel p | .dgrid p | .debugMode p | .dstrand p => vf p true
  | .pserve n => owner (n < 2)
  | .recordWord p w => owner (p < 16 && w < 16)
  | .rframe => (s, byZhevwell h || (portQuiet s h && ownsSem s h))
  | .fwaddr | .fwlen => owner true
  | .groupOwner g | .groupRanks g | .groupRank g | .groupStraits g => owner (g < 65536)
  | .policyKey p => owner (p < 16)
  | .cxlRole n => owner (n < 4)

/-- R8: a host's write of a plain register. -/
def execEvRegisterWrite (h : HostAccess) (r : RegPlace) (v : Word) (s : State) : Out :=
  let m := mayPut s h r
  .next (if m.2 then putReg m.1 r v else m.1)

/-! ### Function BAR0 by offset (R385) -/

/-- R356: DPSTAT. -/
def readDpstat (x : Partition) : Word :=
  nat64 (x.dpstate.toNat + x.dpcause.toNat * 2 ^ 8 + x.dpreason.toNat * 2 ^ 16 + x.dpword.toNat * 2 ^ 24)

/-- R381: every strand of the target grid is halted. -/
def allHalted (s : State) (p : Nat) : Bool :=
  let g := (partAt s p).dgrid.toNat
  (s.strands.all fun e => !(e.2.part == p && e.2.grid == g) || e.2.halted)
    && ((gridAt s p g).all fun y => y.gangs.all fun x => x.strands.all fun t => t.halted)

/-- R328: a word of a queue block. -/
def readQueue (k : QueueBlock) (o : Nat) : Word :=
  match o with
  | 0 => nat64 (k.records.length + k.lastst.toNat * 2 ^ 16 + k.pushes.toNat * 2 ^ 32)
  | 16 => k.trec
  | 24 => k.tctr
  | 32 => k.ttgt
  | _ => 0

/-- R366, R373: a word of an account's block. -/
def readAccount (y : Account) (a o : Nat) : Word :=
  if 0x800 ≤ o && o < 0x900 then mgetD (if o % 16 = 0 then y.gross else y.net) ((o - 0x800) / 16) 0
  else match o with
    | 0 => y.balance
    | 8 => y.refill
    | 16 => y.period
    | 24 => y.cap
    | 32 => nat64 (y.rate.toNat + flagBit (a == 0 || y.valid) 16)
    | 40 => nat64 y.refillAt
    | _ => 0

/-- R385: the register word of a function at an offset, a multiple of 8; unlisted offsets read 0. -/
def readFunction (s : State) (p o : Nat) : Word :=
  let x := partAt s p
  if 0x1000000 ≤ o && o < 0x2000000 then readAccount (accruedAccount s p ((o - 0x1000000) / 4096)) ((o - 0x1000000) / 4096) (o % 4096)
  else if 0x1000 ≤ o && o < 0x2000 then readQueue (queueOf x ((o - 0x1000) / 64)) (o % 64)
  else if 0x3000 ≤ o && o < 0x3200 then
    let e := trapAt x ((o - 0x3000) / 32)
    match o % 32 with | 0 => e.scode | 8 => e.hoff | 16 => e.handled | _ => e.valid
  else match o with
    | 0x08 => x.dpbase
    | 0x10 => nat64 x.dplen.toNat
    | 0x18 => x.dpswap
    | 0x20 => readDpstat x
    | 0x28 => x.dpcnt
    | 0x30 => x.dpovr
    | 0x38 => x.dpref
    | 0x40 => x.dpquant
    | 0x180 => nat64 (x.spsize + spLimit x * 256)
    | 0x200 => x.dgrid
    | 0x208 => nat64 (flagBit x.halt 0 + flagBit x.lstep 2 + flagBit x.brkarm 3)
    | 0x210 => nat64 x.dstrand.toNat
    | 0x218 => nat64 (flagBit (allHalted s p) 0)
    | 0x300 => x.ptroot
    | 0x310 => nat64 x.tdone
    | 0x318 => nat64 (flagBit (x.tdone ≤ s.now) 0)
    | 0x320 => x.msrc
    | 0x328 => x.mdst
    | 0x338 => nat64 (x.mstate.toNat + x.mreason.toNat * 256)
    | 0x400 => x.gsel
    | 0x408 => nat64 (groupAt s (x.gsel.toNat % 65536)).attempt.toNat
    | _ => 0

/-- R381: a write of the word with HALT, STEP, LSTEP and BRKARM. A bit of HALT acts whatever HALT was: 0 resumes a strand
that an armed `brk` has halted (R134). -/
def writeDebug (s : State) (p : Nat) (v : Word) : State :=
  let s := writeHalt (putReg s (.debugMode p) v) p (v.getLsbD 0)
  if v.getLsbD 1 then writeStep s p else s

/-- R385: a write of the register word of a function at an offset, a multiple of 8; unlisted and read-only words ignore
it. -/
def writeFunction (s : State) (p o : Nat) (v : Word) : State :=
  if 0x1000000 ≤ o && o < 0x2000000 then
    let a := (o - 0x1000000) / 4096
    match o % 4096 with
    | 0 => putReg s (.balance p a) v
    | 8 => putReg s (.refill p a) v
    | 16 => writePeriod s p a v
    | 24 => putReg s (.cap p a) v
    | 32 => putReg s (.rateValid p a) v
    | _ => s
  else if 0x1000 ≤ o && o < 0x2000 then
    let q := (o - 0x1000) / 64
    match o % 64 with
    | 8 => pushRecord s p q v 3
    | 16 => putReg s (.trec p q) v
    | 24 => putReg s (.tctr p q) v
    | 32 => putReg s (.ttgt p q) v
    | _ => s
  else if 0x3000 ≤ o && o < 0x3200 then putReg s (.trapTable p ((o - 0x3000) / 32) (o % 32 / 8)) v
  else match o with
    | 0x00 => if v.getLsbD 0 then startLoad s p else s
    | 0x08 => putReg s (.dpbase p) v
    | 0x10 => putReg s (.dplen p) v
    | 0x18 => putReg s (.dpswap p) v
    | 0x40 => putReg s (.dpquant p) v
    | 0x100 => unparkGrid s p v.toNat
    | 0x180 => writeSpcfg s p v
    | 0x200 => putReg s (.dgrid p) v
    | 0x208 => writeDebug s p v
    | 0x210 => putReg s (.dstrand p) v
    | 0x300 => putReg s (.ptroot p) v
    | 0x308 => unmapWait s p
    | 0x320 => putReg s (.msrc p) v
    | 0x328 => putReg s (.mdst p) v
    | 0x330 => if v.getLsbD 0 then startMove s p else s
    | 0x400 => putReg s (.gsel p) v
    | 0x410 => if v.getLsbD 0 then abortGroup s p else s
    | _ => s

/-- R223, R397: the partition and register offset that an address of isle 15 names. -/
def functionAt (pa : Nat) : Option (Nat × Nat) :=
  ((List.range 16).find? fun p => inOwnBar p pa).map fun p => (p, pa % 2 ^ 48 - Config.vfBarBase p)

/-- R223: a byte that a read of isle 15 gives. -/
def functionByte (s : State) (pa : Nat) : Byte :=
  match functionAt pa with
  | none => 0
  | some (p, o) => ((readFunction s p (o / 8 * 8)) >>> (8 * (o % 8))).setWidth 8

/-- R223: the bytes of a write to isle 15 reach their registers, a word at a time; the rest of a word is what it reads
(DEDUCED, log 54). -/
def functionWrite (s : State) (bs : FMap Byte) : State :=
  ((bs.map fun e => e.1 / 8).eraseDups).foldl (fun s w =>
    match functionAt (8 * w) with
    | none => s
    | some (p, o) =>
      let old := readFunction s p (o / 8 * 8)
      let v := leNat ((List.range 8).map fun i => mgetD bs (8 * w + i) ((old >>> (8 * i)).setWidth 8))
      writeFunction s p (o / 8 * 8) (nat64 v)) s

/-! ### PF0 BAR0 by offset -/

/-- R411: a word of an error record. -/
def errWord (r : ErrRec) (w : Nat) : Word :=
  match w with
  | 0 => nat64 (r.kind.toNat + r.sev.toNat * 2 ^ 8 + r.source.toNat * 2 ^ 16 + r.seq.toNat * 2 ^ 32)
  | 1 => nat64 r.time
  | 2 => r.addr
  | _ => nat64 ((r.part.map fun p => p + 16).getD 0 + r.count.toNat * 2 ^ 8 + r.detail.toNat * 2 ^ 32)

/-- R428, R434: PTP seconds and nanoseconds of a tick; 0 seconds when not locked (DEDUCED, log 71). -/
def ptpSec (t : Telemetry) : Nat := (t.ptp.map fun v => v.toNat / 1000000000).getD 0
def ptpNs (t : Telemetry) : Nat := (t.ptp.map fun v => v.toNat % 1000000000).getD 0

/-- R434: a record of 64 bytes, as a number. -/
def telemetryNat (t : Telemetry) : Nat :=
  t.pstart % 2 ^ 64 + ptpSec t % 2 ^ 48 * 2 ^ 64 + ptpNs t % 2 ^ 32 * 2 ^ 112 + t.seq.toNat * 2 ^ 144
    + flagBit t.locked 176 + flagBit t.offjump 177 + flagBit t.paced 178 + flagBit t.filled 179 + flagBit t.capped 180
    + t.m.pavg.toNat * 2 ^ 192 + t.pmin.toNat * 2 ^ 208 + t.pmax.toNat * 2 ^ 224 + t.m.pfill.toNat * 2 ^ 240
    + t.m.tmax.toNat * 2 ^ 256 + t.m.tcool.toNat * 2 ^ 272 + t.replays.toNat * 2 ^ 288 + t.replayH.toNat * 2 ^ 320
    + t.replayEv.toNat * 2 ^ 328 + t.m.energy.toNat * 2 ^ 384 + t.ptperr.toNat * 2 ^ 448

def straitAt (s : State) (n : Nat) : Strait := mgetD s.straits n Strait.reset

/-- R407: a strait's status word. -/
def straitWord (x : Strait) : Word := nat64 (flagBit x.up 0 + x.width.toNat * 2 + x.peer.toNat * 2 ^ 16 + x.stale.toNat * 2 ^ 32)

/-- R438: PSTAT. -/
def readPstat (x : Partition) : Word := nat64 (flagBit x.busy 1 + flagBit x.refused 2 + x.reason.toNat * 256)

/-- The register word of PF0 BAR0 that a port reads at an offset, a multiple of 8. -/
def readPf0 (s : State) (port o : Nat) : Word :=
  if 0x1000 ≤ o && o < 0x1E80 then (if o % 64 = 0 then straitWord (straitAt s ((o - 0x1000) / 64)) else 0)
  else if 0x2000 ≤ o && o < 0x2600 then
    let x := hearthAt s ((o - 0x2000) / 8)
    nat64 (x.step.toNat + flagBit x.pend 4 + adjIsle ((o - 0x2000) / 8) * 256 + x.stops.toNat * 2 ^ 32)
  else if 0x4000 ≤ o && o < 0x5000 then
    match s.telemetry.find? fun t => t.seq.toNat % 64 == (o - 0x4000) / 64 with
    | some t => nat64 (telemetryNat t / 2 ^ (8 * (o % 64)))
    | none => 0
  else if 0x6000 ≤ o && o < 0x6800 then mgetD (partAt s ((o - 0x6000) / 128)).record (o % 128 / 8) 0
  else if 0x6800 ≤ o && o < 0x6880 then readPstat (partAt s ((o - 0x6800) / 8))
  else if 0x6900 ≤ o && o < 0x6940 then
    let q := qcfgAt s ((o - 0x6900) / 8)
    nat64 (q.qcore.toNat + q.qdie.toNat * 2 ^ 16 + q.qpkg.toNat * 2 ^ 32 + q.replayTh.toNat * 2 ^ 48)
  else if 0x120 ≤ o && o < 0x140 then (match s.ring with | [] => 0 | r :: _ => errWord r ((o - 0x120) / 8))
  else match o with
    | 0x000 => nat64 (s.owner + flagBit (s.owner == port + 1) 2 + s.epoch.toNat * 2 ^ 32)
    | 0x008 => (portAt s port).refused
    | 0x010 => nat64 (portAt s 0).pserve.toNat
    | 0x018 => nat64 (portAt s 1).pserve.toNat
    | 0x100 => nat64 (s.ring.length + s.dropped.toNat * 2 ^ 32)
    | 0x200 => s.retire.frame
    | 0x210 => nat64 (s.retire.state.toNat + s.retire.reason.toNat * 256)
    | 0x400 => nat64 s.now
    | 0x408 => s.ptp.offset
    | 0x410 => nat64 (flagBit s.ptp.locked 0 + flagBit s.ptp.offjump 1 + s.ptp.err.toNat * 2 ^ 32)
    | 0x480 => nat64 (s.pwrctl.ramp.toNat + s.pwrctl.floor.toNat * 2 ^ 16 + s.pwrctl.cap.toNat * 2 ^ 32)
    | 0x500 => s.fw.fwaddr
    | 0x508 => nat64 s.fw.fwlen.toNat
    | 0x518 => nat64 (s.fw.state.toNat + s.fw.reason.toNat * 256 + flagBit s.fw.armed 16)
    | 0x520 => s.fw.fwver
    | 0x528 => s.fw.minver
    | _ => 0

end Sys2Proof.Machine
end

