-- ==== Sys2Proof/Machine/Routes.lean ====
section
/-! DEFINITION. The routes of the Bronal fabric (spec/21 R418, R419): two for every pair of dies, over straits with a cost, and what
travels between two dies. Dies are numbered as in `State.incs`: 0 to 7 the compute dies, 8 and i isle i, 22 the I/O die. -/

namespace Sys2Proof.Machine

open Sys2Proof

/-- R223, R423: the die of a home. -/
def homeDie (home : Nat) : Nat := if home < 12 then 8 + home else 22

/-- R407, R418: the straits of the primary or the alternate route between two dies, the last one first. -/
def routeStraits (a b : Nat) (alt : Bool) : List Nat := ((Config.route a b alt).1 :: (Config.route a b alt).2).map fun n => 18 + n.val

/-- R418: the sum of the costs of a route. -/
def routeCost (s : State) (a b : Nat) (alt : Bool) : Nat := ((routeStraits a b alt).map fun n => (straitAt s n).cost).sum

/-- R419: a strait of the route has no lane left. -/
def routeDead (s : State) (a b : Nat) (alt : Bool) : Bool := (routeStraits a b alt).any fun n => (straitAt s n).lanes == 0

/-- R418, R419: new traffic takes the alternate route: it costs less than the primary, or that has a dead strait. -/
def lowerRoute (s : State) (a b : Nat) : Bool :=
  !routeDead s a b true && (routeDead s a b false || routeCost s a b true < routeCost s a b false)

/-- R419: the route that a pair of dies uses: the one that its traffic is still on, else the one for new traffic. -/
def routeTaken (s : State) (a b : Nat) : Bool := (mget s.routes (23 * a + b)).getD (lowerRoute s a b)

/-- R407: the strait over which a packet comes to the second die. -/
def arrivalStrait (s : State) (a b : Nat) : Nat := (routeStraits a b (routeTaken s a b)).headD 18

/-- R419, R420: no strait of the route retrains or is dead, so that the bound on a delay holds. -/
def pathSteady (s : State) (a b : Nat) : Bool :=
  (routeStraits a b (routeTaken s a b)).all fun n => (straitAt s n).retraining.isNone && (straitAt s n).lanes != 0

/-- R419: the pairs of dies between which something travels; a heartbeat holds no route (DESIGN CHOICE, log 144). -/
def traffic (s : State) : List (Nat × Nat) :=
  let fill (c : Nat) (pa : Nat) (back : Bool) : Nat × Nat := let h := homeDie (homeOf s pa); if back then (h, dieOf c) else (dieOf c, h)
  (s.effects.filterMap fun e => match e.stage with
      | .flight => some (dieOf e.tag.core, homeDie e.home)
      | .done _ _ => some (homeDie e.home, dieOf e.tag.core)
      | _ => none)
    ++ (s.msgs.filter fun m => m.sent.isSome).map (fun m => (dieOf m.tag.core, homeDie m.home))
    ++ s.cores.flatMap (fun e => e.2.fills.map fun f => fill e.1 (128 * f.line) f.answer.isSome)
    ++ s.blocks.flatMap (fun e => e.2.chunks.filterMap fun k => k.2.filling.map fun pa => fill e.2.core pa false)
    ++ s.links.map fun q => (dieOf q.core, 22)

/-- R419: what changes the cost of a strait: traffic on a route that is not dead stays there until it has drained. -/
def rerouted (s t : State) : State :=
  let stays (a b : Nat) (alt : Bool) : Bool := !routeDead t a b alt
  let now := (traffic s).eraseDups.filter fun e => stays e.1 e.2 (routeTaken s e.1 e.2) && routeTaken s e.1 e.2 != lowerRoute t e.1 e.2
  { t with routes := now.foldl (fun m e => mset m (23 * e.1 + e.2) (routeTaken s e.1 e.2)) (t.routes.filter fun e => stays (e.1 / 23) (e.1 % 23) e.2) }

/-- R419: a pair of dies whose traffic has drained takes the route for new traffic. -/
def dueRoute (s : State) : Option State :=
  (s.routes.find? fun e => !(traffic s).contains (e.1 / 23, e.1 % 23)).map fun e => { s with routes := mdel s.routes e.1 }

end Sys2Proof.Machine
end

