-- ==== Sys2Proof/Machine/Homes.lean ====
section
/-! DEFINITION. The homes (spec/07 R211 to R216, spec/08 R231, spec/21 R420, R423): arrival, acceptance, release and
completion of held effects, CLOSE and SQUASH messages with their records and credits, heartbeats, and host pieces and
reads (spec/19 R389 to R391, spec/20 R408). -/

namespace Sys2Proof.Machine

open Sys2Proof

/-! ### What a home has received -/

/-- R216, R423: what a die sent before its latest reset is dropped and counted. -/
def oldInc (s : State) (tag : Tag) : Bool := tag.inc != mgetD s.incs (dieOf tag.core) 0

/-- R411: the SOURCE of a home: a near isle, or the I/O die. -/
def homeSource (home : Nat) : BitVec 16 := if home < 12 then errSource 3 home else errSource 5 0

/-- R407, R423: a packet of an older incarnation, from die a to die b, is dropped at the ingress there, and counted under its SOURCE
and in STALE of the in-package strait over which it came (DESIGN CHOICE, log 127). -/
def dropStale (s : State) (a b : Nat) (source : BitVec 16) : State :=
  let n := arrivalStrait s a b
  mergeError { s with straits := mset s.straits n { straitAt s n with stale := (straitAt s n).stale + 1 } } 0x0A source 0

/-- R423: a packet that a die sent in an older incarnation is dropped at a home's ingress. -/
def dropOld (s : State) (die home : Nat) : State := dropStale s die (homeDie home) (homeSource home)

/-- R423, R425: a response of a home to an older incarnation of a die is dropped at the die's ingress. -/
def dropAnswer (s : State) (home die : Nat) : State := dropStale s (homeDie home) die (errSource 2 die)

/-- R420: the home has received, on a die's channel, a message that was sent no more than 96 ticks ago. -/
def dieHeard (s : State) (die home : Nat) : Bool :=
  match mget s.heard (16 * die + home) with
  | some t => s.now ≤ t + Config.straitDelay
  | none => false

/-- R420: notes the tick at which a message of a die was sent. -/
def noteHeard (s : State) (die home sent : Nat) : State :=
  { s with heard := mset s.heard (16 * die + home) (match mget s.heard (16 * die + home) with
      | some t => max t sent
      | none => sent) }

/-- R213: the record of a region's tag at a home. -/
def recordFor (s : State) (home region : Nat) : Option TagRec := s.records.find? fun r => r.home == home && r.region == region

def modRecord (s : State) (home region : Nat) (f : TagRec → TagRec) : State :=
  { s with records := s.records.map fun r => if r.home == home && r.region == region then f r else r }

/-- R212, R219: the release tick of an effect that a CLOSE has reached: its own, or that of its tag's record. -/
def releaseTick (s : State) (e : Effect) : Option Nat :=
  match e.ownClose with
  | some t => some t
  | none => match recordFor s (recordHome e) e.region with
    | some r => if r.squashed then none else r.close.map fun c => c.1 + c.2
    | none => none

/-- R213: the tag of an effect has been squashed. -/
def tagSquashed (s : State) (e : Effect) : Bool :=
  e.ownClose.isNone && (recordFor s (recordHome e) e.region).any fun r => r.squashed

/-- R201, R213, R420: the effect may be released at this tick. -/
def effectDue (s : State) (e : Effect) : Bool :=
  ((releaseTick s e).any fun t => t ≤ s.now) && dieHeard s (dieOf e.tag.core) (recordHome e)

/-- Locations that an effect changes. -/
def effectLocs (e : Effect) : List Nat :=
  match e.kind with
  | .write b => b.map fun x => x.1
  | .add a _ => (List.range 8).map fun i => a + i
  | .reduce _ ty a _ => (List.range (typeWidth ty.toNat / 8)).map fun i => a + i

/-- R246: a half that the effect touches is owned by a CXL host. -/
def effectOwned (s : State) (e : Effect) : Bool := (effectLocs e).any fun a => s.owned.contains (a / 64)

def modEffect (s : State) (id : Nat) (f : Effect → Effect) : State :=
  { s with effects := s.effects.map fun e => if e.id == id then f e else e }

/-! ### Performing an effect (R202, R231, R251) -/

/-- R215: the largest lease horizon of the lines of an effect. -/
def effectHorizon (s : State) (e : Effect) : Nat := (effectLines e).foldl (fun m n => max m (horizonOf s n)) s.now

/-- An answer on its way to a core, of a line of a device isle that the core's own effect has changed, is asked for again
(DEDUCED, log 62). -/
def refetchDevice (s : State) (e : Effect) : State :=
  let again (f : Fill) : Fill := if (effectLines e).contains f.line then { f with answer := none } else f
  if e.home < 12 then s else modCore s e.tag.core fun k => { k with fills := k.fills.map again }

/-- R223, R392, R404: masked bytes at their home: registers of isle 15, host memory behind a port, or memory. -/
def performWrite (s : State) (part : Nat) (b : FMap Byte) : State :=
  let dev := b.filter fun x => isleOf x.1 == 15
  let host := b.filter fun x => atHost x.1
  let mem := b.filter fun x => isleOf x.1 != 15 && !atHost x.1 && !hostDropped s part x.1
  let s := if dev.isEmpty then s else functionWrite s dev
  let s := match host with
    | [] => s
    | x :: _ => toHost s part x.1 host
  { s with mem := memPuts s.mem mem }

/-- R251, R262, R404: a released reduction: at the link partner a request is sent; elsewhere the word changes. -/
def performReduce (s : State) (e : Effect) (op ty : BitVec 4) (a : Nat) (v : Word) : State :=
  if hostDropped s e.part a then s
  else if atHost a then
    { s with links := s.links ++ [{ id := e.id, core := e.tag.core, slot := e.tag.slot, strand := false, addr := a, op := op, type := ty,
                                    value := v, compare := 0, lane := 64, expect := none, result := none, refused := false, tee := frozen s e.part, inc := e.tag.inc }] }
  else
    let n := typeWidth ty.toNat / 8
    { s with mem := memWrite s.mem a n (atomNew op.toNat ty.toNat (memNat s.mem a n) v.toNat 0) }

/-- R266: the add of an effect passes 2^64 - 1. -/
def effectOverflows (s : State) (e : Effect) : Bool :=
  match e.kind with
  | .add a v => addOverflows (BitVec.ofNat 64 (memNat s.mem a 8)) v
  | _ => false

/-- R202, R215: an effect is performed at its home, and its completion leaves with the GWCT. -/
def performEffect (s : State) (e : Effect) : State :=
  let gw := effectHorizon s e
  let past := effectOverflows s e
  let s' := match e.kind with
    | .write b => performWrite s e.part b
    | .add a v => { s with mem := memWrite s.mem a 8 (satAdd (BitVec.ofNat 64 (memNat s.mem a 8)) v).toNat }
    | .reduce op ty a v => performReduce s e op ty a v
  wakeClaims (noteWatches (modEffect (refetchDevice s' e) e.id fun x => { x with stage := .done gw past, entry := 0 }))

/-! ### Arrival (R214) -/

/-- R214: a free entry: the core's reserved ones first, then a shared one. The I/O die has no bound (DEDUCED, log 60). -/
def freeEntry (s : State) (e : Effect) : Option Nat :=
  if 12 ≤ e.home then some 0
  else if (s.effects.filter fun x => x.home == e.home && x.stage == .pending && x.entry == 1 && x.tag.core == e.tag.core).length < 8
    then some 1
  else if sharedUsed s e.home < 2048 then some 2 else none

/-- R373: bytes that an effect brings to its home. -/
def effectBytes (e : Effect) : Nat := (effectLocs e).length

/-- R373: event 8, in the effect's region when it is still held, else in both forms. -/
def countAccepted (s : State) (e : Effect) : State :=
  match strandAt s e.tag.core e.tag.slot with
  | some t =>
    if t.regions.any (fun r => r.id == e.region && !r.cleared) then bump s e.tag.core e.tag.slot e.region 8 (effectBytes e)
    else bumpBoth s e.part e.grid 8 (effectBytes e)
  | none => bumpBoth s e.part e.grid 8 (effectBytes e)

/-- An effect has left its home without being performed. -/
def discardEffect (s : State) (id : Nat) : State := { s with effects := s.effects.filter fun e => e.id != id }

/-- An effect released at a tick precedes another. -/
def releasedBefore (s : State) (a b : Effect) : Bool :=
  let x := (releaseTick s a).getD 0
  let y := (releaseTick s b).getD 0
  x < y || (x == y && a.order < b.order)

/-- Effects in the order of their release (R213, R231). -/
def insertRelease (s : State) (e : Effect) : List Effect → List Effect
  | [] => [e]
  | y :: ys => if releasedBefore s e y then e :: y :: ys else y :: insertRelease s e ys

/-- R213 item 2: the pending effects of a home that are due, in order. -/
def dueEffects (s : State) (home : Nat) : List Effect :=
  (s.effects.filter fun e => e.home == home && e.stage == .pending && !tagSquashed s e && effectDue s e && !effectOwned s e).foldr
    (insertRelease s) []

/-- R213 item 3, R214: an effect at a home: it is discarded for a squashed tag, performed once its release tick has
passed, after what is pending and due, accepted into an entry, or left at the ingress. -/
def admitEffect (s : State) (e : Effect) : State :=
  if tagSquashed s e then discardEffect s e.id
  else if effectDue s e then performEffect (countAccepted ((dueEffects s e.home).foldl performEffect s) e) e
  else match freeEntry s e with
    | none => modEffect { s with nextId := s.nextId + 1 } e.id fun x => { x with stage := .ingress, order := s.nextId }
    | some k =>
      modEffect { countAccepted s e with nextId := s.nextId + 1 } e.id fun x => { x with stage := .pending, entry := k, order := s.nextId }

/-- R236: an older effect of the same core and kind of source is still on its way to the home (DEDUCED, log 59). -/
def olderFlight (s : State) (e : Effect) : Bool :=
  s.effects.any fun f => f.stage == .flight && f.id < e.id && f.tag.core == e.tag.core && f.home == e.home && f.copy.isSome == e.copy.isSome

/-- R214: an older effect of the core waits at the ingress of the home. -/
def olderIngress (s : State) (e : Effect) (order : Nat) : Bool :=
  s.effects.any fun f => f.stage == .ingress && f.order < order && f.tag.core == e.tag.core && f.home == e.home

/-- R236: an earlier load of the effect's stream that names its bytes has not read them yet: the effect comes after it. -/
def readsFirst (s : State) (e : Effect) : Bool :=
  e.copy.isNone && s.strands.any fun x => x.2.effects.contains e.id && x.2.ops.any fun o => o.id < e.id && o.scalar != e.lane && comesAfter o (effectLocs e)

/-- R211, R213, R214, R216: a held effect arrives at its home. -/
def execEvHeldEffectArrives (id : Nat) (s : State) : Out :=
  match s.effects.find? fun e => e.id == id && e.stage == .flight with
  | none => .next s
  | some e =>
    if olderFlight s e then .next s
    else if oldInc s e.tag then .next (dropOld (discardEffect s id) (dieOf e.tag.core) e.home)
    else if frameHeld s (effectLocs e) || effectOwned s e || readsFirst s e then .next s
    else
      let s := if e.ownClose.isSome then s else modRecord s (recordHome e) e.region fun r => { r with arrived := r.arrived + 1 }
      if olderIngress s e s.nextId then
        .next (modEffect { s with nextId := s.nextId + 1 } id fun x => { x with stage := .ingress, order := s.nextId })
      else .next (admitEffect s e)

/-- R214: the first effect at the ingress, of those that no older one of their core precedes, that can be handled. -/
def execEvPendingWriteAccepted (home : Nat) (s : State) : Out :=
  let waits := s.effects.filter fun e => e.home == home && e.stage == .ingress && !olderIngress s e e.order
    && (tagSquashed s e || effectDue s e || (freeEntry s e).isSome) && !effectOwned s e && !frameHeld s (effectLocs e)
  match waits.foldl (fun m e => match m with
    | none => some e
    | some y => if e.order < y.order then some e else m) (none : Option Effect) with
  | none => .next s
  | some e => .next (admitEffect s e)

/-! ### CLOSE and SQUASH (R212, R213) -/

/-- R212, R419, R420: the next message on the channel of a core's die to a home, if it is the core's: a channel keeps its order
(DEDUCED, log 96). -/
def nextMsg (s : State) (home core : Nat) : Option Msg :=
  (s.msgs.find? fun m => m.home == home && dieOf m.tag.core == dieOf core && m.sent.isSome).filter fun m => m.tag.core == core

/-- R213: effects of a tag that the home holds. -/
def heldOf (s : State) (home region : Nat) : List Effect :=
  s.effects.filter fun e => recordHome e == home && e.region == region && e.ownClose.isNone && (e.stage == .pending || e.stage == .ingress)

/-- Takes a message off its channel. -/
def takeMsg (s : State) (m : Msg) : State := { s with msgs := s.msgs.erase m }

/-- R213: the record that a message makes, or changes. -/
def putRecord (s : State) (m : Msg) : State :=
  if (recordFor s m.home m.region).isSome then modRecord s m.home m.region fun r => { r with squashed := r.squashed || m.squash }
  else { s with records := s.records ++ [{ home := m.home, tag := m.tag, region := m.region, squashed := m.squash, n := m.n,
                                           close := if m.squash then none else some (m.ec, m.w),
                                           arrived := (heldOf s m.home m.region).length }] }

/-- R213 item 1: what a squashed tag holds is discarded. -/
def discardTag (s : State) (home region : Nat) : State :=
  let ids := (heldOf s home region).map fun e => e.id
  wakeClaims { s with effects := s.effects.filter fun e => !ids.contains e.id }

/-- R212, R213: the message at the head of a core's channel arrives, if it is of the kind named. -/
def receiveMsg (s : State) (home core : Nat) (squash : Bool) : State :=
  match nextMsg s home core with
  | none => s
  | some m =>
    if m.squash != squash then s
    else
      let s := takeMsg s m
      if oldInc s m.tag then dropOld s (dieOf core) home
      else
        let s := noteHeard (putRecord s m) (dieOf core) home (m.sent.getD 0)
        if squash then discardTag s home m.region else s

/-- R212, R213: a CLOSE arrives. -/
def execEvClose (home core : Nat) (s : State) : Out := .next (receiveMsg s home core false)

/-- R212, R213: a SQUASH arrives. -/
def execEvSquash (home core : Nat) (s : State) : Out := .next (receiveMsg s home core true)

/-! ### Release (R201, R213) -/

/-- R201, R213: a home releases every effect that is due. -/
def execEvHomeRelease (home : Nat) (s : State) : Out := .next ((dueEffects s home).foldl performEffect s)

/-! ### Credits (R212) -/

/-- R213: every effect of the record has arrived, and it was squashed or its release is past. -/
def recordOver (s : State) (r : TagRec) : Bool :=
  r.n ≤ r.arrived && (heldOf s r.home r.region).isEmpty && (r.squashed || r.close.any fun c => c.1 + c.2 ≤ s.now)

/-- R212: the waiting message that takes a returned credit: the first SQUASH, else the first CLOSE. -/
def waitingMsg (s : State) (home core : Nat) : Option Msg :=
  let mine := s.msgs.filter fun m => m.home == home && m.tag.core == core && m.sent.isNone
  match mine.find? fun m => m.squash with
  | some m => some m
  | none => mine.head?

/-- A message that had waited departs. -/
def departMsg (s : State) (m : Msg) : State :=
  { s with msgs := s.msgs.erase m ++ [{ m with sent := some s.now }],
           credits := mset s.credits (16 * m.tag.core + m.home) (mgetD s.credits (16 * m.tag.core + m.home) 0 + 1) }

/-- R212, R213: a record is freed, and its credit returns to its core. -/
def execEvCreditReturned (home core : Nat) (s : State) : Out :=
  match s.records.find? fun r => r.home == home && r.tag.core == core && recordOver s r with
  | none => .next s
  | some r =>
    let s : State := { s with records := s.records.erase r, credits := mset s.credits (16 * core + home) (mgetD s.credits (16 * core + home) 0 - 1) }
    match waitingMsg s home core with
    | some m => .next (departMsg s m)
    | none => .next s

/-! ### Heartbeats (R420) -/

/-- R420: every 8 ticks a compute die sends a heartbeat toward every home. -/
def execEvHeartbeat (die : Nat) (s : State) : Out :=
  if 8 ≤ die || s.now % 8 ≠ 0 then .next s
  else .next { s with beats := (List.range 13).foldl (fun m h => mset m (16 * die + h) s.now) s.beats }

/-- R420: the next heartbeat that a die has sent to a home and the home has not received or dropped; it overtakes no older message
of the die (R419) (DEDUCED, log 96). -/
def nextBeat (s : State) (home die : Nat) : Option Nat :=
  let after (t : Option Nat) : Nat := (t.map fun t => (t / 8 + 1) * 8).getD 0
  let n := max (after (mget s.heard (16 * die + home))) (after (mget s.lostBeats (16 * die + home)))
  let older : Bool := s.msgs.any fun m => m.home == home && dieOf m.tag.core == die && m.sent.any fun t => t ≤ n
  (mget s.beats (16 * die + home)).bind fun b => if n ≤ b && !older then some n else none

/-- R420, R423: it arrives; one of an older incarnation is dropped. -/
def execEvHeartbeatReceived (home die : Nat) (s : State) : Out :=
  match nextBeat s home die with
  | some t =>
    if (mget s.oldBeats (16 * die + home)).any fun b => t ≤ b then
      .next (dropOld { s with lostBeats := mset s.lostBeats (16 * die + home) t } die home)
    else .next (noteHeard s die home t)
  | none => .next s

/-! ### Completions (R215) -/

/-- The strand that holds an effect, where it stands now. -/
def strandOf (s : State) (eff : Nat) : Option (Nat × Nat × Strand) :=
  (s.strands.find? fun e => e.2.effects.contains eff).map fun e => (e.1 / 64, e.1 % 64, e.2)

/-- A completion reaches a strand: the GWCT is kept and the effect awaited no more. -/
def strandCompletes (eff gw : Nat) (t : Strand) : Strand :=
  if t.effects.contains eff then { t with effects := t.effects.erase eff, gwct := max t.gwct gw } else t

/-- R266, R378: a counter that overflowed at its home: the trap of the `cadd`, in its strand, in the saved image, or,
when the strand is gone, in a FAULT decision. -/
def effectTrap (s : State) (e : Effect) : State :=
  match strandOf s e.id with
  | some (c, l, _) => overflowTrap s c l e.region e.seq e.place true
  | none => goneTrap s e.part e.grid e.tag.core (fun t => t.effects.contains e.id) e.region e.seq e.place

/-- R215: the completion of a strand's effect. -/
def strandCompletion (s : State) (e : Effect) (gw : Nat) (past : Bool) : State :=
  let s := if past then effectTrap s e else s
  match strandOf s e.id with
  | some (c, l, _) => modStrand s c l (strandCompletes e.id gw)
  | none =>
    modGrid s e.part e.grid fun y =>
      let saved := y.gangs.any fun x => x.strands.any fun t => t.effects.contains e.id
      { y with gangs := y.gangs.map (fun x => { x with strands := x.strands.map (strandCompletes e.id gw) }),
               gwct := if saved then y.gwct else max y.gwct gw }

/-- R219, R270: the completion of an effect of a copy. -/
def copyCompletion (s : State) (id : Nat) (e : Effect) (gw : Nat) (past : Bool) : State :=
  let s := modCopy s id fun y => { y with awaits := y.awaits.erase e.id, gwct := max y.gwct gw }
  let s := modGrid s e.part e.grid fun y => { y with gwct := max y.gwct gw }
  match copyAt s id with
  | some y => if y.added && y.awaits.isEmpty && !y.done then endCopy s id (if past then 6 else 0) (copyChunks y) else s
  | none => s

/-- R284: every effect of a slice has been released. -/
def sliceCompletion (s : State) (x : Nat × Nat × Nat) : State :=
  if s.effects.any (fun e => e.slice == some x) then s
  else wakeSlices (modGrid s x.1 x.2.1 fun y => { y with slices := mmod y.slices x.2.2 fun r => { r with ready := true } }) x.1 x.2.1

/-- R226, R227, R232: the last completion for a line: its bytes become ordinary data; a line that a `.byp` store took
is dropped. -/
def unpinLine (eff : Nat) (x : L1Line) : Option L1Line :=
  if !x.pin.contains eff then some x
  else
    let pin := x.pin.erase eff
    if !pin.isEmpty then some { x with pin := pin }
    else if x.drop then none
    else some { x with pin := [], quar := [], wmask := 0 }

/-- R258: an effect whose value its core does not hold: an add or a reduction. -/
def summed (e : Effect) : Bool := match e.kind with | .write _ => false | _ => true

/-- R232, R258, R267: what the completion of an effect changes in its core, and in a core that carries it for a strand
placed there since; a copy of the line from before an add or a reduction serves no more. -/
def coreCompletion (s : State) (e : Effect) : State :=
  let clear (k : Core) : Core :=
    { k with l1 := k.l1.filterMap (unpinLine e.id), adds := k.adds.filter (fun a => a.effect != e.id) }
  let s : State := { s with cores := s.cores.map fun x => (x.1, clear x.2) }
  modCore s e.tag.core fun k =>
    { k with l1 := k.l1.map (fun x => if summed e && (effectLines e).contains x.line then { x with valid := false } else x),
             fills := if e.home < 12 then k.fills.map (fun f => if (effectLines e).contains f.line then { f with answer := none } else f) else k.fills }

/-- R215, R425: the completion of an effect reaches its core. The request at a link partner is finished first. -/
def execEvGwctCompletion (id : Nat) (s : State) : Out :=
  match s.effects.find? fun e => e.id == id with
  | none => .next s
  | some e => match e.stage with
    | .done gw past =>
      if s.links.any (fun q => !q.strand && q.id == id) then .next s
      else if oldInc s e.tag then .next (dropAnswer (discardEffect s id) e.home (dieOf e.tag.core))
      else
        let s := discardEffect (match e.copy with
          | some y => copyCompletion s y e gw past
          | none => strandCompletion s e gw past) id
        let s := match e.slice with
          | some x => sliceCompletion s x
          | none => s
        .next (wakeCore (coreCompletion s e) e.tag.core 0x10)
    | _ => .next s

/-! ### Requests at a link partner (R251) -/

/-- R251: the operations that go out as one AtomicOp: add, exch and cas. -/
def oneAtomicOp (op : BitVec 4) : Bool := op == 0 || op == 6 || op == 7

/-- The request's CAS has installed its value, or the one AtomicOp has been done, on this old value. -/
def linkDone (q : LinkReq) (old : Word) : Bool :=
  let m := 2 ^ typeWidth q.type.toNat
  oneAtomicOp q.op || q.expect.any fun x => x.toNat % m == old.toNat % m

/-- R251, R412: the link partner answers a request: an AtomicOp, the read of an operation that has none, or the CAS that
installs its value. A refusal ends the request (DEDUCED, log 68), and raises its record at the port. What answers an older
incarnation of a strand's die is dropped (R425). -/
def execEvPcieAtomicopCompletion (id : Nat) (refused : Bool) (old : Word) (s : State) : Out :=
  match s.links.find? fun q => q.id == id && q.result.isNone && !q.refused with
  | none => .next s
  | some q =>
    let put (f : LinkReq → LinkReq) : State := { s with links := s.links.map fun x => if x.id == id then f x else x }
    let port := q.addr / 2 ^ 44 % 16
    if q.strand && q.inc != mgetD s.incs (dieOf q.core) 0 && (refused || linkDone q old) then
      .next (dropAnswer { s with links := s.links.filter fun x => x.id != id } 12 (dieOf q.core))
    else if refused then
      if q.strand then .next (hostRefused (put fun x => { x with refused := true }) port)
      else .next (hostRefused { s with links := s.links.filter fun x => x.id != id } port)
    else if linkDone q old then
      if q.strand then .next (put fun x => { x with result := some old })
      else .next (modEffect { s with links := s.links.filter fun x => x.id != id } id fun e =>
        { e with stage := match e.stage with | .done g o => .done (max g s.now) o | x => x })
    else .next (put fun x => { x with expect := some old })

/-- R332 step 1. -/
def execEvCompletionStatusWrite (p launch : Nat) (s : State) : Out := statusWrite (fun s b => performWrite s p b) p launch s

/-! ### Host pieces and reads (R389, R391, R408) -/

/-- R389: the next piece that the grant of a route allows is performed, as one event in its line's home order. -/
def execEvHostPiecePerformed (port route : Nat) (s : State) : Out :=
  if 2 ≤ port then .next s
  else match nextPiece (portAt s port) route with
    | none => .next s
    | some x =>
      let locs := x.bytes.map fun e => e.1
      if frameHeld s locs || (locs.any fun a => s.owned.contains (a / 64)) then .next s
      else
        let s := modPort s port fun q => { q with pieces := q.pieces.map fun y => if y == x then { y with performed := true } else y }
        .next (noteWatches (performWrite s 16 x.bytes))

/-- R391, R402, R408: a non-posted read through BAR2, once every earlier write of the port has been performed: the data, all
ones without the TEE bit of a locked interface, or Unsupported Request. -/
def execEvHostRead (h : HostAccess) (p : Nat) (addr : Word) (size : Nat) (s : State) : Out :=
  if !portQuiet s h || !vfAnswers s h p then .next s
  else
    let reply (s : State) (r : Option (List Byte)) : State := modPort s h.port fun q => { q with reply := r }
    if !teeOk s h p then .next (reply s (some (List.replicate size 0xFF)))
    else if hubWaits s p addr.toNat size then .next s
    else
      let s := walkLease s p [addr.toNat, addr.toNat + size - 1]
      match hostAddrs s p addr.toNat size .read with
      | none => .next (reply (hostRefused s h.port) none)
      | some as_ =>
        if as_.any (fun a => isleOf a == 14) then .next (reply (hostRefused s h.port) none)
        else .next (reply s (some (as_.map fun a => if isleOf a == 15 then functionByte s a else memByte s.mem a)))

end Sys2Proof.Machine
end

