-- ==== Sys2Proof/Machine/Arrivals.lean ====
section
/-! DEFINITION. What reaches a core: fills and their leases (spec/08 R229 to R232, R235, R239), landing loads and completed
operations (spec/01 R16, spec/06 R193, spec/09 R252), the ends of waits (spec/07 R210, spec/08 R234, spec/09 R267), and the
core clock (spec/06 R186, R187). -/

namespace Sys2Proof.Machine

open Sys2Proof

/-! ### Leases (R229) -/

/-- R229: the release ticks of effects on a line whose CLOSE has arrived. -/
def closedTicks (s : State) (line : Nat) : List Nat :=
  s.effects.filterMap fun e => if e.stage == .pending && (effectLines e).contains line then releaseTick s e else none

/-- R229: the end of the lease that a home grants at this tick (DESIGN CHOICE, log 7). -/
def leaseEnd (s : State) (line : Nat) : Nat :=
  let g := max 64 (min 4096 (Config.leaseChoice s.fresh))
  match closedTicks s line with
  | [] => s.now + g
  | t :: ts =>
    let m := ts.foldl min t
    if m < s.now + g then max m (s.now + 64) else s.now + g

/-- R229: the home notes the lease horizon of the line. -/
def grantLease (s : State) (line : Nat) : State :=
  if 14 ≤ isleOf (128 * line) then { s with fresh := s.fresh + 1 }
  else { s with fresh := s.fresh + 1, horizon := mset s.horizon line (max (horizonOf s line) (leaseEnd s line)) }

/-! ### L1 fills -/

/-- The bytes of a line as its home serves them (R231, R223). -/
def lineBytes (s : State) (line : Nat) : FMap Byte :=
  if isleOf (128 * line) = 15 then (List.range 128).map fun i => (128 * line + i, functionByte s (128 * line + i))
  else if atHost (128 * line) then (List.range 128).map fun i => (128 * line + i, homeByte s (128 * line + i))
  else s.mem.filter fun e => e.1 / 128 == line

/-- R246: the halves of a line that the device owns. -/
def deviceHalves (s : State) (line : Nat) : BitVec 2 :=
  BitVec.ofNat 2 ((if s.owned.contains (2 * line) then 0 else 1) + if s.owned.contains (2 * line + 1) then 0 else 2)

/-- The strand slot and operation of a core that first waits for a line. -/
def lineWaiter (s : State) (c line : Nat) : Option (Nat × MemOp) :=
  (residents s c).findSome? fun e => (e.2.ops.find? fun o => o.lines.contains line).map fun o => (e.1, o)

/-- R373: an event of a line, charged to the operation that first waits for it. -/
def bumpLine (s : State) (c line e n : Nat) : State :=
  match lineWaiter s c line with
  | some (l, o) => bump s c l o.region e n
  | none => s

/-- R402, R404: the partition for which a core reads: the one that holds its hearth, 16 for none. -/
def coreOwner (s : State) (c : Nat) : Nat := ((List.range 16).find? fun p => holdsHearth (partAt s p) (hearthOf c)).getD 16

/-- R216, R229, R231, R274, R404: a fill request reaches the home, unless a die's reset has overtaken it, which answers with the
released values and, for a fill of the L1, a lease. -/
def execEvFillRequest (c line : Nat) (s : State) : Out :=
  if s.stale.contains (c, line, false) then .next (dropOld { s with stale := s.stale.erase (c, line, false) } (dieOf c) (homeOf s (128 * line)))
  else if !((coreOf s c).fills.any fun f => f.line == line && f.answer.isNone) || claimHeld s [128 * line] || hostDropped s (coreOwner s c) (128 * line) then .next s
  else
    let a := (lineBytes s line, deviceHalves s line, leaseEnd s line)
    let stamp := s.nextId
    let leases := (coreOf s c).fills.any fun f => f.line == line && f.answer.isNone && !f.byp
    let answer (k : Core) (f : Fill) : Fill :=
      if f.line == line && f.answer.isNone then { f with answer := some (a.1, a.2.1, if f.byp then 0 else a.2.2), stamp := stamp, gen := k.gen } else f
    let s := noteReads s (coreOwner s c) [128 * line]
    let s := bumpLine { (if leases then grantLease s line else { s with fresh := s.fresh + 1 }) with nextId := stamp + 1 } c line 7 128
    .next (modCore s c fun k => { k with fills := k.fills.map (answer k) })

/-- R230, R232, R236: a byte that the answer of a fill gives an operation: an uncompleted store of the core that the operation does
not precede in its own stream, an earlier store of its strand, or the home's (DEDUCED, log 83). -/
def fillByte (s : State) (c : Nat) (t : Strand) (o : MemOp) (data : FMap Byte) (halves : BitVec 2) (a : Nat) : Option Byte :=
  match (coreStores s c (a / 128)).reverse.find? fun e => (e.1 < o.id || !t.effects.contains e.1) && (mget e.2.2 a).isSome with
  | some e => mget e.2.2 a
  | none => if !halves.getLsbD (a % 128 / 64) then none else some ((ownStore s c t o.id a).getD (memByte data a))

/-- The locations in a line that an operation awaits. -/
def opLocs (o : MemOp) (line : Nat) : List Nat := (awaitedLocs o).filter fun a => a / 128 == line

/-- R236: an operation whose bytes an earlier one of its stream, still under way, comes before. -/
def mustFollow (t : Strand) (o : MemOp) (locs : List Nat) : Bool :=
  t.ops.any fun x => x.id < o.id && x.scalar == o.scalar && comesAfter x locs

/-- An operation takes the bytes of a line. Those of its stream that it comes before take no older answer of a fill, whose
stamp is `stamp` (R236). -/
def takeBytes (t : Strand) (o : MemOp) (line stamp : Nat) (bytes : List (Nat × Byte)) : Strand :=
  let one : MemOp := { o with lines := [line] }
  let later (x : MemOp) : Bool := o.id < x.id && x.scalar == o.scalar && comesAfter one (x.dests.flatMap fun d => d.locs)
  { t with ops := t.ops.map fun x =>
      if x.id == o.id then { x with lines := x.lines.erase line, got := capture x.got bytes }
      else if later x then { x with asked := max x.asked (stamp - 1) } else x }

/-- R204, R230: an answered fill serves an operation that was made before it. The operation's region depends on the
regions whose stores it forwards. -/
def serveOp (s : State) (c line : Nat) (f : Fill) (data : FMap Byte) (halves : BitVec 2) (t : Strand) (id : Nat) : Strand :=
  match t.ops.find? fun o => o.id == id with
  | none => t
  | some o =>
    let locs := opLocs o line
    let got := locs.map fun a => (a, fillByte s c t o data halves a)
    if f.stamp ≤ o.asked || !o.lines.contains line || waitsStand s c o || mustFollow t o locs || got.any (fun e => e.2.isNone) then t
    else addDeps (takeBytes t o line f.stamp (got.filterMap fun e => e.2.map fun v => (e.1, v))) o.region (locs.flatMap (storeOwners s c))

/-- An answered fill serves the operations of a core (DEDUCED, log 64). -/
def serveOps (s : State) (c line : Nat) (f : Fill) (data : FMap Byte) (halves : BitVec 2) : State :=
  (residents s c).foldl (fun acc e =>
    modStrand acc c e.1 fun t => (e.2.ops.map fun o => o.id).foldl (serveOp s c line f data halves) t) s

/-- R236, R239: what the line of a chunk's fill gives the operations of a strand that await bytes of the chunk, oldest first.
One that must see earlier operations performed takes the bytes of its own block and goes on waiting. -/
def takeChunk (s : State) (c n : Nat) (line : FMap Byte) (t : Strand) : Strand :=
  (t.ops.map fun o => o.id).foldl (fun t id => match t.ops.find? fun o => o.id == id with
    | none => t
    | some o =>
      let mine := (opLocs o n).filter fun a => !waitsStand s c o || locBlock a == t.block
      if !o.lines.contains n then t
      else if waitsStand s c o then
        { t with ops := t.ops.map fun x => if x.id == id then { x with got := capture x.got (mine.map fun a => (a, memByte line a)) } else x }
      else takeBytes t o n 0 (mine.map fun a => (a, memByte line a))) t

/-- R239: the line of a chunk's fill serves every operation of a gang that awaits it. -/
def serveChunk (s : State) (n gang : Nat) (line : FMap Byte) : State :=
  { s with strands := s.strands.map fun e => if e.2.gang == gang then (e.1, takeChunk s (e.1 / 64) n line e.2) else e }

/-- R236: an operation's bytes in scratch are taken once no earlier operation stands before them and no fill of their chunk is
under way: as the array then holds them. -/
def serveScratch (s : State) (c l id line : Nat) : State :=
  match (strandAt s c l).bind fun t => (t.ops.find? fun o => o.id == id).map fun o => (t, o) with
  | none => s
  | some (t, o) =>
    let locs := opLocs o line
    let filling := (blockAt s (locBlock (128 * line))).any fun b => (chunkOf b (line % 8192)).filling.isSome
    if !isScratch (128 * line) || !o.lines.contains line || waitsStand s c o || mustFollow t o locs || filling then s
    else
      let bytes := locs.filterMap fun a => (serveByte s c t o.id a).map fun b => (a, b)
      modStrand s c l fun t => addDeps (takeBytes t o line 0 bytes) o.region (locs.flatMap (byteOwners s c t))

/-- R236: an operation takes what it can of the scratch bytes that it awaits. -/
def serveWindows (s : State) (c l id : Nat) : State :=
  match (strandAt s c l).bind fun t => t.ops.find? fun o => o.id == id with
  | none => s
  | some o => o.lines.foldl (fun s n => serveScratch s c l id n) s

/-- R226 to R232: a line as a fill leaves it, with the retention that the accesses it serves record; bytes of stores that are not
completed stay. -/
def filledLine (k : Core) (old : L1Line) (f : Fill) (data : FMap Byte) (halves : BitVec 2) (lease : Nat) : L1Line :=
  let mine := old.data.filter fun e => old.wmask.getLsbD (e.1 % 128)
  let given := data.filter fun e => !old.wmask.getLsbD (e.1 % 128)
  f.hints.foldl (fun x h => bumpRet k x h.toNat)
    { old with valid := true, lease := lease, gen := f.gen, ret := 0, rop := false, halfv := halves, data := bytesPut (bytesPut [] given) mine }

/-- R227, R246: what a fetch that allocates nothing leaves of a copy that the core holds: newer values from the home. A half that
the answer does not bring serves no more, so that no load mixes it with the newer one. -/
def refreshedLine (old : L1Line) (data : FMap Byte) (halves : BitVec 2) : L1Line :=
  let fresh (a : Nat) : Bool := !old.wmask.getLsbD (a % 128) && halves.getLsbD (a % 128 / 64)
  { old with halfv := old.halfv &&& halves, data := bytesPut (old.data.filter fun e => !fresh e.1) (data.filter fun e => fresh e.1) }

/-- R227, R228: a core takes a filled line; none when every line of the set is pinned. -/
def takeLine (s : State) (c : Nat) (f : Fill) (data : FMap Byte) (halves : BitVec 2) (lease : Nat) : Option Core :=
  let k := coreOf s c
  if 14 ≤ isleOf (128 * f.line) || s.poison.contains f.line then some k
  else match l1Find k f.line with
    | some x => some (if f.byp then { k with l1 := k.l1.map fun y => if y.line == f.line then refreshedLine x data halves else y }
        else l1Put k (filledLine k x f data halves lease))
    | none =>
      if f.byp then some k
      else match l1Room k f.line with
        | none => none
        | some k' =>
          let x := filledLine k (enterLine s c f.line) f data halves lease
          some (if f.hints.all (fun h => h == 1) then { k' with l1 := x :: k'.l1 } else l1Put k' x)

/-- Operations that an answer did not serve ask again. -/
def askAgain (s : State) (c line : Nat) (f : Fill) : State :=
  if (lineWaiter s c line).isNone then s else modCore s c fun k => f.hints.foldl (fun k h => startFill k line h.toNat f.byp) k

/-- R228, R230: the answered fill of a line that is oldest lands, serves what waits for it and enters the L1. One whose lease
has ended is asked for again (DEDUCED, log 63). -/
def landFill (s : State) (c line : Nat) (f : Fill) (data : FMap Byte) (halves : BitVec 2) (lease : Nat) : State :=
  if isleOf (128 * line) < 14 && !f.byp && lease ≤ s.now + 2 then
    modCore s c fun k => { k with fills := k.fills.map fun g => if g == f then { g with answer := none } else g }
  else match takeLine s c f data halves lease with
    | none => s
    | some k =>
      let s1 := if f.byp then s else bumpLine s c line 6 1
      let s2 := serveOps s1 c line f data halves
      let s3 := modCore s2 c fun q => { q with l1 := k.l1, fills := q.fills.erase f }
      retryCore (askAgain s3 c line f) c

/-- R216, R230, R425: a fill that has been answered lands; one that its die's reset has overtaken is dropped at its ingress and
counted. -/
def execEvL1FillLands (c line : Nat) (s : State) : Out :=
  if s.stale.contains (c, line, true) then .next (dropAnswer { s with stale := s.stale.erase (c, line, true) } (homeOf s (128 * line)) (dieOf c))
  else
  let fs := (coreOf s c).fills.filter fun f => f.line == line && f.answer.isSome
  match fs.foldl (fun m f => match m with
    | none => some f
    | some g => if f.stamp < g.stamp then some f else m) (none : Option Fill) with
  | none => .next s
  | some f => match f.answer with
    | some (data, halves, lease) => .next (landFill s c line f data halves lease)
    | none => .next s

/-! ### Window fills (R239) -/

/-- R239: a chunk takes its line: words that are dirty keep theirs (DEDUCED, log 66). -/
def fillChunk (b : Block) (ch : Nat) (bytes : List Byte) (lease : Nat) : Block :=
  let k := chunkOf b ch
  let clean := (List.range 128).filter fun i => !k.wdirty.getLsbD (i / 4)
  { b with scratch := memPuts b.scratch (clean.map fun i => (128 * ch + i, bytes.getD i 0)),
           chunks := mset b.chunks ch { k with wvalid := -1, lease := lease, filling := none } }

/-- R373: the bytes that a chunk's fill reads at a home count for the operation, or the instruction, of the gang that first waits for it (DEDUCED, log 98). -/
def bumpFill (s : State) (b : Block) (n : Nat) : State :=
  match s.strands.findSome? fun e => if e.2.gang == b.gang then (e.2.ops.find? fun o => o.lines.contains n).map fun o => (e.1, o.region) else none with
  | some (k, r) => bump s (k / 64) (k % 64) r 7 128
  | none => match s.strands.find? fun e => e.2.gang == b.gang && (e.2.swait == .fill || e.2.lwait == .fill) with
    | some (k, t) => bump s (k / 64) (k % 64) (if t.lwait == .fill then (t.st.current.map fun r => r.entry.region).getD (lastId t) else lastId t) 7 128
    | none => bumpBoth s b.part b.grid 7 128

/-- R239: the fill of a window's chunk is made at the home of the line that its request named; a chunk that is no window's any
more takes nothing. One that a die's reset has overtaken is dropped at its ingress and counted (R425). -/
def execEvWindowFillLands (bid ch : Nat) (s : State) : Out :=
  match s.staleWins.find? fun e => e.1 == bid && e.2.1 == ch with
  | some e => .next (dropAnswer { s with staleWins := s.staleWins.erase e } (homeOf s e.2.2.2) (dieOf e.2.2.1))
  | none =>
  match blockAt s bid with
  | none => .next s
  | some b => match (chunkOf b ch).filling with
    | none => .next s
    | some at_ =>
      let pa := redirect s at_
      if (windowAt b ch).isNone then
        .next (retryCore (modBlock s bid fun b => { b with chunks := mmod b.chunks ch fun k => { k with filling := none } }) b.core)
      else if deviceHalves s (pa / 128) != 3 || claimHeld s [pa] || hostDropped s b.part pa then .next s
      else
        let s := noteReads s b.part [pa]
        let bytes := (List.range 128).map fun i => if isleOf pa = 15 then functionByte s (pa + i) else homeByte s (pa + i)
        let s1 := bumpFill (grantLease s (pa / 128)) b (scratchLoc bid (128 * ch) / 128)
        let s2 := modBlock s1 bid fun b => fillChunk b ch bytes (leaseEnd s (pa / 128))
        .next (wakeCores (serveChunk s2 (scratchLoc bid (128 * ch) / 128) b.gang (placed (scratchLoc bid (128 * ch)) bytes)) 0 fun t =>
          t.gang == b.gang && (t.swait == .fill || t.lwait == .fill))

/-- R235: the background sweep of a core ends. -/
def execEvGenerationSweep (c : Nat) (s : State) : Out :=
  if (coreOf s c).sweeping then .next (wakeCore (modCore s c sweepCore) c 0) else .next s

/-! ### Landing loads and completions (R16, R252) -/

/-- The value that a load gives a destination, of a width in bits. -/
def destValue (d : Dest) (got : FMap Byte) (w : Nat) : Nat :=
  let v := leNat (d.locs.map fun a => memByte got a)
  if d.signed then wrapNat w (sgn (8 * d.locs.length) v) else v % 2 ^ w

/-- R257: one destination of a lane load. -/
def landDest (got : FMap Byte) (x : LaneSide) (d : Dest) : LaneSide :=
  if d.pair then
    let v := destValue d got 64
    lanePut (lanePut x d.reg d.lane (BitVec.ofNat 32 v)) (d.reg + 1) d.lane (BitVec.ofNat 32 (v / 2 ^ 32))
  else lanePut x d.reg d.lane (BitVec.ofNat 32 (destValue d got 32))

def landLane (o : MemOp) (x : LaneSide) : LaneSide := o.dests.foldl (landDest o.got) x

/-- A lane load lands: in the registers as they stand, and in the checkpoints of the heads taken since (R199). -/
def landOp (t : Strand) (o : MemOp) : Strand :=
  { t with ln := landLane o t.ln, vpend := t.vpend.filter (fun e => e.2 != o.id),
           ops := t.ops.map (fun x => if x.id == o.id then { x with landed := true } else x),
           regions := t.regions.map fun r => if o.region < r.id then { r with laneHead := r.laneHead.map (landLane o) } else r }

/-- R193, R203: a write of an exited strand or of a squashed region lands and is discarded; its rename units and a draining
block that awaits nothing more are free. -/
def dropOrphan (k : Core) (op : Nat) : Core :=
  { k with orphans := k.orphans.erase op, lateUnits := mdel k.lateUnits op,
           blocks := k.blocks.filterMap fun e => match e.2 with
             | .draining ops => if ops.erase op == [] then none else some (e.1, .draining (ops.erase op))
             | .granted l => some (e.1, .granted l) }

/-- R18, R193, R203, R361: the write of a lane load lands; register blocks that it frees may let a gang fit. -/
def execEvLaneWriteLands (c l op : Nat) (s0 : State) : Out :=
  let s := serveWindows s0 c l op
  match (strandAt s c l).bind fun t => (t.ops.find? fun o => o.id == op).map fun o => (t, o) with
  | some (t, o) =>
    if o.scalar || o.landed || !o.lines.isEmpty || o.dests.isEmpty then .next s
    else .next (wakeCore (putStrand s c l (landOp t o)) c 8)
  | none =>
    if (coreOf s c).orphans.contains op then
      let u := wakeCore (modCore s c fun k => dropOrphan k op) c 0
      .next (if freeRegs s c < freeRegs u c then
        ((List.range 16).filter fun p => holdsHearth (partAt s p) (hearthOf c)).foldl (reofferNew s) u else u)
    else .next s

/-- R252: a home has accepted an effect. -/
def accepted (s : State) (eff : Nat) : Bool :=
  match s.effects.find? fun e => e.id == eff with
  | none => true
  | some e => e.stage != .flight && e.stage != .ingress

/-- R252: everything that the operation awaits has come. -/
def opReady (s : State) (o : MemOp) : Bool :=
  o.lines.isEmpty && (o.landed || o.scalar || o.dests.isEmpty) && o.effects.all (accepted s)

/-- R253: a scalar load writes its register, in the heads taken since as well. -/
def landScalar (t : Strand) (o : MemOp) : Strand :=
  if !o.scalar then t
  else o.dests.foldl (fun t d => throughHeads t o.region fun x => sput x d.reg (BitVec.ofNat 64 (destValue d o.got 64))) t

/-- R187: the completion of an operation of a strand is reported when a load has landed or a completion flag cleared; any other
is an event that only a side which waits for it may need. -/
def wakeLanded (s : State) (c : Nat) (t : Strand) (o : MemOp) : State :=
  let fell (n : Option Nat) : Bool := n.any fun k => flagCount t k = 0
  if fell o.flag || fell o.flagB || (o.scalar && !o.dests.isEmpty) then wakeCore s c 8
  else if t.swait == .none && t.lwait == .none then retryCore s c else wakeCore s c 0

/-- R16, R114, R235, R252: an operation completes: its flags fall, a `.poll` load sets DEMOTE, and an acquire flips the
core's generation, when no sweep runs. -/
def execEvMemoryOperationCompletes (c l op : Nat) (s0 : State) : Out :=
  let s := serveWindows s0 c l op
  match (strandAt s c l).bind fun t => (t.ops.find? fun o => o.id == op).map fun o => (t, o) with
  | none => .next s
  | some (t, o) =>
    if !opReady s o then .next s
    else
      let t1 := landScalar t o
      let t2 := if o.poll then throughHeads t1 o.region fun x => { x with demote := true } else t1
      let t3 := { t2 with ops := t2.ops.filter (fun x => x.id != op), spend := t2.spend.filter fun e => e.2 != op }
      let s1 := wakeLanded (putStrand s c l t3) c t3 o
      match o.acquire with
      | none => .next s1
      | some k => match acquireAt s1 c t.block k with
        | some s2 => .next s2
        | none => .next s

/-! ### Ends of waits -/

/-- R234, R185: the wait of a release ends. -/
def execEvReleaseWaitEnds (c l : Nat) (s : State) : Out :=
  match strandAt s c l with
  | none => .next s
  | some t =>
    if !releaseDone s c l t then .next s
    else if t.sphase == .releasing then
      .next (wakeCore (modStrand s c l fun t => { t with sphase := .released, swait := .none }) c 0x10)
    else if t.lphase == .releasing then .next (wakeCore (modStrand s c l fun t => { t with lwait := .none }) c 0x10)
    else .next s

/-- R210: the scalar instruction that performs like an atomic. -/
def scalarAtomic (i : Instr) (s : State) : Option Out :=
  match i with
  | .iqloop p v m => some (execIqloop p v m s)
  | .glaunch d a => some (execGlaunch d a s)
  | .sfree a => some (execSfree a s)
  | .cut d g => some (execCut d g s)
  | .mrel => some (execMrel s)
  | .mrun a => some (execMrun a s)
  | .claim a b => some (execClaim a b s)
  | .xcoll d a => some (execXcoll d a s)
  | _ => none

/-- R210: a lane atomic. -/
def laneAtomicOf (i : Instr) (s : State) : Option Out :=
  match i with
  | .vatom f => some (execVatom f s)
  | .vatomCas f => some (execVatomCas f s)
  | _ => none

/-- What an agent's step leaves when it took the instruction `r` of its stream. -/
def performed (a : Agent) (memory : Bool) (r : Option Out) (s : State) : State :=
  match r with
  | some (.next t) => { afterIssue a memory { t with agent := .none } with agent := .none }
  | _ => s

/-- R210: once every region has cleared, a waiting atomic, or an instruction that performs like one, performs. -/
def execEvAtomicPerform (c l : Nat) (s : State) : Out :=
  match strandAt s c l with
  | none => .next s
  | some t =>
    if t.lphase != .idle then
      match nextLane s c l with
      | some (.instr i) => .next (performed (.lane c l) true (laneAtomicOf i { s with agent := .lane c l }) s)
      | _ => .next s
    else if t.sphase == .closing then
      match nextScalar s c l with
      | some (.instr i) => .next (performed (.scalar c l) false (scalarAtomic i { s with agent := .scalar c l }) s)
      | _ => .next s
    else .next s

/-- R267: a strand waits on a counter. -/
def counterWaits (s : State) (c l : Nat) : Bool :=
  (strandAt s c l).any fun t => t.swait == .counter && t.sphase == .headed && !t.wake

/-- The watches of a strand, wherever they lie. -/
def watchesOf (s : State) (c l : Nat) : List Watch :=
  (s.watches ++ s.cores.flatMap fun e => e.2.watches).filter fun w => w.core == c && w.slot == l

/-- The counter wait of a strand ends, or it reads the counter again. -/
def wakeCounter (s : State) (c l : Nat) : State := wakeCore (modStrand (dropWatches s c l) c l fun t => { t with wake := true }) c 4

/-- R267: the counter of a `cwait` of scope `.st` or `.cor` meets its target as the core sees it, unreleased adds of the
core's strands included (DEDUCED, log 38). -/
def coreMeets (s : State) (c l : Nat) : Bool :=
  match strandAt s c l with
  | none => false
  | some t => match fetchScalar s c t t.sc.spc 4 with
    | .error _ => false
    | .ok bs => match decodeScalar (BitVec.ofNat 32 (leNat bs)) with
      | .ok (.cwait a b scope) => match counterAt s c t (sget t.sc a.toNat) .read with
        | .error _ => false
        | .ok w => decide (scope.toNat < 2) && decide ((sget t.sc b.toNat).toNat ≤ (counterValue s c scope w t.block).toNat)
      | _ => false

/-- R267: the wake of a watch arrives, or an add of the core itself brings the value to the target. -/
def execEvCounterWake (c l : Nat) (s : State) : Out :=
  if counterWaits s c l && ((watchesOf s c l).any (fun w => w.woken) || coreMeets s c l) then .next (wakeCounter s c l) else .next s

/-- R267: a waiter without a watch reads the counter again every 1,024 ticks (DEDUCED, log 101). -/
def execEvCounterRepoll (c l : Nat) (s : State) : Out :=
  if counterWaits s c l && (watchesOf s c l).isEmpty && s.now % 1024 = 0 then .next (wakeCounter s c l) else .next s

/-! ### The core clock (R186, R187) -/

/-- R185: a side of a strand is ready (DEDUCED, log 87). -/
def sideReady (s : State) (c l : Nat) (t : Strand) : Bool :=
  ((nextScalar s c l).isSome && (t.swait == .none || (t.swait == .counter && t.wake)))
    || ((nextLane s c l).isSome && t.lwait == .none)

/-- R186: something on the core can issue. -/
def coreReady (s : State) (c : Nat) : Bool :=
  (residents s c).any (fun e => sideReady s c e.1 e.2) || (nextMatrix s c).isSome

/-- R186: a core with nothing to issue, and no instruction in an operand collector, stops its clock. -/
def execEvCoreClockStop (c : Nat) (s : State) : Out :=
  if 768 ≤ c || (coreOf s c).stopped || hearthStopped s (hearthOf c) || coreReady s c || (residents s c).any (fun e => e.2.collects) then .next s
  else .next (modCore s c fun k => { k with stopped := true, wakePend := 0, wakeBits := 0, woken := none, settling := false })

/-- R186, R187: a wake event that has reached a stopped core restarts its clock. -/
def execEvCoreWake (c : Nat) (s : State) : Out :=
  let k := coreOf s c
  if !k.stopped || hearthStopped s (hearthOf c) || k.woken.isNone then .next s
  else .next (modCore s c fun k => { k with stopped := false, wakeBits := k.wakePend, wakePend := 0, woken := none, settling := true,
                                            wakes := k.wakes + 1 })

end Sys2Proof.Machine
end

