-- ==== Sys2Proof/Machine/LaneConvert.lean ====
section
/-! DEFINITION. Lane conversions (spec/05 R161 to R165, spec/03 R83 to R96). -/

namespace Sys2Proof.Machine

open Sys2Proof

/-- R162: elements of a slot format in one register. -/
def slotCount (r : BitVec 128) : Nat := 32 / fmtWidth (slotFmt r)

/-- R161: the scale operand is used only when the slot has scales. -/
def scaleField (r : BitVec 128) (k : Nat) : List Nat := if slotKind r = 0 then [] else [k]

/-- R83, R161: the block scale of a lane. -/
def laneScale (x : LaneCtx) (f : LaneFields) (r : BitVec 128) (k l : Nat) : Num :=
  if slotKind r = 0 then Num.ofInt 1 else scaleValue (slotKind r) (rawOperand x f k (tyOf f) l)

/-- R161: the value of a TYPE-side source. -/
def typeValue (ty v : Nat) : Num := if ty = 8 then fp32.decode v else Num.ofInt (asInt ty v 0)

/-- R95, R96: a value converted to the TYPE side (DEDUCED, log 106). -/
def toType (ty : Nat) (r : BitVec 128) (v : Num) : Nat × Bool :=
  if ty = 8 then fp32.encode (slotRz r) (slotSat r) v else (encodeInt (ty == 0) 32 (slotRz r) v, false)

/-- R162: element j in FUNC[3:1]. -/
def cvtElem (f : LaneFields) : Nat := f.func.toNat / 2 % 8

/-- R162: decodes element j. Saturation is in FP32, the destination's format. -/
def execVcvtDec (f : LaneFields) (s : State) : Out :=
  laneRunBy (fun r => { srcs := 0 :: scaleField r 1, legal := cvtElem f < slotCount r }) f s fun s x =>
    let r := laneSlot s x.t f
    laneResultIn 0 s x f false 0 fun l =>
      toType (tyOf f) r (scaled (decodeElem r (rawOperand x f 0 (tyOf f) l) (cvtElem f)) (laneScale x f r 1 l))

/-- Replaces bits [k × w + w − 1 : k × w] of a word. -/
def replaceAt (old w k v : Nat) : Nat := old - old / 2 ^ (w * k) % 2 ^ w * 2 ^ (w * k) + v % 2 ^ w * 2 ^ (w * k)

/-- The destination register of a lane before the instruction. -/
def oldDest (x : LaneCtx) (f : LaneFields) (l : Nat) : Nat := laneValue x.t (regIn x.t f f.vd.toNat l) l false

/-- R162: encodes element j; the other elements stay. An unsigned source takes no modifier (R35). -/
def execVcvtEnc (f : LaneFields) (s : State) : Out :=
  laneRunBy (fun r => { srcs := 0 :: scaleField r 1, mods := if f.type = 1 then [] else [0], keeps := true,
                        legal := slotFmt r != 6 && cvtElem f < slotCount r }) f s fun s x =>
    let r := laneSlot s x.t f
    laneResult s x f false 0 fun l =>
      let e := encodeElem r (typeValue (tyOf f) (operand x f 0 (tyOf f) l)) (laneScale x f r 1 l)
      (replaceAt (oldDest x f l) (fmtWidth (slotFmt r)) (cvtElem f) e.1, e.2)

/-- R163: the pair positions that a slot's format has. -/
def pairOk (f : LaneFields) (r : BitVec 128) : Bool := slotFmt r != 0 && 2 * f.func.toNat < slotCount r

/-- R163: encodes a pair. Unsigned sources take no modifier (R35). -/
def execVpk (f : LaneFields) (s : State) : Out :=
  laneRunBy (fun r => { srcs := 0 :: 1 :: scaleField r 2, mods := if f.type = 1 then [] else [0, 1], keeps := true, legal := pairOk f r }) f s fun s x =>
    let r := laneSlot s x.t f
    let q := f.func.toNat
    let w := fmtWidth (slotFmt r)
    laneResult s x f false 0 fun l =>
      let sc := laneScale x f r 2 l
      let a := typeValue (tyOf f) (operand x f 0 (tyOf f) l)
      let b := typeValue (tyOf f) (operand x f 1 (tyOf f) l)
      if slotFmt r = 6 then
        let e := encodeQ r a b sc sc
        (replaceAt (oldDest x f l) 8 q e.1, e.2)
      else
        let e := encodeElem r a sc
        let o := encodeElem r b sc
        (replaceAt (replaceAt (oldDest x f l) w (2 * q) e.1) w (2 * q + 1) o.1, e.2 || o.2)

/-- R164: decodes a pair into two registers. -/
def execVupk (f : LaneFields) (s : State) : Out :=
  laneRunBy (fun r => { srcs := 0 :: scaleField r 1, moreD := 1, legal := pairOk f r }) f s fun s x =>
    let r := laneSlot s x.t f
    let q := f.func.toNat
    laneResultIn 0 s x f true 0 fun l =>
      let v := rawOperand x f 0 (tyOf f) l
      let sc := laneScale x f r 1 l
      let e := toType (tyOf f) r (scaled (decodeElem r v (2 * q)) sc)
      let o := toType (tyOf f) r (scaled (decodeElem r v (2 * q + 1)) sc)
      (e.1 + o.1 * 2 ^ 32, e.2 || o.2)

/-- R165: the E8 scale for a largest magnitude n / d. -/
def scaleE8 (m : Num) (a : Num) : Nat × Bool :=
  match (List.range 255).find? fun e => !Num.lt (Num.scale m ((e : Nat) - 127)) a with
  | some e => (e, false)
  | none => (254, true)

/-- R165: the BF16 scale for the quotient of the largest magnitude and M. -/
def scaleBf16 (q : Num) : Nat × Bool :=
  match q with
  | .fin _ n d =>
    let p := bf16.round true n d
    let p := if p ≤ bf16.top && Num.lt (bf16.mag p) q then p + 1 else p
    if bf16.top < p then (bf16.top, true) else (p, false)
  | _ => (bf16.top, true)

/-- R165: the scale of a value. -/
def scaleFor (r : BitVec 128) (v : Num) : Nat × Bool :=
  let e8 := slotKind r == 1
  match v with
  | .fin _ n d =>
    if n = 0 then (if e8 then 0 else 0x3F80, false)
    else if e8 then scaleE8 (slotMax r false) (.fin false n d)
    else scaleBf16 (Num.div (.fin false n d) (slotMax r false))
  | _ => (if e8 then 0xFF else 0x7FC0, false)

/-- R165. -/
def execVscl (f : LaneFields) (s : State) : Out :=
  laneRunBy (fun r => { srcs := [0], mods := [0], legal := slotKind r != 0 }) f s fun s x =>
    let r := laneSlot s x.t f
    laneResult s x f false 0 fun l => scaleFor r (fp32.decode (operand x f 0 8 l))

end Sys2Proof.Machine
end

