-- ==== Sys2Proof/Machine/LanePred.lean ====
section
/-! DEFINITION. Lane compares and predicate instructions (spec/05 R155 to R158). -/

namespace Sys2Proof.Machine

open Sys2Proof

/-- R155: FUNC[5:4] combines the outcome with the predicate. -/
def combinePred (f : LaneFields) (old : Word) (l : Nat) (b : Bool) : Bool :=
  match f.func.toNat / 16 with
  | 0 => b
  | 1 => old.getLsbD l && b
  | _ => old.getLsbD l || b

/-- R155: the integer conditions. -/
def intCond (c : Nat) (a b : Int) : Bool :=
  match c with
  | 0 => a == b | 1 => a != b | 2 => a < b | 3 => b ≤ a | 4 => a ≤ b | _ => b < a

/-- R156: the float conditions. -/
def floatCond (c : Nat) (a b : Num) : Bool :=
  let n := a.isNan || b.isNan
  match c with
  | 0 => Num.eq a b
  | 1 => n || !Num.eq a b
  | 2 => !n && Num.lt a b
  | 3 => !n && !Num.lt a b
  | 4 => !n && !Num.lt b a
  | 5 => !n && Num.lt b a
  | 6 => !n
  | _ => n

/-- R155: an integer compare. -/
def execVicmp (f : LaneFields) (s : State) : Out :=
  let ty := tyOf f
  laneRun { srcs := [0, 1], dest := .pred, mods := if typeSigned ty then [0, 1] else [], wide := pairFields f [0, 1] } f s
    fun s x =>
      let d := f.vd.toNat
      predResult s x d fun l => combinePred f (predMask x.t.ln d) l
        (intCond (f.func.toNat % 16) (asInt ty (operand x f 0 ty l) 0) (asInt ty (operand x f 1 ty l) 0))

/-- R156: a float compare. -/
def execVfcmp (f : LaneFields) (s : State) : Out :=
  laneRun { srcs := [0, 1], dest := .pred, mods := [0, 1] } f s fun s x =>
    let d := f.vd.toNat
    predResult s x d fun l => combinePred f (predMask x.t.ln d) l
      (floatCond (f.func.toNat % 16) (fp32.decode (operand x f 0 8 l)) (fp32.decode (operand x f 1 8 l)))

/-- R157: a predicate operation on pA and pB. -/
def predOp (f : LaneFields) (s : State) (g : Bool → Bool → Bool) : Out :=
  laneRun { preds := [0, 1], dest := .pred } f s fun s x =>
    predResult s x f.vd.toNat fun l =>
      g ((predMask x.t.ln f.va.toNat).getLsbD l) ((predMask x.t.ln f.vb.toNat).getLsbD l)

def execPand (f : LaneFields) (s : State) : Out := predOp f s fun a b => a && b
def execPor (f : LaneFields) (s : State) : Out := predOp f s fun a b => a || b
def execPxor (f : LaneFields) (s : State) : Out := predOp f s fun a b => a ^^ b

/-- R157: VB is unused. -/
def execPnot (f : LaneFields) (s : State) : Out :=
  laneRun { preds := [0], dest := .pred } f s fun s x =>
    predResult s x f.vd.toNat fun l => !(predMask x.t.ln f.va.toNat).getLsbD l

/-- R158: pD := pA. -/
def execPmov (f : LaneFields) (s : State) : Out :=
  laneRun { preds := [0], dest := .pred } f s fun s x =>
    predResult s x f.vd.toNat fun l => (predMask x.t.ln f.va.toNat).getLsbD l

/-- R158: pD := opa[0]. -/
def execPmovFromLane (f : LaneFields) (s : State) : Out :=
  laneRun { srcs := [0], dest := .pred } f s fun s x =>
    predResult s x f.vd.toNat fun l => (operand x f 0 0 l).testBit 0

/-- R158: vD := pA, zero-extended. -/
def execPmovToLane (f : LaneFields) (s : State) : Out :=
  laneRun { preds := [0] } f s fun s x =>
    laneResult s x f false 0 fun l => (if (predMask x.t.ln f.va.toNat).getLsbD l then 1 else 0, false)

end Sys2Proof.Machine
end

