-- ==== Sys2Proof/Machine/Links.lean ====
section
/-! DEFINITION. Straits (spec/19 R407, spec/21 R418, R419) and the collective engine (spec/09 R275, R276, spec/16 R329,
spec/21 R422). -/

namespace Sys2Proof.Machine

open Sys2Proof

/-! ### Straits -/

def modStrait (s : State) (n : Nat) (f : Strait → Strait) : State := { s with straits := mset s.straits n (f (straitAt s n)) }

/-- R419: a strait's arbitration weight and send window, in flits, of which half width leaves half (DESIGN CHOICE, log 143). -/
def straitShare (x : Strait) (full : Nat) : Nat := if x.width = 4 then full / 2 else full
def straitWeight (x : Strait) : Nat := straitShare x Config.straitWeight
def straitWindow (x : Strait) : Nat := straitShare x Config.straitWindow

/-- R419: a lane of a strait that is up fails, with `left` of its lanes working: it retrains, or goes down, and its traffic moves to the
other route. -/
def execEvStraitLaneFailure (n left : Nat) (s : State) : Out :=
  let x := straitAt s n
  if 58 ≤ n || !x.up || x.lanes ≤ left then .next s
  else if left = 0 then
    .next (raiseError (rerouted s (modStrait s n fun y => { y with up := false, width := 0, lanes := 0, retraining := none })) 0x09 3 (errSource 6 n) none n)
  else .next (modStrait s n fun y => { y with lanes := left, retraining := some s.now })

/-- R419, R407, R418: retraining ends at the width that its lanes allow, with the cost of that width, and the far end is known. A
strait that has fallen to half width is reported (DEDUCED, log 69). -/
def execEvStraitRetrainDone (n : Nat) (s : State) : Out :=
  let x := straitAt s n
  if x.retraining.isNone then .next s
  else
    let full := x.lanes == 8
    let s := rerouted s (modStrait s n fun y =>
      { y with up := true, width := if full then 8 else 4, peer := Config.straitPeer n, cost := if full then 2 else 4, retraining := none })
    .next (if full then s else raiseError s 0x08 4 (errSource 6 n) none n)

/-- R419: the semaphore owner commands a retrain to full width. -/
def execEvStraitRetrain (h : HostAccess) (n : Nat) (s : State) : Out :=
  .next (if n < 58 then ownerOnly s h fun s => modStrait s n fun y => { y with lanes := 8, retraining := some s.now } else s)

/-- R422, R407: a collective packet of an older attempt is dropped at the ingress of an external strait and counted. -/
def execEvCollectivePacketArrives (n group : Nat) (attempt : W32) (s : State) : Out :=
  if 18 ≤ n || (groupAt s group).attempt.toNat ≤ attempt.toNat then .next s
  else .next (mergeError (modStrait s n fun y => { y with stale := y.stale + 1 }) 0x0A (errSource 6 n) 1)

/-! ### Collectives (R276) -/

/-- R275: the bytes of an element. A barrier moves none. -/
def collSize (d : CollDesc) : Nat := if d.op = 6 then 0 else if d.dtype = 1 || d.dtype = 2 then 2 else 4

/-- R275: the elements of the destination of a rank; a barrier is one step. -/
def collTotal (d : CollDesc) (g : Group) : Nat :=
  match d.op.toNat with
  | 3 => g.ranks * d.count
  | 6 => 1
  | _ => d.count

/-- R275: the float format of a data type. -/
def collFloat (d : CollDesc) : Option FloatFmt :=
  match d.dtype.toNat with
  | 0 => some fp32
  | 1 => some bf16
  | 2 => some f16
  | _ => none

/-- R275, R276: one step of a reduction, rounded in the data type. -/
def collStep (d : CollDesc) (a b : Nat) : Nat :=
  let signed := d.dtype == 3
  match collFloat d, d.op.toNat with
  | some f, 1 => f.result false (minMax false (f.decode a) (f.decode b))
  | some f, 2 => f.result false (minMax true (f.decode a) (f.decode b))
  | some f, _ => f.result false (Num.add (f.decode a) (f.decode b))
  | none, 1 => if signed then (if sgn 32 a ≤ sgn 32 b then a else b) else min a b
  | none, 2 => if signed then (if sgn 32 a ≤ sgn 32 b then b else a) else max a b
  | none, _ => (a + b) % 2 ^ 32

/-- R276: a reduction in ascending rank order. -/
def collFold (d : CollDesc) : List Nat → Nat
  | [] => 0
  | v :: vs => vs.foldl (collStep d) v

/-- R275: which element of its own source a rank gives for element o of a destination: an all-gather takes each rank's in
turn, a reduce-scatter the part of the receiving rank. -/
def collSource (d : CollDesc) (g : Group) (o : Nat) : Nat :=
  match d.op.toNat with
  | 3 => o % d.count
  | 4 => g.rank * d.count + o
  | _ => o

/-- The ranks whose elements make element o of a destination. -/
def collRanks (d : CollDesc) (g : Group) (o : Nat) : List Nat :=
  match d.op.toNat with
  | 3 => [o / d.count]
  | 5 => [d.root]
  | 6 => []
  | _ => List.range g.ranks

/-- The value that a rank gives for element o, which is element j of the chunk: this rank's from released memory, another
rank's from what its packets have brought. -/
def collValue (s : State) (d : CollDesc) (g : Group) (ranks : List (List Byte)) (o j r : Nat) : Option Nat :=
  let n := collSize d
  if r = g.rank then
    (hostAddrs s d.part (d.src.toNat + n * collSource d g o) n .read).map fun as_ => leNat (as_.map (homeByte s))
  else some (leNat (((ranks.getD r []).drop (n * j)).take n))

/-- The located bytes of element o; none when an address of it fails. -/
def collElement (s : State) (d : CollDesc) (g : Group) (ranks : List (List Byte)) (o j : Nat) : Option (FMap Byte) :=
  let n := collSize d
  let vs := (collRanks d g o).map (collValue s d g ranks o j)
  if vs.any (fun v => v.isNone) then none
  else (hostAddrs s d.part (d.dst.toNat + n * o) n .write).map fun as_ => as_.zip (leBytes n (collFold d (vs.filterMap id)))

/-- The located bytes of a chunk (DEDUCED, log 70). -/
def collChunk (s : State) (d : CollDesc) (g : Group) (ranks : List (List Byte)) (n : Nat) : Option (FMap Byte) :=
  (List.range n).foldl (fun acc j => match acc, collElement s d g ranks (d.doneN + j) j with
    | some l, some b => some (l ++ b)
    | _, _ => none) (some [])

/-- The elements of a chunk that every rank's packets have brought. -/
def chunkLength (d : CollDesc) (ranks : List (List Byte)) : Nat := if collSize d = 0 then 1 else (ranks.headD []).length / collSize d

/-- The packets of every rank of the group have come, all of one length, within what is left. -/
def chunkWhole (d : CollDesc) (g : Group) (ranks : List (List Byte)) : Bool :=
  let n := chunkLength d ranks
  ranks.length == g.ranks && g.rank < g.ranks && 1 ≤ n && d.doneN + n ≤ collTotal d g && ranks.all fun l => l.length == n * collSize d

def putChannel (s : State) (k : Nat) (c : Channel) : State := { s with channels := mset s.channels k c }

/-- The virtual addresses of the elements that a chunk of n elements reads and writes here. -/
def chunkPlaces (d : CollDesc) (g : Group) (n : Nat) : List Nat :=
  (List.range n).flatMap fun j =>
    let o := d.doneN + j
    (d.dst.toNat + collSize d * o) :: (if (collRanks d g o).contains g.rank then [d.src.toNat + collSize d * collSource d g o] else [])

/-- R246, R395: a half that a CXL host owns, of an element or of a table of its walk, is recalled first. -/
def chunkWaits (s : State) (d : CollDesc) (g : Group) (n : Nat) : Bool :=
  (chunkPlaces d g n).any fun a => hubWaits s d.part a (collSize d)

/-- The locations of this rank's own elements of a chunk. -/
def chunkReads (s : State) (d : CollDesc) (g : Group) (n : Nat) : List Nat :=
  ((List.range n).filter fun j => (collRanks d g (d.doneN + j)).contains g.rank).flatMap fun j =>
    (hostAddrs s d.part (d.src.toNat + collSize d * collSource d g (d.doneN + j)) (collSize d) .read).getD []

/-- R276, R404: the engine reduces a chunk of its descriptor and writes it at the homes. An address that fails stalls it. -/
def execEvCollectiveChunk (k : Nat) (ranks : List (List Byte)) (s : State) : Out :=
  let ch := mgetD s.channels k Channel.reset
  match ch.descs with
  | [] => .next s
  | d :: rest =>
    let g := groupAt s d.group
    let reads := chunkReads s d g (chunkLength d ranks)
    if d.aborted || !chunkWhole d g ranks || chunkWaits s d g (chunkLength d ranks) || reads.any (hostDropped s d.part) then .next s
    else match collChunk s d g ranks (chunkLength d ranks) with
      | none => .next s
      | some bs =>
        let locs := bs.map fun e => e.1
        if frameHeld s locs then .next s
        else
          let gw := (linesOf locs).foldl (fun m n => max m (horizonOf s n)) (max d.gwct s.now)
          let d' := { d with doneN := d.doneN + chunkLength d ranks, gwct := gw }
          let s := noteReads s d.part reads
          let s := walkLease s d.part (chunkPlaces d g (chunkLength d ranks))
          let s := if ch.stalled then stallEnds s d.part else s
          let s := putChannel s k { ch with descs := d' :: rest, moved := s.now, stalled := false }
          let s := noteWatches (performWrite { s with fresh := s.fresh + 1 } d.part (msets [] bs))
          let s := modAccount s d.part d.acct fun a => { a with gross := addWord a.gross 10 bs.length, net := addWord a.net 10 bs.length }
          .next (chargeBytes s d.part d.acct bs.length)

/-- The channel goes on to its next descriptor. -/
def nextDesc (s : State) (k : Nat) : State :=
  let ch := mgetD s.channels k Channel.reset
  let s := match ch.descs, ch.stalled with
    | d :: _, true => stallEnds s d.part
    | _, _ => s
  channelEvents (putChannel s k { descs := ch.descs.drop 1, moved := s.now, stalled := false }) k

/-- R276, R329: the completion add of a descriptor, and the triggers that it fires. -/
def collAdd (s : State) (d : CollDesc) : State :=
  match (hubAddr s d.part d.ctr).filter fun pa => isleOf pa < 14 with
  | none => s
  | some pa =>
    let v := satAdd (BitVec.ofNat 64 (memNat s.mem pa 8)) d.amt
    fireTriggers (noteWatches { s with mem := memWrite s.mem pa 8 v.toNat }) d.part pa v

/-- R276, R401, R422: after the GWCT of its last write the engine adds AMT to CTR; a descriptor of an older attempt ends without. -/
def execEvCollectiveCompletionAdd (k : Nat) (s : State) : Out :=
  match (mgetD s.channels k Channel.reset).descs with
  | [] => .next s
  | d :: _ =>
    if d.aborted then .next (nextDesc s k)
    else if d.doneN < collTotal d (groupAt s d.group) || s.now ≤ d.gwct then .next s
    else if d.ctr = 0 then .next (nextDesc s k)
    else if hubWaits s d.part d.ctr.toNat 8 || triggersWait s d.part || (hubAddr s d.part d.ctr).any (fun pa => frameHeld s [pa]) then .next s
    else .next (nextDesc (collAdd (walkLease s d.part [d.ctr.toNat]) d) k)

end Sys2Proof.Machine
end

