-- ==== Sys2Proof/Machine/Trusted.lean ====
section
/-! DEFINITION. Trusted interfaces (spec/19 R402 to R405), and firmware (spec/22 R435 to R437). -/

namespace Sys2Proof.Machine

open Sys2Proof

/-! ### Firmware -/

/-- R403, R436: an ACT that was held takes effect once no interface is locked or runs. -/
def releaseAct (s : State) : State :=
  if s.fw.heldAct && !anyLocked s then { s with fw := { s.fw with heldAct := false, armed := true } } else s

/-- The bytes of a range of physical memory as released. -/
def physBytes (s : State) (pa n : Nat) : List Byte := (List.range n).map fun i => memByte s.mem (pa + i)

/-- R436: why an image is refused: 1 its signature, 2 its version, 3 it cannot be read; 0 for none. The lowest that applies
decides (DEDUCED, log 76). An image past its isle's size is read as memory (DESIGN CHOICE, log 113). -/
def imageReason (s : State) : Nat :=
  let a := s.fw.fwaddr.toNat
  let n := s.fw.fwlen.toNat
  if a % 65536 ≠ 0 || 14 * 2 ^ 48 < a + n || n < 2820 || (List.range (n / 128 + 1)).any (fun i => s.poison.contains (a / 128 + i)) then 3
  else if !Config.xmssVerify 0 (physBytes s a (n - 2820)) (physBytes s (a + (n - 2820)) 2820) then 1
  else if (Config.imageVersion (physBytes s a (n - 2820))).toNat < s.fw.minver.toNat then 2 else 0

/-- R246, R395: a half of the image is owned by a CXL host: its reading waits for the recall. -/
def imageOwned (s : State) : Bool :=
  let a := s.fw.fwaddr.toNat
  s.owned.any fun k => a / 64 ≤ k && 64 * k < a + s.fw.fwlen.toNat

/-- R436: verification ends: the image is staged or refused (DESIGN CHOICE, log 8). -/
def execEvFirmwareVerifyDone (s : State) : Out :=
  if s.fw.state ≠ 1 || imageOwned s then .next s
  else match imageReason s with
    | 0 =>
      let image := physBytes s s.fw.fwaddr.toNat (s.fw.fwlen.toNat - 2820)
      .next { s with fw := { s.fw with state := 2, staged := Config.imageVersion image, stagedMeasure := Config.imageMeasure image } }
    | r => .next { s with fw := { s.fw with state := 3, reason := BitVec.ofNat 8 r } }

/-! ### Locking and starting (R402, R403) -/

def modTdisp (s : State) (p : Nat) (f : Tdisp → Tdisp) : State := modPart s p fun x => { x with tdisp := f x.tdisp }

/-- The 32 bytes of a nonce. -/
def nonceBytes (n : BitVec 256) : List Byte := leBytes 32 n.toNat

/-- R402: an answer on the port that asked. -/
def answer (s : State) (h : HostAccess) (r : Option (List Byte)) : State := modPort s h.port fun q => { q with reply := r }

/-- R436: a lock that finds ARMED set reports the armed version beside the running one in Zhevwell's log. -/
def noteArmed (s : State) : State :=
  if s.fw.armed then { s with fw := { s.fw with log := s.fw.log ++ [(s.now, s.fw.fwver, s.fw.staged)] } } else s

/-- R402, R403: LOCK_INTERFACE takes a lock through a port and answers a start nonce. -/
def execEvLockInterfaceRequest (p : Nat) (h : HostAccess) (s : State) : Out :=
  if !portQuiet s h || !vfAnswers s h p || (partAt s p).tdisp.state != .unlocked then .next s
  else
    let n := Config.nonce s.fresh
    let s := modTdisp { s with fresh := s.fresh + 1 } p fun d =>
      { d with state := .locked, port := h.port, nonce := n, tick := s.now, epoch := s.epoch }
    .next (noteArmed (answer s h (some (nonceBytes n))))

/-- R402: START_INTERFACE with the right nonce; a wrong one is refused. -/
def execEvStartInterfaceRequest (p : Nat) (h : HostAccess) (nonce : BitVec 256) (s : State) : Out :=
  let d := (partAt s p).tdisp
  if portQuiet s h && vfAnswers s h p && d.state == .locked && d.nonce == nonce then .next (modTdisp s p fun d => { d with state := .run })
  else .next s

/-- R403: the IDE stream of an interface is lost. -/
def execEvIdeStreamLoss (p : Nat) (s : State) : Out := .next (releaseAct (toError s p))

/-! ### MSI-X messages (R392) -/

/-- R392: no write that a partition had made to host memory before an identifier was taken is left to be handed over. -/
def writesBefore (s : State) (p id : Nat) : Bool :=
  !(s.effects.any fun e => e.part == p && e.id < id && (effectLocs e).any (fun a => isleOf a == 14) && match e.stage with
    | .done _ _ => false
    | _ => true)

/-- The port's oldest message that may go. -/
def readyMessage (s : State) (port : Nat) : Option (Nat × Nat) := (portAt s port).messages.find? fun m => writesBefore s m.1 m.2

/-- R392: a message is sent after every earlier write of its function has been handed over, with the TEE bit of its interface. -/
def sendMessage (s : State) (port : Nat) (m : Nat × Nat) : State :=
  modPort s port fun q =>
    { q with messages := q.messages.erase m, egress := q.egress ++ [{ addr := 0, bytes := [], tee := frozen s m.1, msix := some m.1 }] }

/-- R392: messages that are to be sent. -/
def dueMsix (s : State) : Option State :=
  ((List.range 2).findSome? fun k => (readyMessage s k).map fun m => (k, m)).map fun e => sendMessage s e.1 e.2

/-! ### Configuration space and register reads (R384, R385, R391, R402, R403) -/

/-- The number of registers of a function's configuration space that the spec gives. -/
def configRegs (part : Option Nat) : Nat := if part.isSome then 9 else 8

/-- Where a register of configuration space is kept. -/
def configKey (part : Option Nat) (reg : Nat) : Nat := 16 * (part.map fun p => p + 1).getD 0 + reg

/-- R384, R391: a configuration read, once the port's earlier writes have been performed: all ones when the function does not
answer there. -/
def configRead (h : HostAccess) (part : Option Nat) (reg : Nat) (s : State) : State :=
  if !portQuiet s h then s
  else
    let silent : Bool := part.any fun p => !vfAnswers s h p
    answer s h (some (if silent then List.replicate 4 0xFF else leBytes 4 (mgetD s.config (configKey part reg) 0).toNat))

/-- R403: a write that changes a frozen register moves each interface that it concerns to ERROR, and changes nothing; of PF0's
SR-IOV capability that is every locked one. -/
def configWrite (h : HostAccess) (part : Option Nat) (reg : Nat) (v : Word) (s : State) : State :=
  let hit (p : Nat) : Bool := part.all fun q => q == p
  if !portQuiet s h || (part.any fun p => !vfAnswers s h p) || configRegs part ≤ reg || mgetD s.config (configKey part reg) 0 == v then s
  else if (List.range 16).any fun p => hit p && frozen s p then releaseAct (errorAll s hit)
  else { s with config := mset s.config (configKey part reg) v }

/-- R385, R391, R402: a non-posted read of a register word of BAR0, once the port's earlier writes have been performed, with what the read itself does (R427): all ones
without the TEE bit that a locked interface asks for. -/
def registerRead (h : HostAccess) (part : Option Nat) (off : Nat) (s : State) : State :=
  if !portQuiet s h then s
  else match part with
    | none =>
      let t := answer s h (some (leBytes 8 (readPf0 s h.port (off / 8 * 8)).toNat))
      if off / 8 = 0x410 / 8 then clearOffjump t else t
    | some p =>
      if !vfAnswers s h p then s
      else answer s h (some (if teeOk s h p then leBytes 8 (readFunction s p (off / 8 * 8)).toNat else List.replicate 8 0xFF))

/-! ### The report (R405, R437) -/

/-- R405: the device-specific block up to its signature. -/
def reportBody (s : State) (p : Nat) : List Byte :=
  let x := partAt s p
  let d := x.tdisp
  leBytes 4 1 ++ leBytes 1 p ++ leBytes 1 d.port ++ leBytes 2 0 ++ leBytes 8 d.tick ++ leBytes 4 d.epoch.toNat ++ leBytes 4 0
    ++ (List.range 16).flatMap (fun w => leBytes 8 (mgetD x.record w 0).toNat)
    ++ (List.range 8).flatMap (fun k => leBytes 8 (readPf0 s 0 (0x6900 + 8 * k)).toNat)
    ++ leBytes 8 s.fw.fwver.toNat ++ leBytes 64 (s.fw.measure.getD Config.firstMeasure).toNat

/-- R437: the generation and index of the next signature: a generation that has spent its 2^20 indices gives way to the
next one. -/
def signingKey (f : Firmware) : Nat × Nat := if 2 ^ 20 ≤ f.keyIndex then (f.keyGen + 1, 0) else (f.keyGen, f.keyIndex)

/-- R437: before a report is signed, its generation is certified by the identity key, whose one-time index advances first. -/
def certify (f : Flash) (gen : Nat) : Flash :=
  if (mget f.certs gen).isSome then f
  else { f with idIndex := f.idIndex + 1, certs := mset f.certs gen (Config.identitySign f.idIndex (leBytes 8 gen ++ Config.attestationKey gen)) }

/-- R405: what stands before the device-specific block, in the layout of the TDISP standard: INTERFACE_INFO (no firmware update
while locked, DMA without PASID), the frozen controls, of which MSI-X is the message control that the function's capability holds, one
MMIO range for each of the BARs 0 and 2 of the function, and the length of the block (PRESUMED, log 75). -/
def reportHeader (s : State) (p : Nat) : List Byte :=
  leBytes 2 3 ++ leBytes 2 0 ++ leBytes 2 (bits (mgetD s.config (16 * (p + 1) + 2) 0).toNat 31 16)
    ++ leBytes 6 (Config.reportControls p).toNat ++ leBytes 4 2
    ++ [0, 2].flatMap (fun b => leBytes 16 (Config.reportRange p b).toNat) ++ leBytes 4 3108

/-- R405: the report, with its signature over every earlier byte. -/
def signedReport (s : State) (p : Nat) : List Byte :=
  let body := reportHeader s p ++ reportBody s p
  let k := signingKey s.fw
  body ++ (List.range 2820).map (Config.xmssSign k.1 k.2 body)

/-- R405, R437: GET_DEVICE_INTERFACE_REPORT of a locked or running interface: the key's generation is certified, the index advances,
and the report is answered. -/
def execEvGetDeviceInterfaceReport (p : Nat) (h : HostAccess) (s : State) : Out :=
  if !portQuiet s h || !vfAnswers s h p || !frozen s p then .next s
  else
    let k := signingKey s.fw
    .next (answer { s with flash := certify s.flash k.1, fw := { s.fw with keyGen := k.1, keyIndex := k.2 + 1 } } h (some (signedReport s p)))

/-! ### ERROR and STOP (R404) -/

/-- R404: a request of the partition to isle 14 is dropped: it completes and changes nothing (DEDUCED, log 74). -/
def dropHostEffect (p : Nat) (e : Effect) : Effect :=
  if e.part == p && e.home == 12 && (effectLocs e).any (fun a => isleOf a == 14) then { e with kind := .write [] } else e

/-- R404, R332: every grid of the partition is killed with code 0x01, and its isle-14 requests are dropped. -/
def killPartition (s : State) (p : Nat) : State :=
  let s := ((partAt s p).grids.map fun g => g.launch).foldl (fun s g => killGrid s p g none) s
  { s with effects := s.effects.map (dropHostEffect p) }

/-- R404: ERROR acts, within 1,000 ticks. -/
def execEvInterfaceError (p : Nat) (s : State) : Out :=
  let d := (partAt s p).tdisp
  if d.state == .error && !d.acted then .next (releaseAct (modTdisp (killPartition s p) p fun d => { d with acted := true })) else .next s

/-- R404: what of a core is zeroed. -/
def zeroCore (k : Core) : Core :=
  { k with blocks := [], l1 := [], undo := [], hwb := [], fills := [], items := [], itemGrid := none, griddle := Griddle.reset, orphans := [], lateUnits := [] }

/-- R404: STOP_INTERFACE: the partition's on-chip state is zeroed, and the interface is unlocked. Grids that still run are
killed first. -/
def execEvStopInterfaceRequest (p : Nat) (h : HostAccess) (s : State) : Out :=
  if !portQuiet s h || !vfAnswers s h p || (partAt s p).tdisp.state == .unlocked then .next s
  else
    let s := killPartition s p
    let mine (c : Nat) : Bool := ownsHearth (partAt s p) (hearthOf c)
    let s : State := { s with cores := s.cores.map fun e => if mine e.1 then (e.1, zeroCore e.2) else e }
    .next (releaseAct (modTdisp s p fun _ => Tdisp.reset))

end Sys2Proof.Machine
end

