-- ==== Sys2Proof/Machine/Package.lean ====
section
/-! DEFINITION. Package time (spec/22 R426 to R428), power (R431 to R433), telemetry (R434, spec/21 R412), timing replays
(spec/07 R221), and resets (spec/00 R4, spec/07 R197, R216, spec/21 R423, R424). -/

namespace Sys2Proof.Machine

open Sys2Proof

/-! ### IEEE 1588 time -/

/-- R427, R428: PTPOFF changes; at a period boundary the change counts in the period that begins there. -/
def setOffset (s : State) (ptp : Word) : State :=
  let off := ptp - BitVec.ofNat 64 s.now
  if s.ptp.offset == off then s else { s with ptp := { s.ptp with offset := off, offjump := true, period := true } }

/-- R434: the PTP time of the start of a period is what holds at its tick. -/
def noteStart (s : State) : State :=
  if s.now = s.telNext then
    { s with ptp := { s.ptp with start := if s.ptp.locked then some (BitVec.ofNat 64 s.now + s.ptp.offset) else none } }
  else s

/-- R428: lock is gained; the first lock sets PTPOFF. -/
def execEvPtpLock (ptp : Word) (s : State) : Out :=
  if s.ptp.locked then .next s
  else
    let s := if s.ptp.seen then s else setOffset s ptp
    .next (noteStart { s with ptp := { s.ptp with locked := true, seen := true } })

/-- R428: lock is lost. -/
def execEvPtpLockLost (s : State) : Out := .next (noteStart { s with ptp := { s.ptp with locked := false } })

/-- R428: the PTP time with which Zhevwell replaces PTPOFF at a period boundary, for a measured error above 1,000,000 ns. -/
def execEvPtpoffReplaced (ptp : Word) (s : State) : Out :=
  if s.ptp.locked && 1000000 < s.ptp.err.toInt.natAbs && s.now = s.telNext then .next (noteStart (setOffset s ptp)) else .next s

/-- R427: a measured offset error. -/
def execEvPtpOffsetMeasurement (error : W32) (s : State) : Out := .next { s with ptp := { s.ptp with err := error } }

/-! ### The ramp limiter -/

/-- R432: the permitted level in mW, from the level before, RAMP in W/ms, the cap in W and the demand. -/
def rampLevel (old ramp cap demand : Nat) : Nat := min (1000 * cap) (max (old - ramp) (min demand (old + ramp)))

/-- R432: the limiter after an interval with a demand in mW. -/
def rampNext (s : State) (d : Nat) : Ramp :=
  let r := s.ramp
  let old := r.level.getD d
  let l := rampLevel old s.pwrctl.ramp.toNat s.pwrctl.cap.toNat d
  let first := r.level.isNone || r.last < s.telNext
  let capped := 1000 * s.pwrctl.cap.toNat < max (old - s.pwrctl.ramp.toNat) (min d (old + s.pwrctl.ramp.toNat))
  { level := some l, demand := d, paced := r.paced || l < d, filled := r.filled || d < l, capped := r.capped || capped,
    pmin := if first then l else min r.pmin l, pmax := if first then l else max r.pmax l, last := s.now }

/-- R432: the limiter's interval, every 1,000 ticks. -/
def execEvRampInterval (power : Nat) (s : State) : Out :=
  if s.now % 1000 ≠ 0 || (s.ramp.level.isSome && s.ramp.last = s.now) || s.telNext + Config.telemetryPeriod ≤ s.now then .next s
  else
    .next { s with ramp := rampNext s power }

/-! ### Timing replays (R221) -/

/-- R373: event 14, for each account with a strand on a hearth (DEDUCED, log 73). -/
def countReplay (s : State) (h : Nat) : State :=
  let mine := s.strands.filter fun e => hearthOf (e.1 / 64) == h
  let accts := (mine.map fun e => (e.2.part, acctOf s e.2.part e.2.grid)).eraseDups
  accts.foldl (fun s e => modAccount s e.1 e.2 fun a => { a with gross := addWord a.gross 14 1, net := addWord a.net 14 1 }) s

/-- R221: a replay; the first beyond REPLAYTH in a period raises the hearth's event. -/
def execEvTimingReplay (h : Nat) (s : State) : Out :=
  if 192 ≤ h then .next s
  else
    let s := countReplay (modHearth s h fun x => { x with replays := x.replays + 1 }) h
    let x := hearthAt s h
    let limit := (qcfgAt s (h / Config.hearthsPerDie)).replayTh.toNat
    if limit = 0 || x.raised || x.replays ≤ limit then .next s
    else .next (raiseError (modHearth s h fun x => { x with raised := true }) 0x07 4 (errSource 1 h) none x.replays)

/-! ### Telemetry (R434) -/

/-- The hearth with the most replays of the period, the lowest among equals. -/
def mostReplays (s : State) : Nat :=
  (List.range 192).foldl (fun m h => if (hearthAt s m).replays < (hearthAt s h).replays then h else m) 0

/-- R434: what the record of the period that ends holds, but for its sequence number and measures. -/
def periodRecord (s : State) : Telemetry :=
  { pstart := s.telNext, ptp := s.ptp.start, seq := 0, locked := s.ptp.locked, offjump := s.ptp.period, paced := s.ramp.paced,
    filled := s.ramp.filled, capped := s.ramp.capped, m := { pavg := 0, pfill := 0, tmax := 0, tcool := 0, energy := 0 },
    pmin := BitVec.ofNat 16 (s.ramp.pmin / 100), pmax := BitVec.ofNat 16 (s.ramp.pmax / 100),
    replays := BitVec.ofNat 32 ((s.hearths.map fun e => e.2.replays).foldl (· + ·) 0), replayH := BitVec.ofNat 8 (mostReplays s),
    replayEv := BitVec.ofNat 8 (s.hearths.filter fun e => e.2.raised).length, ptperr := s.ptp.err }

/-- R412: the merged records of the period that ends. -/
def flushMerged (s : State) : State :=
  s.merged.foldl (fun s e => raiseErrorAt s (e.1 % 256) (if e.1 % 256 = 1 then 0 else 4) (BitVec.ofNat 16 (e.1 / 256)) s.now 0 none e.2.1 e.2.2)
    { s with merged := [] }

/-- R428: at a telemetry period's boundary Zhevwell replaces the PTPOFF of a locked reference whose measured error is above
1,000,000 ns; the PTP time that it finds is free, or what an event of that tick says (DESIGN CHOICE, log 128). -/
def replaceOffset (s : State) : State :=
  if s.ptp.locked && 1000000 < s.ptp.err.toInt.natAbs then setOffset { s with fresh := s.fresh + 1 } (Config.ptpTime s.fresh) else s

/-- R412, R434: a telemetry period ends and the next begins. -/
def closePeriod (s : State) : State :=
  let s := { s with telWait := s.telWait ++ [periodRecord s], telNext := s.telNext + Config.telemetryPeriod,
                    ptp := { s.ptp with period := false }, ramp := { s.ramp with paced := false, filled := false, capped := false },
                    hearths := s.hearths.map fun e => (e.1, { e.2 with replays := 0, raised := false }) }
  noteStart (replaceOffset (flushMerged s))

/-- The period that runs has ended. -/
def periodOver (s : State) : Bool := s.telNext + Config.telemetryPeriod ≤ s.now

/-- R434: the record of an ended period is sent, with what the sensors have measured, and enters the ring of 64. -/
def execEvTelemetryRecord (m : Measures) (s : State) : Out :=
  match s.telWait with
  | [] => .next s
  | t :: rest =>
    let r : Telemetry := { t with seq := s.telSeq, m := m }
    let ring := s.telemetry ++ [r]
    .next { s with telWait := rest, telSeq := s.telSeq + 1, telemetry := ring.drop (ring.length - 64) }

/-! ### Resets -/

/-- R197: windows from signed flash, or the least where flash holds less. -/
def qcfgFromFlash (f : Flash) (d : Nat) : Qcfg :=
  let q := mgetD f.qcfg d Qcfg.reset
  { q with qcore := if q.qcore.toNat < 32 then 32 else q.qcore, qdie := if q.qdie.toNat < 64 then 64 else q.qdie,
           qpkg := if q.qpkg.toNat < 128 then 128 else q.qpkg }

/-- R423: incarnations after a reset of every die: the compute dies, the isles and the I/O die. -/
def nextIncs (f : Flash) : FMap (BitVec 8) := msets [] ((List.range 23).map fun d => (d, mgetD f.inc d 0 + 1))

/-- R436, R437: firmware after a module reset: an armed image boots and raises MINVER. -/
def bootFirmware (f : Firmware) : Firmware :=
  { Firmware.reset with fwver := if f.armed then f.staged else f.fwver,
                        minver := if f.armed && f.minver.toNat < f.staged.toNat then f.staged else f.minver,
                        keyGen := f.keyGen, keyIndex := f.keyIndex, measure := if f.armed then some f.stagedMeasure else f.measure, log := f.log }

/-- R4, R426: a module reset: only what signed flash holds keeps its value; the settings in force are read from it. The
counters of the model and the moves to come stay (DESIGN CHOICE, log 3) (DEDUCED, log 77). -/
def execEvModuleReset (power : Nat) (s : State) : Out :=
  let incs := nextIncs s.flash
  .next { State.reset with
    turns := s.turns, fresh := s.fresh, nextId := s.nextId,
    flash := { s.flash with inc := incs }, incs := incs,
    qcfg := msets [] ((List.range 8).map fun d => (d, qcfgFromFlash s.flash d)), pwrctl := s.flash.pwrctl,
    ramp := { Ramp.reset with level := some power, demand := power, pmin := power, pmax := power },
    fw := bootFirmware s.fw }

/-- R364, R424: hearths of a die are owned by a valid partition, or by one that has not handed them over yet. -/
def dieOwned (s : State) (die : Nat) : Bool :=
  s.parts.any fun e => (List.range Config.hearthsPerDie).any fun i =>
    let h := Config.hearthsPerDie * die + i
    recValid e.2 && ownsHearth e.2 h || e.2.awaiting.contains (0, h)

/-- R424: the semaphore owner commands a die reset, which drains first. -/
def execEvComputeDieReset (h : HostAccess) (die : Nat) (s : State) : Out :=
  .next (ownerOnly s h fun s =>
    if 8 ≤ die || dieOwned s die || s.drains.any (fun d => d.die == die) then s
    else { s with drains := s.drains ++ [{ die := die, since := s.now }] })

/-- R424: no home holds an entry or a record of the die, and none of its requests is outstanding. -/
def dieDrained (s : State) (die : Nat) : Bool :=
  !(s.effects.any fun e => dieOf e.tag.core == die) && !(s.records.any fun r => dieOf r.tag.core == die)
    && !(s.msgs.any fun m => dieOf m.tag.core == die) && !(s.links.any fun q => dieOf q.core == die)
    && !(s.cores.any fun e => dieOf e.1 == die && !(e.2.fills.isEmpty && e.2.hwb.isEmpty && e.2.orphans.isEmpty))
    && !(s.copies.any fun y => dieOf y.core == die && !y.done)
    && !(s.blocks.any fun e => dieOf e.2.core == die && e.2.chunks.any fun k => k.2.filling.isSome)

/-- R425: the window fills of a die that are under way: block, chunk, core and address. -/
def dieFillings (s : State) (die : Nat) : List (Nat × Nat × Nat × Nat) :=
  (s.blocks.filter fun e => dieOf e.2.core == die).flatMap fun e => e.2.chunks.filterMap fun k => k.2.filling.map fun a => (e.1, k.1, e.2.core, a)

/-- R216: the effects of a die that the homes hold. -/
def dieHeld (die : Nat) (e : Effect) : Bool := dieOf e.tag.core == die && (e.stage == .pending || e.stage == .ingress)

/-- R216, R423, R424: the die resets: its incarnation advances, the homes discard what bears the earlier one, its cores, hearths, strands,
blocks and copies are gone, and QCFG is read from signed flash (R197). -/
def resetDie (s : State) (die : Nat) : State :=
  let lost := (s.effects.filter (dieHeld die)).length
  let inc := mgetD s.incs die 0 + 1
  let fills (e : Nat × Core) : List (Nat × Nat × Bool) := if dieOf e.1 == die then e.2.fills.map fun f => (e.1, f.line, f.answer.isSome) else []
  let s := { s with
    stale := s.stale ++ s.cores.flatMap fills, staleWins := s.staleWins ++ dieFillings s die,
    oldBeats := (List.range 13).foldl (fun m h => match mget s.beats (16 * die + h) with | some t => mset m (16 * die + h) t | none => m) s.oldBeats,
    strands := s.strands.filter (fun e => dieOf (e.1 / 64) != die), blocks := s.blocks.filter (fun e => dieOf e.2.core != die),
    copies := s.copies.filter (fun y => dieOf y.core != die), watches := s.watches.filter (fun w => dieOf w.core != die),
    claims := s.claims.filter (fun e => dieOf (e.1 / 64) != die), qcfg := mset s.qcfg die (qcfgFromFlash s.flash die),
    hearths := s.hearths.map (fun e => if e.1 / Config.hearthsPerDie == die then
      (e.1, { HearthStep.reset with replays := e.2.replays, raised := e.2.raised }) else e),
    incs := mset s.incs die inc, flash := { s.flash with inc := mset s.flash.inc die inc }, drains := s.drains.filter (fun d => d.die != die),
    effects := s.effects.filter (fun e => !dieHeld die e), records := s.records.filter (fun r => dieOf r.tag.core != die),
    msgs := s.msgs.filter (fun m => dieOf m.tag.core != die || m.sent.isSome),
    credits := s.credits.filter (fun e => dieOf (e.1 / 16) != die), cores := s.cores.filter (fun e => dieOf e.1 != die) }
  raiseError s 0x11 4 (errSource 2 die) none lost

/-- R424: the drain has ended, or its 100,000 ticks have. A die that a valid partition has come to own meanwhile is not reset
(DEDUCED, log 146). -/
def execEvDieResetDrainEnds (die : Nat) (s : State) : Out :=
  if dieOwned s die then .next { s with drains := s.drains.filter fun d => d.die != die }
  else if s.drains.any (fun d => d.die == die && (dieDrained s die || d.since + 100000 ≤ s.now)) then .next (resetDie s die) else .next s

end Sys2Proof.Machine
end

