-- ==== Sys2Proof/Machine/Dispatch.lean ====
section
/-! DEFINITION. The meaning of every instruction and event of the opcode table, one arm each. -/

namespace Sys2Proof.Machine

/-- The meaning of an instruction or event. -/
def exec (i : Instr) (s : State) : Host.Outcome State Fault Refusal :=
  match i with
  | .sadd d a b => Sys2Proof.Machine.execSadd d a b s
  | .saddImm d a v => Sys2Proof.Machine.execSaddImm d a v s
  | .ssub d a b => Sys2Proof.Machine.execSsub d a b s
  | .smul d a b => Sys2Proof.Machine.execSmul d a b s
  | .smulhI64 d a b => Sys2Proof.Machine.execSmulhI64 d a b s
  | .smulhN64 d a b => Sys2Proof.Machine.execSmulhN64 d a b s
  | .sdivI64 d a b => Sys2Proof.Machine.execSdivI64 d a b s
  | .sdivN64 d a b => Sys2Proof.Machine.execSdivN64 d a b s
  | .sremI64 d a b => Sys2Proof.Machine.execSremI64 d a b s
  | .sremN64 d a b => Sys2Proof.Machine.execSremN64 d a b s
  | .sand d a b => Sys2Proof.Machine.execSand d a b s
  | .sandImm d a v => Sys2Proof.Machine.execSandImm d a v s
  | .sor d a b => Sys2Proof.Machine.execSor d a b s
  | .sorImm d a v => Sys2Proof.Machine.execSorImm d a v s
  | .sxor d a b => Sys2Proof.Machine.execSxor d a b s
  | .sxorImm d a v => Sys2Proof.Machine.execSxorImm d a v s
  | .sandn d a b => Sys2Proof.Machine.execSandn d a b s
  | .sshl d a b => Sys2Proof.Machine.execSshl d a b s
  | .sshlImm d a n => Sys2Proof.Machine.execSshlImm d a n s
  | .sshr d a b => Sys2Proof.Machine.execSshr d a b s
  | .sshrImm d a n => Sys2Proof.Machine.execSshrImm d a n s
  | .ssra d a b => Sys2Proof.Machine.execSsra d a b s
  | .ssraImm d a n => Sys2Proof.Machine.execSsraImm d a n s
  | .sminI64 d a b => Sys2Proof.Machine.execSminI64 d a b s
  | .smaxI64 d a b => Sys2Proof.Machine.execSmaxI64 d a b s
  | .sminN64 d a b => Sys2Proof.Machine.execSminN64 d a b s
  | .smaxN64 d a b => Sys2Proof.Machine.execSmaxN64 d a b s
  | .sclz d a => Sys2Proof.Machine.execSclz d a s
  | .spopc d a => Sys2Proof.Machine.execSpopc d a s
  | .smov d a => Sys2Proof.Machine.execSmov d a s
  | .ssel d a b => Sys2Proof.Machine.execSsel d a b s
  | .smovMailbox d m => Sys2Proof.Machine.execSmovMailbox d m s
  | .scmp d a b c => Sys2Proof.Machine.execScmp d a b c s
  | .sli d v => Sys2Proof.Machine.execSli d v s
  | .slui d v => Sys2Proof.Machine.execSlui d v s
  | .sbEq a b o => Sys2Proof.Machine.execSbEq a b o s
  | .sbNe a b o => Sys2Proof.Machine.execSbNe a b o s
  | .sbLt a b o => Sys2Proof.Machine.execSbLt a b o s
  | .sbGe a b o => Sys2Proof.Machine.execSbGe a b o s
  | .sbLtn a b o => Sys2Proof.Machine.execSbLtn a b o s
  | .sbGen a b o => Sys2Proof.Machine.execSbGen a b o s
  | .pqpush a o => Sys2Proof.Machine.execPqpush a o s
  | .pqjoin o => Sys2Proof.Machine.execPqjoin o s
  | .sj o => Sys2Proof.Machine.execSj o s
  | .scall o => Sys2Proof.Machine.execScall o s
  | .lrun c => Sys2Proof.Machine.execLrun c s
  | .sjr a => Sys2Proof.Machine.execSjr a s
  | .scallr a => Sys2Proof.Machine.execScallr a s
  | .sret => Sys2Proof.Machine.execSret s
  | .exit => Sys2Proof.Machine.execExit s
  | .sexec a => Sys2Proof.Machine.execSexec a s
  | .pqnext => Sys2Proof.Machine.execPqnext s
  | .pqsave a => Sys2Proof.Machine.execPqsave a s
  | .pqload a => Sys2Proof.Machine.execPqload a s
  | .syield => Sys2Proof.Machine.execSyield s
  | .lk k a => Sys2Proof.Machine.execLk k a s
  | .lwait f => Sys2Proof.Machine.execLwait f s
  | .region o => Sys2Proof.Machine.execRegion o s
  | .iqloop p v m => Sys2Proof.Machine.execIqloop p v m s
  | .mark t => Sys2Proof.Machine.execMark t s
  | .cut d t => Sys2Proof.Machine.execCut d t s
  | .glaunch d a => Sys2Proof.Machine.execGlaunch d a s
  | .stime d => Sys2Proof.Machine.execStime d s
  | .srd d n => Sys2Proof.Machine.execSrd d n s
  | .swr a n => Sys2Proof.Machine.execSwr a n s
  | .trap c => Sys2Proof.Machine.execTrap c s
  | .brk c => Sys2Proof.Machine.execBrk c s
  | .meet a n => Sys2Proof.Machine.execMeet a n s
  | .nop => Sys2Proof.Machine.execNop s
  | .sld d a o z h => Sys2Proof.Machine.execSld d a o z h s
  | .sldAcquire d a o z c => Sys2Proof.Machine.execSldAcquire d a o z c s
  | .sst d a o z h => Sys2Proof.Machine.execSst d a o z h s
  | .sstRelease d a o z c => Sys2Proof.Machine.execSstRelease d a o z c s
  | .fence k c => Sys2Proof.Machine.execFence k c s
  | .cadd a b c => Sys2Proof.Machine.execCadd a b c s
  | .cwait a b c => Sys2Proof.Machine.execCwait a b c s
  | .cread d a => Sys2Proof.Machine.execCread d a s
  | .cpy d a b => Sys2Proof.Machine.execCpy d a b s
  | .cpy2d d a b => Sys2Proof.Machine.execCpy2d d a b s
  | .cseal d => Sys2Proof.Machine.execCseal d s
  | .wmap d a b m => Sys2Proof.Machine.execWmap d a b m s
  | .wunmap a => Sys2Proof.Machine.execWunmap a s
  | .wflush a => Sys2Proof.Machine.execWflush a s
  | .winval a => Sys2Proof.Machine.execWinval a s
  | .claim a b => Sys2Proof.Machine.execClaim a b s
  | .xcoll d a => Sys2Proof.Machine.execXcoll d a s
  | .graft a b => Sys2Proof.Machine.execGraft a b s
  | .sfree a => Sys2Proof.Machine.execSfree a s
  | .sinfo d a => Sys2Proof.Machine.execSinfo d a s
  | .mres d => Sys2Proof.Machine.execMres d s
  | .mrel => Sys2Proof.Machine.execMrel s
  | .mrun a => Sys2Proof.Machine.execMrun a s
  | .vadd f => Sys2Proof.Machine.execVadd f s
  | .vsub f => Sys2Proof.Machine.execVsub f s
  | .vmul f => Sys2Proof.Machine.execVmul f s
  | .vmulHi f => Sys2Proof.Machine.execVmulHi f s
  | .vmad f => Sys2Proof.Machine.execVmad f s
  | .vmin f => Sys2Proof.Machine.execVmin f s
  | .vmax f => Sys2Proof.Machine.execVmax f s
  | .vand f => Sys2Proof.Machine.execVand f s
  | .vor f => Sys2Proof.Machine.execVor f s
  | .vxor f => Sys2Proof.Machine.execVxor f s
  | .vnot f => Sys2Proof.Machine.execVnot f s
  | .vshl f => Sys2Proof.Machine.execVshl f s
  | .vshr f => Sys2Proof.Machine.execVshr f s
  | .vsra f => Sys2Proof.Machine.execVsra f s
  | .vbfe f => Sys2Proof.Machine.execVbfe f s
  | .vbfi f => Sys2Proof.Machine.execVbfi f s
  | .vpopc f => Sys2Proof.Machine.execVpopc f s
  | .vclz f => Sys2Proof.Machine.execVclz f s
  | .vbrev f => Sys2Proof.Machine.execVbrev f s
  | .vsel f => Sys2Proof.Machine.execVsel f s
  | .vmov f => Sys2Proof.Machine.execVmov f s
  | .vli f => Sys2Proof.Machine.execVli f s
  | .vliHi f => Sys2Proof.Machine.execVliHi f s
  | .vfadd f => Sys2Proof.Machine.execVfadd f s
  | .vfsub f => Sys2Proof.Machine.execVfsub f s
  | .vfmul f => Sys2Proof.Machine.execVfmul f s
  | .vffma f => Sys2Proof.Machine.execVffma f s
  | .vfmin f => Sys2Proof.Machine.execVfmin f s
  | .vfmax f => Sys2Proof.Machine.execVfmax f s
  | .vfrcp f => Sys2Proof.Machine.execVfrcp f s
  | .vfrsq f => Sys2Proof.Machine.execVfrsq f s
  | .vfsqrt f => Sys2Proof.Machine.execVfsqrt f s
  | .vfdiv f => Sys2Proof.Machine.execVfdiv f s
  | .vfexp2 f => Sys2Proof.Machine.execVfexp2 f s
  | .vflog2 f => Sys2Proof.Machine.execVflog2 f s
  | .vfsin f => Sys2Proof.Machine.execVfsin f s
  | .vfcos f => Sys2Proof.Machine.execVfcos f s
  | .vfrnd f => Sys2Proof.Machine.execVfrnd f s
  | .vffrac f => Sys2Proof.Machine.execVffrac f s
  | .vfcls f => Sys2Proof.Machine.execVfcls f s
  | .vicmp f => Sys2Proof.Machine.execVicmp f s
  | .vfcmp f => Sys2Proof.Machine.execVfcmp f s
  | .pand f => Sys2Proof.Machine.execPand f s
  | .por f => Sys2Proof.Machine.execPor f s
  | .pxor f => Sys2Proof.Machine.execPxor f s
  | .pnot f => Sys2Proof.Machine.execPnot f s
  | .pmov f => Sys2Proof.Machine.execPmov f s
  | .pmovFromLane f => Sys2Proof.Machine.execPmovFromLane f s
  | .pmovToLane f => Sys2Proof.Machine.execPmovToLane f s
  | .vdot4 f => Sys2Proof.Machine.execVdot4 f s
  | .vfdot2 f => Sys2Proof.Machine.execVfdot2 f s
  | .vcvtDec f => Sys2Proof.Machine.execVcvtDec f s
  | .vcvtEnc f => Sys2Proof.Machine.execVcvtEnc f s
  | .vpk f => Sys2Proof.Machine.execVpk f s
  | .vupk f => Sys2Proof.Machine.execVupk f s
  | .vscl f => Sys2Proof.Machine.execVscl f s
  | .vshfl f => Sys2Proof.Machine.execVshfl f s
  | .vbcast f => Sys2Proof.Machine.execVbcast f s
  | .vbcastFirst f => Sys2Proof.Machine.execVbcastFirst f s
  | .vscan f => Sys2Proof.Machine.execVscan f s
  | .vballot f => Sys2Proof.Machine.execVballot f s
  | .vballotCnt f => Sys2Proof.Machine.execVballotCnt f s
  | .vred f => Sys2Proof.Machine.execVred f s
  | .vmbox f => Sys2Proof.Machine.execVmbox f s
  | .vmboxLast f => Sys2Proof.Machine.execVmboxLast f s
  | .vlid f => Sys2Proof.Machine.execVlid f s
  | .vixs f => Sys2Proof.Machine.execVixs f s
  | .vld f => Sys2Proof.Machine.execVld f s
  | .vldAcquire f => Sys2Proof.Machine.execVldAcquire f s
  | .vst f => Sys2Proof.Machine.execVst f s
  | .vstRelease f => Sys2Proof.Machine.execVstRelease f s
  | .vlds f => Sys2Proof.Machine.execVlds f s
  | .vsts f => Sys2Proof.Machine.execVsts f s
  | .vatom f => Sys2Proof.Machine.execVatom f s
  | .vatomCas f => Sys2Proof.Machine.execVatomCas f s
  | .vredm f => Sys2Proof.Machine.execVredm f s
  | .vpref f => Sys2Proof.Machine.execVpref f s
  | .gmma f => Sys2Proof.Machine.execGmma f s
  | .gldb f => Sys2Proof.Machine.execGldb f s
  | .gclr f => Sys2Proof.Machine.execGclr f s
  | .gst f => Sys2Proof.Machine.execGst f s
  | .gmov f => Sys2Proof.Machine.execGmov f s
  | .gmovTr f => Sys2Proof.Machine.execGmovTr f s
  | .gmeet f => Sys2Proof.Machine.execGmeet f s
  | .gend f => Sys2Proof.Machine.execGend f s
  | .dLdq d z m x => Sys2Proof.Machine.execDLdq d z m x s
  | .dLdt d z m x => Sys2Proof.Machine.execDLdt d z m x s
  | .dLdh d z m x => Sys2Proof.Machine.execDLdh d z m x s
  | .dLde d z m x => Sys2Proof.Machine.execDLde d z m x s
  | .dAdd d z m x => Sys2Proof.Machine.execDAdd d z m x s
  | .dSub d z m x => Sys2Proof.Machine.execDSub d z m x s
  | .dMul d z m x => Sys2Proof.Machine.execDMul d z m x s
  | .dMin d z m x => Sys2Proof.Machine.execDMin d z m x s
  | .dMax d z m x => Sys2Proof.Machine.execDMax d z m x s
  | .dAnd d z m x => Sys2Proof.Machine.execDAnd d z m x s
  | .dOr d z m x => Sys2Proof.Machine.execDOr d z m x s
  | .dXor d z m x => Sys2Proof.Machine.execDXor d z m x s
  | .dShl d z m x => Sys2Proof.Machine.execDShl d z m x s
  | .dShr d z m x => Sys2Proof.Machine.execDShr d z m x s
  | .dCmp d z m x => Sys2Proof.Machine.execDCmp d z m x s
  | .dJf c z m x => Sys2Proof.Machine.execDJf c z m x s
  | .dBest d z m x => Sys2Proof.Machine.execDBest d z m x s
  | .dDsp q z m x => Sys2Proof.Machine.execDDsp q z m x s
  | .dPre c => Sys2Proof.Machine.execDPre c s
  | .dPark => Sys2Proof.Machine.execDPark s
  | .dKill => Sys2Proof.Machine.execDKill s
  | .dRetry z m x => Sys2Proof.Machine.execDRetry z m x s
  | .dSusp => Sys2Proof.Machine.execDSusp s
  | .dGrant => Sys2Proof.Machine.execDGrant s
  | .dFill q z m x => Sys2Proof.Machine.execDFill q z m x s
  | .dHold => Sys2Proof.Machine.execDHold s
  | .evClauseStart core slot => Sys2Proof.Machine.execEvClauseStart core slot s
  | .evLaneWriteLands core slot op => Sys2Proof.Machine.execEvLaneWriteLands core slot op s
  | .evMemoryOperationCompletes core slot op => Sys2Proof.Machine.execEvMemoryOperationCompletes core slot op s
  | .evGwctCompletion effect => Sys2Proof.Machine.execEvGwctCompletion effect s
  | .evReleaseWaitEnds core slot => Sys2Proof.Machine.execEvReleaseWaitEnds core slot s
  | .evCoreClockStop core => Sys2Proof.Machine.execEvCoreClockStop core s
  | .evCoreWake core => Sys2Proof.Machine.execEvCoreWake core s
  | .evEffectiveCloseDetermined core slot region => Sys2Proof.Machine.execEvEffectiveCloseDetermined core slot region s
  | .evRegionCleared core slot region => Sys2Proof.Machine.execEvRegionCleared core slot region s
  | .evRegionReleased core slot region => Sys2Proof.Machine.execEvRegionReleased core slot region s
  | .evNeighbourWriteApplied core entry => Sys2Proof.Machine.execEvNeighbourWriteApplied core entry s
  | .evSensorEvent kind place second => Sys2Proof.Machine.execEvSensorEvent kind place second s
  | .evSensorReportArrives report => Sys2Proof.Machine.execEvSensorReportArrives report s
  | .evSensorSquash report core => Sys2Proof.Machine.execEvSensorSquash report core s
  | .evHeldEffectArrives effect => Sys2Proof.Machine.execEvHeldEffectArrives effect s
  | .evPendingWriteAccepted home => Sys2Proof.Machine.execEvPendingWriteAccepted home s
  | .evClose home core => Sys2Proof.Machine.execEvClose home core s
  | .evSquash home core => Sys2Proof.Machine.execEvSquash home core s
  | .evHomeRelease home => Sys2Proof.Machine.execEvHomeRelease home s
  | .evCreditReturned home core => Sys2Proof.Machine.execEvCreditReturned home core s
  | .evHeartbeat die => Sys2Proof.Machine.execEvHeartbeat die s
  | .evHeartbeatReceived home die => Sys2Proof.Machine.execEvHeartbeatReceived home die s
  | .evRegionResourceTrap core resource => Sys2Proof.Machine.execEvRegionResourceTrap core resource s
  | .evAtomicPerform core slot => Sys2Proof.Machine.execEvAtomicPerform core slot s
  | .evTrapDelivery core slot => Sys2Proof.Machine.execEvTrapDelivery core slot s
  | .evStrandSlotFreed core slot => Sys2Proof.Machine.execEvStrandSlotFreed core slot s
  | .evBlockGriddleRelease core => Sys2Proof.Machine.execEvBlockGriddleRelease core s
  | .evGridRetire part grid => Sys2Proof.Machine.execEvGridRetire part grid s
  | .evCompletionStatusWrite part grid => Sys2Proof.Machine.execEvCompletionStatusWrite part grid s
  | .evCompletionCounterAdd part grid => Sys2Proof.Machine.execEvCompletionCounterAdd part grid s
  | .evSegmentCleared core => Sys2Proof.Machine.execEvSegmentCleared core s
  | .evImplicitMeet core => Sys2Proof.Machine.execEvImplicitMeet core s
  | .evMeetWaitSatisfied core => Sys2Proof.Machine.execEvMeetWaitSatisfied core s
  | .evCopyStart copy => Sys2Proof.Machine.execEvCopyStart copy s
  | .evCopyDataStaged copy => Sys2Proof.Machine.execEvCopyDataStaged copy s
  | .evCopyChunkWrite copy => Sys2Proof.Machine.execEvCopyChunkWrite copy s
  | .evCopyCompletionAdd copy => Sys2Proof.Machine.execEvCopyCompletionAdd copy s
  | .evBatchTokenWritten core slot batch => Sys2Proof.Machine.execEvBatchTokenWritten core slot batch s
  | .evFillRequest core line => Sys2Proof.Machine.execEvFillRequest core line s
  | .evL1FillLands core line => Sys2Proof.Machine.execEvL1FillLands core line s
  | .evWindowFillLands block chunk => Sys2Proof.Machine.execEvWindowFillLands block chunk s
  | .evGenerationSweep core => Sys2Proof.Machine.execEvGenerationSweep core s
  | .evCounterWake core slot => Sys2Proof.Machine.execEvCounterWake core slot s
  | .evCounterRepoll core slot => Sys2Proof.Machine.execEvCounterRepoll core slot s
  | .evItemQueueRefill core => Sys2Proof.Machine.execEvItemQueueRefill core s
  | .evDispatchPeriodic part hearth => Sys2Proof.Machine.execEvDispatchPeriodic part hearth s
  | .evPreemptQuantum part gang => Sys2Proof.Machine.execEvPreemptQuantum part gang s
  | .evDecisionBegins part => Sys2Proof.Machine.execEvDecisionBegins part s
  | .evDamperOverrun part => Sys2Proof.Machine.execEvDamperOverrun part s
  | .evLoad part h => Sys2Proof.Machine.execEvLoad part h s
  | .evDamperLoadCheckDone part => Sys2Proof.Machine.execEvDamperLoadCheckDone part s
  | .evPreemptionRequest part gang cause => Sys2Proof.Machine.execEvPreemptionRequest part gang cause s
  | .evContextSave part gang => Sys2Proof.Machine.execEvContextSave part gang s
  | .evCollectiveStall channel => Sys2Proof.Machine.execEvCollectiveStall channel s
  | .evFillerWithdrawal part => Sys2Proof.Machine.execEvFillerWithdrawal part s
  | .evAccountRefill part acct => Sys2Proof.Machine.execEvAccountRefill part acct s
  | .evAccountCharge part acct => Sys2Proof.Machine.execEvAccountCharge part acct s
  | .evPeriodWrite part h acct value => Sys2Proof.Machine.execEvPeriodWrite part h acct value s
  | .evParkres part h value => Sys2Proof.Machine.execEvParkres part h value s
  | .evHalt part h => Sys2Proof.Machine.execEvHalt part h s
  | .evDebugResume part h => Sys2Proof.Machine.execEvDebugResume part h s
  | .evStep part h => Sys2Proof.Machine.execEvStep part h s
  | .evQpush part h queue value => Sys2Proof.Machine.execEvQpush part h queue value s
  | .evQcfgWrite h die value => Sys2Proof.Machine.execEvQcfgWrite h die value s
  | .evSignedFlashCommit item => Sys2Proof.Machine.execEvSignedFlashCommit item s
  | .evSpcfgWrite part h value => Sys2Proof.Machine.execEvSpcfgWrite part h value s
  | .evSpsizeTakesEffect core => Sys2Proof.Machine.execEvSpsizeTakesEffect core s
  | .evCommit h part => Sys2Proof.Machine.execEvCommit h part s
  | .evResourceHandover part => Sys2Proof.Machine.execEvResourceHandover part s
  | .evTake h => Sys2Proof.Machine.execEvTake h s
  | .evGive h => Sys2Proof.Machine.execEvGive h s
  | .evHostLinkDown port => Sys2Proof.Machine.execEvHostLinkDown port s
  | .evHostPostedWrite h part addr bytes => Sys2Proof.Machine.execEvHostPostedWrite h part addr bytes s
  | .evGrantMessage port route => Sys2Proof.Machine.execEvGrantMessage port route s
  | .evHostPiecePerformed port route => Sys2Proof.Machine.execEvHostPiecePerformed port route s
  | .evAck port route => Sys2Proof.Machine.execEvAck port route s
  | .evHostRead h part addr size => Sys2Proof.Machine.execEvHostRead h part addr size s
  | .evCxlRead port half => Sys2Proof.Machine.execEvCxlRead port half s
  | .evCxlReadForOwnership port half => Sys2Proof.Machine.execEvCxlReadForOwnership port half s
  | .evCxlWriteBack port half dirty => Sys2Proof.Machine.execEvCxlWriteBack port half dirty s
  | .evBackInvalidationResponse half dirty => Sys2Proof.Machine.execEvBackInvalidationResponse half dirty s
  | .evTranslationWalk part core addr => Sys2Proof.Machine.execEvTranslationWalk part core addr s
  | .evTranslationLeaseExpires core => Sys2Proof.Machine.execEvTranslationLeaseExpires core s
  | .evTunmap part h => Sys2Proof.Machine.execEvTunmap part h s
  | .evMgo part h => Sys2Proof.Machine.execEvMgo part h s
  | .evMigrationSwitch part => Sys2Proof.Machine.execEvMigrationSwitch part s
  | .evMigrationDrainEnds part => Sys2Proof.Machine.execEvMigrationDrainEnds part s
  | .evLockInterfaceRequest part h => Sys2Proof.Machine.execEvLockInterfaceRequest part h s
  | .evGetDeviceInterfaceReport part h => Sys2Proof.Machine.execEvGetDeviceInterfaceReport part h s
  | .evStartInterfaceRequest part h nonce => Sys2Proof.Machine.execEvStartInterfaceRequest part h nonce s
  | .evStopInterfaceRequest part h => Sys2Proof.Machine.execEvStopInterfaceRequest part h s
  | .evIdeStreamLoss part => Sys2Proof.Machine.execEvIdeStreamLoss part s
  | .evInterfaceError part => Sys2Proof.Machine.execEvInterfaceError part s
  | .evStraitLaneFailure strait left => Sys2Proof.Machine.execEvStraitLaneFailure strait left s
  | .evStraitRetrainDone strait => Sys2Proof.Machine.execEvStraitRetrainDone strait s
  | .evStraitRetrain h strait => Sys2Proof.Machine.execEvStraitRetrain h strait s
  | .evCollectiveChunk channel ranks => Sys2Proof.Machine.execEvCollectiveChunk channel ranks s
  | .evCollectiveCompletionAdd channel => Sys2Proof.Machine.execEvCollectiveCompletionAdd channel s
  | .evCollectivePacketArrives strait group attempt => Sys2Proof.Machine.execEvCollectivePacketArrives strait group attempt s
  | .evGabort part h => Sys2Proof.Machine.execEvGabort part h s
  | .evAbortToken group attempt => Sys2Proof.Machine.execEvAbortToken group attempt s
  | .evErrnext h => Sys2Proof.Machine.execEvErrnext h s
  | .evRgo h => Sys2Proof.Machine.execEvRgo h s
  | .evRetirementConfirmed => Sys2Proof.Machine.execEvRetirementConfirmed s
  | .evModuleReset power => Sys2Proof.Machine.execEvModuleReset power s
  | .evComputeDieReset h die => Sys2Proof.Machine.execEvComputeDieReset h die s
  | .evDieResetDrainEnds die => Sys2Proof.Machine.execEvDieResetDrainEnds die s
  | .evPtpLock ptp => Sys2Proof.Machine.execEvPtpLock ptp s
  | .evPtpLockLost => Sys2Proof.Machine.execEvPtpLockLost s
  | .evPtpoffReplaced ptp => Sys2Proof.Machine.execEvPtpoffReplaced ptp s
  | .evTstatRead h => Sys2Proof.Machine.execEvTstatRead h s
  | .evStepRegisterWrite h hearth value => Sys2Proof.Machine.execEvStepRegisterWrite h hearth value s
  | .evStepChangeDone hearth => Sys2Proof.Machine.execEvStepChangeDone hearth s
  | .evPwrctlWrite h value => Sys2Proof.Machine.execEvPwrctlWrite h value s
  | .evRampInterval power => Sys2Proof.Machine.execEvRampInterval power s
  | .evTelemetryRecord m => Sys2Proof.Machine.execEvTelemetryRecord m s
  | .evTimingReplay hearth => Sys2Proof.Machine.execEvTimingReplay hearth s
  | .evFwgo h => Sys2Proof.Machine.execEvFwgo h s
  | .evFirmwareVerifyDone => Sys2Proof.Machine.execEvFirmwareVerifyDone s
  | .evAct h => Sys2Proof.Machine.execEvAct h s
  | .evRegisterWrite h place value => Sys2Proof.Machine.execEvRegisterWrite h place value s
  | .evReservedEncoding stream cause => Sys2Proof.Machine.execEvReservedEncoding stream cause s
  | .evInstructionFetchFault stream => Sys2Proof.Machine.execEvInstructionFetchFault stream s
  | .evPcieAtomicopCompletion request refused old => Sys2Proof.Machine.execEvPcieAtomicopCompletion request refused old s
  | .evPtpOffsetMeasurement error => Sys2Proof.Machine.execEvPtpOffsetMeasurement error s

end Sys2Proof.Machine
end

