-- ==== Sys2Proof/Machine/Timed.lean ====
section
/-! DEFINITION. What the spec ties to a tick: when a tick would pass and one of these is due at it, it happens first, in this
order (DESIGN CHOICE, log 2). Everything else happens when the moves to come say so. -/

namespace Sys2Proof.Machine

open Sys2Proof

/-- The state that an event leaves. -/
def after (r : Out) (s : State) : State :=
  match r with
  | .next t => t
  | _ => s

/-- An event, when there is a place for it to happen at. -/
def dueAt {α : Type} (x : Option α) (f : α → Out) (s : State) : Option State := x.map fun a => after (f a) s

/-! ### The reference clock of the package -/

/-- R434: the end of a telemetry period; R403: a held ACT. -/
def duePeriod (s : State) : Option State :=
  if periodOver s then some (closePeriod s)
  else if s.fw.heldAct && !anyLocked s then some (releaseAct s) else none

/-- R194, R195: the bounds on a sensor's report and on its delivery. -/
def dueSensor (s : State) : Option State :=
  let late (r : Report) : Bool := r.arrived.isNone && r.time + sensorDelay r.kind ≤ s.now
  match s.reports.find? late with
  | some r => some (after (execEvSensorReportArrives r.id s) s)
  | none => dueAt (s.reports.find? fun r => r.arrived.any fun t => t + 12 ≤ s.now) (fun r => execEvSensorSquash r.id (r.cores.headD 0) s) s

/-- R196, R419: the bound on a CLOSE or SQUASH, unless a strait of its route retrains. -/
def dueMessage (s : State) : Option State :=
  dueAt (s.msgs.find? fun m => (m.sent.any fun t => t + Config.straitDelay ≤ s.now) && pathSteady s (dieOf m.tag.core) (homeDie m.home))
    (fun m => .next (receiveMsg s m.home m.tag.core ((nextMsg s m.home m.tag.core).any fun x => x.squash))) s

/-- R420: heartbeats, sent every 8 ticks and received within the bound of R196. -/
def dueBeat (s : State) : Option State :=
  let unsent (d : Nat) : Bool := s.now % 8 == 0 && mget s.beats (16 * d) != some s.now
  let late (k : Nat) : Bool := ((nextBeat s (k % 16) (k / 16)).any fun t => t + Config.straitDelay ≤ s.now) && pathSteady s (k / 16) (homeDie (k % 16))
  match (List.range 8).find? unsent with
  | some d => some (after (execEvHeartbeat d s) s)
  | none => dueAt ((List.range 128).find? fun k => k % 16 < 13 && late k) (fun k => execEvHeartbeatReceived (k % 16) (k / 16) s) s

/-! ### Regions and homes -/

/-- A region of a strand that satisfies a condition. -/
def findRegion (s : State) (p : Nat → Nat → Strand → Region → Bool) : Option (Nat × Nat × Nat) :=
  s.strands.findSome? fun e => (e.2.regions.find? fun r => p (e.1 / 64) (e.1 % 64) e.2 r).map fun r => (e.1 / 64, e.1 % 64, r.id)

/-- R212: effective closes that are determined. -/
def dueClose (s : State) : Option State :=
  let seg := s.cores.findSome? fun e => (e.2.griddle.segs.find? fun g => g.ec.isNone && g.close.isSome && depsKnown s e.1 g.deps).map fun g => (e.1, g.id)
  match seg with
  | some (c, id) => some (after (execEvEffectiveCloseDetermined c 64 id s) s)
  | none => dueAt (findRegion s fun c _ _ r => r.ec.isNone && r.close.isSome && depsKnown s c r.deps)
      (fun x => execEvEffectiveCloseDetermined x.1 x.2.1 x.2.2 s) s

/-- R213, R201: homes with an effect to release. -/
def dueRelease (s : State) : Option State := dueAt ((List.range 13).find? fun h => !(dueEffects s h).isEmpty) (fun h => execEvHomeRelease h s) s

/-- R200: regions that clear. -/
def dueClear (s : State) : Option State :=
  dueAt (findRegion s fun _ _ _ r => !r.cleared && r.ec.any fun t => t + r.qcore ≤ s.now) (fun x => execEvRegionCleared x.1 x.2.1 x.2.2 s) s

/-- R202: neighbour writes that are applied. -/
def dueNeighbour (s : State) : Option State :=
  dueAt (s.cores.findSome? fun e => (e.2.hwb.find? (entryReady s)).map fun h => (e.1, h.id))
    (fun x => execEvNeighbourWriteApplied x.1 x.2 s) s

/-- R200: regions that are no longer unreleased. -/
def dueUnreleased (s : State) : Option State :=
  dueAt (findRegion s fun c _ _ r => r.cleared && r.ec.any (fun t => t + windowOf r ≤ s.now) && !((coreOf s c).hwb.any fun h => h.owner == r.id))
    (fun x => execEvRegionReleased x.1 x.2.1 x.2.2 s) s

/-- R305: segments that clear. -/
def dueSegment (s : State) : Option State :=
  dueAt (s.cores.find? fun e => ((e.2.griddle.segs.find? fun g => !g.cleared).any fun g => g.ec.any fun t => t + g.qcore ≤ s.now)
      && (blockAt s e.2.griddle.holder).isSome) (fun e => execEvSegmentCleared e.1 s) s

/-- R213: records that are freed. -/
def dueCredit (s : State) : Option State := dueAt (s.records.find? fun r => recordOver s r) (fun r => execEvCreditReturned r.home r.tag.core s) s

/-- R371: a REMAT clause that has ended: the results are written again before the strand's first instruction. -/
def dueResults (s : State) : Option State :=
  (s.strands.find? fun e => e.2.remat && !rematWaits e.2).map fun e =>
    { s with strands := mset s.strands e.1 { writeResults e.2 with remat := false } }

/-! ### The hub and the registers -/

/-- An account of a partition that satisfies a condition. -/
def findAccount (s : State) (p : Account → Bool) : Option (Nat × Nat) :=
  s.parts.findSome? fun e => (e.2.accounts.find? fun a => p a.2).map fun a => (e.1, a.1)

/-- R366: refills. -/
def dueRefill (s : State) : Option State :=
  dueAt (findAccount s fun a => a.period != 0 && a.refillAt ≤ s.now) (fun x => execEvAccountRefill x.1 x.2 s) s

/-- R337: periodic offers, quanta; R360: stalls. -/
def dueEvents (s : State) : Option State :=
  let again := s.parts.findSome? fun e => (e.2.heldAt.find? fun h => h.2 + 10000 ≤ s.now && hearthOffers s e.1 h.1).map fun h => (e.1, h.1)
  let old := s.parts.findSome? fun e => ((residentGangs e.2).find? fun g => quantumDue s e.1 g.2).map fun g => (e.1, g.2.id)
  let still (c : Channel) : Bool := !c.descs.isEmpty && !c.stalled && c.moved + 2000 ≤ s.now
  match again, old with
  | some (p, h), _ => some (after (execEvDispatchPeriodic p h s) s)
  | none, some (p, g) => some (after (execEvPreemptQuantum p g s) s)
  | none, none => dueAt (s.channels.find? fun e => still e.2) (fun e => execEvCollectiveStall e.1 s) s

/-- R367: an account that its core time has exhausted at this tick. -/
def dueCharge (s : State) : Option State :=
  (s.parts.findSome? fun e => (e.2.accounts.find? fun a => !exhausted e.2 a.1 && (accruedAccount s e.1 a.1).balance.toInt ≤ 0).map fun a => (e.1, a.1)).map
    fun x => accrue s x.1 x.2

/-- R360: hearths with a core that has become STALLED, and the bound on the withdrawal of filler gangs. -/
def dueStall (s : State) : Option State :=
  match s.parts.findSome? fun e => (stallChanged s e.1).map fun h => (e.1, h) with
  | some (p, h) => some (offerStall s p h)
  | none => dueAt (s.parts.find? fun e => e.2.withdraw.any fun t => t + 2000 ≤ s.now) (fun e => execEvFillerWithdrawal e.1 s) s

/-- R340: decisions that begin, at the first tick at which the interpreter is idle. -/
def dueDecision (s : State) : Option State :=
  dueAt (s.parts.find? fun e => e.2.interp.isNone && !e.2.events.isEmpty && !beginWaits s e.1) (fun e => execEvDecisionBegins e.1 s) s

/-- R380: fault records are written and posted, once everything that they list is visible. -/
def dueReport (s : State) : Option State := (s.parts.find? fun e => reportReady s e.1).map fun e => writeReport s e.1

/-- R186, R430: the bound on a core's restart after a wake event; during a clock step of its hearth it does not run. -/
def dueWake (s : State) : Option State :=
  dueAt (s.cores.find? fun e => e.2.stopped && !hearthStopped s (hearthOf e.1) && e.2.woken.any fun t => t + 40 ≤ s.now)
    (fun e => execEvCoreWake e.1 s) s

/-- R404, R419, R424, R430: the bounds on an interface's ERROR, a retrain, a drain and a clock step. -/
def dueBounds (s : State) : Option State :=
  let err (e : Nat × Partition) : Bool := e.2.tdisp.state == .error && !e.2.tdisp.acted && e.2.tdisp.since + 1000 ≤ s.now
  match s.parts.find? err, s.straits.find? (fun e => e.2.retraining.any fun t => t + 2000 ≤ s.now),
      s.drains.find? (fun d => d.since + 100000 ≤ s.now) with
  | some e, _, _ => some (after (execEvInterfaceError e.1 s) s)
  | none, some e, _ => some (after (execEvStraitRetrainDone e.1 s) s)
  | none, none, some d => some (after (execEvDieResetDrainEnds d.die s) s)
  | none, none, none => dueAt (s.hearths.find? fun e => e.2.pend && e.2.since + 1500 ≤ s.now) (fun e => execEvStepChangeDone e.1 s) s

/-- R225, R337: a core that holds no gang takes its partition's split at once, and gangs may fit there. -/
def dueSplit (s : State) : Option State :=
  let waits (e : Nat × Partition) (c : Nat) : Bool := holdsHearth e.2 (hearthOf c) && splitReady s c e.2.spsize
  let cores (x : Partition) : List Nat :=
    if x.spsize = 0 then s.cores.map fun k => k.1 else (heldHearths x).flatMap fun h => (List.range 4).map fun i => 4 * h + i
  (s.parts.findSome? fun e => ((cores e.2).find? (waits e)).map fun c => (e.1, c)).map
    fun x => reoffer (after (execEvSpsizeTakesEffect x.2 s) s) x.1 0

/-- R434: the bound on the sending of a period's record. -/
def dueTelemetry (s : State) : Option State :=
  let m (k : Nat) : Nat := Config.measure s.fresh k
  let measured : Measures := { pavg := BitVec.ofNat 16 (m 0), pfill := BitVec.ofNat 16 (m 1), tmax := BitVec.ofNat 16 (m 2),
                               tcool := BitVec.ofNat 16 (m 3), energy := BitVec.ofNat 64 (m 4) }
  dueAt (s.telWait.find? fun t => t.pstart + Config.telemetryPeriod + 10000 ≤ s.now)
    (fun _ => execEvTelemetryRecord measured { s with fresh := s.fresh + 1 }) s

/-- R197, R431: the bound on a commit to signed flash. -/
def dueFlash (s : State) : Option State :=
  dueAt (s.uncommitted.find? fun e => e.2 + 1000000 ≤ s.now)
    (fun e => execEvSignedFlashCommit (if e.1 == 8 then .pwrctl else .qcfg e.1) s) s

/-- What is due at this tick, in order: a SQUASH comes before a release (R201, R213). -/
def due (s : State) : Option State :=
  [duePeriod, dueRoute, dueResults, dueSensor, dueMessage, dueBeat, dueRelease, dueMsix, dueNeighbour, dueClose, dueClear, dueUnreleased, dueSegment, dueCredit,
    dueSplit, dueRefill, dueCharge, duePush, dueEvents, dueStall, dueDecision, dueReport, dueWake, dueFlash, dueTelemetry, dueBounds].findSome? fun f => f s

/-- R341: the cycles of a decision instruction. -/
def decisionCost : Instr → Option Nat
  | .dDsp _ _ m _ => some (1 + modeCost m)
  | .dFill _ _ m _ => some (1 + modeCost m)
  | .dRetry _ m _ => some (1 + modeCost m)
  | .dPre _ => some 1
  | .dPark => some 1
  | .dKill => some 1
  | .dSusp => some 1
  | .dGrant => some 1
  | .dHold => some 1
  | _ => none

/-- R340, R341: the interpreter's next instruction runs at this tick: a decision is performed on the tick after the last
cycle of its run, an overrun's fallback on the tick after the last cycle that executed. -/
def damperReady (s : State) (p : Nat) (i : Interp) : Bool :=
  if damperOver i then i.began + i.cycles ≤ s.now && !decisionWaits s p i none
  else match decodeDamper (i.policy.getD i.pc 0) (i.policy.getD (i.pc + 1) 0) with
    | .error _ => i.began + i.cycles ≤ s.now
    | .ok (x, _) => match decisionCost x with
      | some n => i.began + i.cycles + n ≤ s.now && !decisionWaits s p i (decisionQueue i)
      | none => true

/-- The partition whose interpreter runs at this tick. -/
def damperDue (s : State) : Option Nat := (s.parts.find? fun e => e.2.interp.any (damperReady s e.1)).map fun e => e.1

end Sys2Proof.Machine
end

