-- ==== Sys2Proof/Machine/Upsets.lean ====
section
/-! DEFINITION. What comes from outside and is no row of the table (DESIGN CHOICE, log 14): physical errors (R37, R38, R250, R412), a host's
accesses of configuration space and reads of registers (R384, R391, R402, R403), and MSI-X messages (R392). -/

namespace Sys2Proof.Machine

open Sys2Proof

/-- R38: an error in a lane word that no read has found yet. -/
def markError (key : Nat) (x : LaneSide) : LaneSide := if x.verr.contains key then x else { x with verr := key :: x.verr }

/-- R37, R38: an uncorrectable error in a scalar register, in the checkpoints that share it too; s0 is no register. -/
def strikeScalar (reg : Nat) (t : Strand) : Strand :=
  let m (x : ScalarSide) : ScalarSide := if reg = 0 || x.spoison.contains reg then x else { x with spoison := reg :: x.spoison }
  let rs := t.regions.foldr (fun r acc =>
    if acc.2 && !r.scalars.contains reg then (({ r with head := m r.head } : Region) :: acc.1, true) else (r :: acc.1, false)) ([], true)
  { t with sc := m t.sc, regions := rs.1 }

/-- R411: the source of a memory error: the L2 of a near isle, or an isle. -/
def memorySource (isle : Nat) (l2 : Option Nat) : BitVec 16 :=
  match l2 with
  | some n => errSource 3 n
  | none => if isle < 12 then errSource 3 isle else if isle < 14 then errSource 4 (isle - 12) else errSource 5 0

/-- R37, R38, R384, R391, R392, R403, R412: what a happening from outside leaves. -/
def strike (u : Upset) (s : State) : State :=
  match u with
  | .lane c l reg lane => modStrand s c l fun t => if reg < 768 && lane < 64 then markWord (markError (64 * reg + lane)) reg t else t
  | .scalar c l reg => modStrand s c l fun t => if reg < 128 then strikeScalar reg t else t
  | .mailbox c l n => modStrand s c l fun t =>
    if n < 8 then { t with sc := { t.sc with mpoison := t.sc.mpoison ||| ((1 : BitVec 8) <<< n) } } else t
  | .corrected c => modCore s c fun k => { k with corrected := k.corrected + 1 }
  | .memory a l2 =>
    if s.poison.contains (a / 128) then s
    else raiseErrorAt { s with poison := (a / 128) :: s.poison } 0x02 1 (memorySource (isleOf a) l2) s.now (BitVec.ofNat 64 a) none 1
      (if l2.isSome then 1 else 0)
  | .memoryCorrected isle l2 => mergeError s 0x01 (memorySource isle l2) (if l2.isSome then 1 else 0)
  | .configRead h part reg => configRead h part reg s
  | .configWrite h part reg v => configWrite h part reg v s
  | .registerRead h part off => registerRead h part off s
  | .msix port p =>
    if port < 2 && p < 16 then modPort s port fun q => { q with messages := q.messages ++ [(p, s.nextId)] } else s

end Sys2Proof.Machine
end

