-- ==== Sys2Proof/Machine/Step.lean ====
section
/-! DEFINITION. The step: the next move of `State.turns`, or the passing of a tick (DESIGN CHOICE, log 2); and the state in which the
next step runs a given instruction (DESIGN CHOICE, log 4). -/

namespace Sys2Proof.Machine

open Sys2Proof

/-- What an agent does at its turn, performed. -/
def runNext (n : Next) (s : State) : Out :=
  match n with
  | .instr i => exec i s
  | .clauseStart c l => execEvClauseStart c l s
  | .reserved st cause => execEvReservedEncoding st cause s
  | .fetchFault st => execEvInstructionFetchFault st s
  | .openSegment c => execEvImplicitMeet c s
  | .meetReady c => execEvMeetWaitSatisfied c s
  | .overrun p => execEvDamperOverrun p s

/-- What follows the move of an agent: its issue is noted, and no agent is selected. -/
def settleNext (a : Agent) (n : Next) (r : Out) : Out :=
  match r with
  | .next s =>
    let t := match n with
      | .instr i => afterIssue a (transferSlot i) s
      | .reserved _ _ => afterIssue a false s
      | .fetchFault _ => afterIssue a false s
      | _ => s
    .next { t with agent := .none }
  | .fault f => .fault f
  | .refused r => .refused r

/-- The move of an agent, which keeps the translations of its fetch (R398); one that may not issue does nothing. -/
def stepAgent (a : Agent) (s : State) : Out :=
  match grantedNext { s with agent := a } a with
  | none => .next { s with agent := .none }
  | some n => settleNext a n (runNext n (keepFetch { s with agent := a } a))

/-- R432: the limiter's interval of a tick that passes, if no event has held it. -/
def closeInterval (s : State) : State :=
  if s.now % 1000 = 0 && !(s.ramp.level.isSome && s.ramp.last == s.now) then
    { s with fresh := s.fresh + 1, ramp := rampNext s (Config.powerDemand s.fresh) }
  else s

/-- A tick passes, once what is due at it has happened (DESIGN CHOICE, log 10). -/
def tick (s : State) : Out :=
  match due s with
  | some t => .next t
  | none => match damperDue s with
    | some p => stepAgent (.damper p) s
    | none => .next { closeInterval s with now := s.now + 1 }

/-- The next move of `State.turns`. -/
def runTurn (s : State) : Out :=
  match s.turns with
  | [] => tick s
  | .tick :: rest => tick { s with turns := rest }
  | .event i :: rest => exec i { s with turns := rest, agent := .none }
  | .reads c :: rest => .next (readsBegin c { s with turns := rest, agent := .none })
  | .upset u :: rest => .next (strike u { s with turns := rest, agent := .none })
  | .agent a :: rest => stepAgent a { s with turns := rest }

/-- One step of the module. What is due at a tick happens before anything else at it: a squash and a release come before a
read at the same tick (R201, R213, R267). -/
def step (s : State) : Out :=
  match due s with
  | some t => .next t
  | none => runTurn s

/-! ### Placing one instruction (DESIGN CHOICE, log 4) -/

/-- The launch record of the strand that `withFetchWord` places: scalar code at 0, lane units at 0x1000, matrix code at
0x2000, of one block of one strand with every lane register. -/
def fetchRecord : LaunchRec :=
  { scode := 0, lcode := 0x1000, mcode := 0x2000, ssize := 64, lunits := 8, munits := 4, gblocks := 1, bstr := 0, gang := 0, cores := false,
    prio := 0, queue := 0, vblk := 24, windows := 0, nslice := 0, scratch := 0, acct := 0, arg := 0, ctr := 0, amt := 0, saddr := 0,
    iqfirst := 0, iqcount := 0, sbase := 0, sstride := 0, spool := 0, parent := 0, slots := [] }

/-- Its gang, on core 0. -/
def fetchGang : Gang :=
  { id := 1, index := 0, first := 0, count := 1, state := .resident, core := 0, placed := 0, quantum := 0, filler := false, retries := 0,
    strands := [], blocks := [], hold := false, fault := none }

/-- Its grid. -/
def fetchGrid : Grid :=
  { part := 0, launch := 1, record := fetchRecord, depth := 1, compat := false, arrived := 0, gangs := [fetchGang], slices := [], pool := 0,
    cursor := 0, returned := [], gwct := 0, parked := false, killed := false, report := none, code := none, step := 0, children := 0 }

/-- Its block. -/
def fetchBlock : Block :=
  { part := 0, grid := 1, gang := 1, number := 0, gidx := 0, gsize := 1, bsize := 1, core := 0, area := 4096, windows := 0, scratch := [],
    wins := [], chunks := [], cursors := [], saved := none }

/-- The page that holds its code. -/
def fetchTrans : Trans := { part := 0, vbase := 0, size := 65536, pbase := 0, w := true, x := true, lease := 2 ^ 63 }

/-- A strand placed on core 0, at its first instruction. -/
def fetchStrand (s : State) : Strand :=
  startStrand 0 fetchGrid 1 1 0 { startSide fetchRecord false 0 0 0x8000 with spc := 4 } 0x8000 s.now

/-- A machine with that strand in slot 0 of core 0, in partition 0, whose translation is on. -/
def withStrand (s : State) : State :=
  let t := fetchStrand s
  let s1 := modPart s 0 fun x => 
    { x with record := (List.range 16).map (fun i => (i, -1)), grids := [fetchGrid], ptroot := 1 }
  let s2 := modCore { s1 with blocks := mset s1.blocks 1 fetchBlock } 0 fun k => { k with tlb := [fetchTrans] }
  putStrand { s2 with nextId := s2.nextId + 2 } 0 0 { t with regions := [startRegion s2 t] }

/-- A clause of the strand that runs, at its first instruction. -/
def fetchClause (s : State) : Running :=
  { entry := { clause := 0, exec := -1, ks := [], seq := 0, region := s.nextId, header := none, remat := false },
    header := { wait := 0, flagA := 15, flagB := 15, len := 0, mbox := 0xFF }, index := 1 }

/-- Where a word of a number of bits is fetched, and by whom: a lane word if it decodes as one, else a matrix word. -/
def fetchPlace (nbits w : Nat) : Nat × Agent :=
  if nbits ≤ 32 then (4, .scalar 0 0)
  else match decodeLane (BitVec.ofNat 96 w) with
    | .ok _ => (0x1000 + 12, .lane 0 0)
    | .error _ => match decodeMatrix (BitVec.ofNat 96 w) with
      | .ok _ => (0x2000, .matrix 0)
      | .error _ => (0x1000 + 12, .lane 0 0)

/-- A machine whose next step runs a word of the scalar, lane or matrix stream. -/
def withWord (s : State) (nbits w : Nat) : State :=
  let x := fetchPlace nbits w
  let s1 := withStrand s
  let s2 := modStrand s1 0 0 fun t => { t with st := { queue := [], current := some (fetchClause s) } }
  let s3 := modCore s2 0 fun k => { k with griddle := { Griddle.reset with held := true, holder := 1, run := true, segs := [newSegment s1 0 0 none [] 1] } }
  let s4 := match x.2 with
    | .lane _ _ => s2
    | .matrix _ => { s3 with nextId := s3.nextId + 1 }
    | _ => s1
  { s4 with mem := memWrite s4.mem x.1 (if nbits ≤ 32 then 4 else 12) w, turns := [.agent x.2], now := s.now + 1 }

/-- A machine whose next step runs the words of a policy. -/
def withPolicy (s : State) (w : Nat) : State :=
  let ws : List (BitVec 16) := [BitVec.ofNat 16 w, BitVec.ofNat 16 (w / 2 ^ 16)]
  let i : Interp := { regs := [], eq := false, ltn := false, lts := false, pc := 0, cycles := 0, began := s.now, event := plainEvent s 0 0 0,
                      view := [], policy := ws }
  { modPart s 0 (fun x => { x with policy := ws, interp := some i }) with now := s.now + 2, turns := [.agent (.damper 0)] }

/-- The state in which the next step fetches and runs the instruction whose bits are `w` (DESIGN CHOICE, log 4). -/
def State.withFetchWord (s : State) (nbits w : Nat) : State := if nbits ≤ 16 then withPolicy s w else withWord s nbits w

end Sys2Proof.Machine
end

