-- ==== Sys2Proof/Safety.lean ====
section
/-! DEFINITION. What counts as a safe run of the module, in the terms that claims use. -/

namespace Sys2Proof.Machine

open Sys2Proof

/-- An outcome is a next state: the machine neither faults nor refuses. -/
def Out.goesOn : Out → Bool
  | .next _ => true
  | .fault _ => false
  | .refused _ => false

/-- An event of the table: it needs no agent, and is named by a turn of its own (DESIGN CHOICE, log 2). -/
def isEvent (i : Instr) : Bool := encode i == .none

/-- A turn that the machine can take: an agent's move, the passing of a tick, or an event. -/
def Turn.legal : Turn → Bool
  | .agent _ => true
  | .tick => true
  | .upset _ => true
  | .reads _ => true
  | .event i => isEvent i

/-- A state whose turns can all be taken. -/
def State.legal (s : State) : Prop := ∀ t ∈ s.turns, t.legal = true

/-- `t` is reached from `s` in `n` steps. -/
def reaches (n : Nat) (s t : State) : Prop := Host.Core.run core n s = .next t

/-- A safe run: none of its first `n` steps stops the machine. -/
def safeFor (n : Nat) (s : State) : Prop := ∃ t, reaches n s t

/-- The memory of a state is in its canonical form (DESIGN CHOICE, log 1). -/
def State.memCanonical (s : State) : Prop := s.mem.wf = true

/-! ### A scalar instruction that goes ahead -/

/-- The scalar side of strand `t`, in slot `l` of core `c`, is running, and nothing makes an instruction that reads the
registers `rs` and writes register `d` wait or trap before it acts: no load or token is awaited in those registers
(R254, R271), a rename unit is free (R209), and no source holds an uncorrectable error (R38). -/
structure ScalarReady (s : State) (c l : Nat) (t : Strand) (rs : List Nat) (d : Nat) : Prop where
  agent   : s.agent = .scalar c l
  strand  : strandAt s c l = some t
  loads   : ∀ r ∈ d :: rs, loadPending t r = false
  tokens  : ∀ e ∈ t.tpend, e.1 ∉ d :: rs
  units   : scalarReserveShort s c t [d] = false
  sound   : ∀ r ∈ rs, r ≠ 0 → r ∉ t.sc.spoison

/-- From `s` to `s'` nothing has changed outside the strand in slot `l` of core `c`, but for performance counts: every
other strand, memory, the blocks and their scratch, the cores, the homes, the hub, the engines and every other register
of the module are as they were. -/
structure OnlyStrand (s s' : State) (c l : Nat) : Prop where
  others : ∀ k, k ≠ skey c l → mget s'.strands k = mget s.strands k
  rest   : { s' with strands := s.strands, parts := s.parts } = s
  parts  : ∀ p, { partAt s' p with accounts := (partAt s p).accounts } = partAt s p

/-- Between `t` and `t'` a strand has changed in its scalar side alone, but for the bookkeeping of the head (its list
of renamed registers and counts) and of waiting. The lane side, the clause queue, outstanding operations, held traps,
copy batches and everything else are as they were. -/
def OnlyScalar (t t' : Strand) : Prop :=
  { t' with sc := t.sc, regions := t.regions, swait := t.swait, sphase := t.sphase } = t

/-- An instruction of strand `t` retires with the scalar side `x`: the strand holds `x` with the sequence counter one
further (R98), its side waits for nothing, and nothing else has changed. -/
structure Retires (s s' : State) (c l : Nat) (t : Strand) (x : ScalarSide) : Prop where
  only   : OnlyStrand s s' c l
  strand : ∃ t', strandAt s' c l = some t' ∧ OnlyScalar t t' ∧ t'.swait = .none ∧ t'.sc = { x with seq := x.seq + 1 }

/-- The scalar side `x` differs from `y` in register `d`, which holds `v`, and in SPC alone: every other scalar register,
EXEC, the constants, the mailboxes, the path stack and the other registers of the strand are as they were. A write to s0
is discarded (R24). -/
structure WritesReg (y x : ScalarSide) (d : Nat) (v pc : Word) : Prop where
  regs   : ∀ r, sget x r = if r = d ∧ d ≠ 0 then v else sget y r
  poison : ∀ r, r ∈ x.spoison ↔ r ∈ y.spoison ∧ (r ≠ d ∨ d = 0)
  spc    : x.spc = pc
  rest   : { x with sregs := y.sregs, spoison := y.spoison, spc := y.spc } = y

/-- R99, R141, R206: an instruction of strand `t` takes a trap with the record `r`, held under `region` and resuming at
`resume` (R376). The trap joins those held, both sides stop, every region of the strand is closed, a `graft` or `claim` that
waited has ended (R286), and nothing else has changed: no register, no memory, no other strand. It is deliverable at once when
every region up to its own had cleared. -/
structure TakesTrap (s s' : State) (c l : Nat) (t : Strand) (r : TrapRec) (region : Nat) (resume : Word) : Prop where
  only   : OnlyStrand (endGraft s c l) s' c l
  strand : ∃ t', strandAt s' c l = some t' ∧ t'.stopped = true ∧ t'.collects = false ∧ t'.grafting = none ∧ (∀ x ∈ t'.regions, x.close ≠ none)
    ∧ (∃ h, t'.traps = t.traps ++ [h] ∧ h.record = r ∧ h.kind = .own ∧ h.region = region ∧ h.resume = resume
        ∧ (h.ready = if t.regions.all (fun x => x.id > region || x.cleared) then some s.now else none))
    ∧ { t' with regions := t.regions, traps := t.traps, stopped := t.stopped, grafting := t.grafting, swait := t.swait, lwait := t.lwait,
                collects := t.collects } = t

/-- R375: the record of a trap of a scalar instruction at `pc`. -/
def scalarRecord (code detail : Nat) (pc : Word) : TrapRec :=
  { code := BitVec.ofNat 8 code, stream := .scalar, detail := BitVec.ofNat 16 detail, index := 0, place := pc, lanes := 0, faddr := 0 }

/-- A scalar instruction of strand `t` takes the trap `code` and resumes at itself. -/
def TakesScalarTrap (s s' : State) (c l : Nat) (t : Strand) (code detail : Nat) : Prop :=
  TakesTrap s s' c l t (scalarRecord code detail t.sc.spc) (lastId t) t.sc.spc

/-! ### The path stack (R112, R114) -/

/-- R112: a path without lanes, which a pop passes over. -/
def PathEntry.empty (e : PathEntry) : Prop := e.join = false ∧ e.mask = 0

/-- R112: popping from `x` gives `y`: the topmost entry that is no path without lanes is taken, with what stood above
it; EXEC and SPC come from it. -/
def Pops (compat : Bool) (x y : ScalarSide) : Prop :=
  ∃ below e above, x.path = below ++ e :: above ∧ ¬ e.empty ∧ (∀ a ∈ above, a.empty)
    ∧ y = { x with path := below, exec := execMask compat e.mask, spc := e.addr }

/-- R114: demoting `x` to the target `a` gives `y`. Paths that wait above the topmost JOIN run before it: the strand's
own path goes below them, and a pop follows; where none waits, the path goes on at the target. -/
def Demotes (compat : Bool) (x y : ScalarSide) (a : Word) : Prop :=
  ∃ below above, x.path = below ++ above ∧ (∀ e ∈ above, e.join = false) ∧ (∀ e ∈ below.getLast?, e.join = true)
    ∧ ((above = [] ∧ y = { x with spc := a, demote := false })
      ∨ (above ≠ [] ∧ ∃ z, Pops compat { x with path := below ++ { mask := x.exec, addr := a, join := false } :: above } z
          ∧ y = { z with demote := false }))

/-! ### A lane instruction that goes ahead -/

/-- A lane instruction of strand `t` on core `c`, in the clause `r`, with its active lanes (R13, R27). -/
def laneCtx (c l : Nat) (t : Strand) (r : Running) (f : LaneFields) : LaneCtx :=
  { core := c, slot := l, t := t, run := r, mask := activeLanes t r f }

/-- The lane side of strand `t`, in slot `l` of core `c`, is running clause `r`, and nothing makes an instruction with the fields
`f`, used as `u` says, trap or wait before it acts: the word is an instruction (R61), its operands, modifiers and register
bounds pass the checks of R62, none of its registers is pending (R18), a rename unit is free (R209), no source that it
reads is poisoned, and none that its inactive lanes hold has an error to record (R38). -/
structure LaneReady (u : LaneUse) (f : LaneFields) (s : State) (c l : Nat) (t : Strand) (r : Running) : Prop where
  agent   : s.agent = .lane c l
  strand  : strandAt s c l = some t
  current : t.st.current = some r
  word    : laneReject f = none
  checks  : laneChecks u (laneCtx c l t r f) f = none
  pending : operandPending u (laneCtx c l t r f) f = false
  units   : laneUnits s c + (newLanes u (laneCtx c l t r f) f).length ≤ 4096
  sound   : poisonLanes u (laneCtx c l t r f) f = []
  clean   : unconsumed u (laneCtx c l t r f) f = [] ∧ idleErrors u u.apart (laneCtx c l t r f) f = []

/-- A lane instruction of clause `r` retires: the clause goes on to its next instruction, or has ended (R14); the strand waits
for nothing on its lane side, and nothing has changed but the lane side, the bookkeeping of regions, and the part of the
scalar side that `sc` gives. -/
structure LaneRetires (s s' : State) (c l : Nat) (t t' : Strand) (r : Running) : Prop where
  only   : OnlyStrand s s' c l
  strand : strandAt s' c l = some t'
  clause : t'.st = { t.st with current := if r.index ≤ r.header.len.toNat then some { r with index := r.index + 1 } else none }
  idle   : t'.lwait = .none ∧ t'.lphase = .idle
  rest   : { t' with ln := t.ln, st := t.st, sc := t.sc, regions := t.regions, lwait := t.lwait, lphase := t.lphase } = t

/-- R13, R136: between `a` and `b` the destination register of each active lane has taken its value, the low word in the named
register and, of a pair, the high word in the next; every other word of every lane register, every predicate and every
index register is as it was. -/
structure WritesLanes (x : LaneCtx) (f : LaneFields) (wide : Bool) (v : Nat → Nat) (a b : LaneSide) : Prop where
  low   : ∀ l ∈ x.lanes, mgetD b.vregs (64 * regIn x.t f f.vd.toNat l + l) 0 = BitVec.ofNat 32 (v l)
  high  : wide = true → ∀ l ∈ x.lanes, mgetD b.vregs (64 * (regIn x.t f f.vd.toNat l + 1) + l) 0 = BitVec.ofNat 32 (v l / 2 ^ 32)
  other : ∀ q, (∀ l ∈ x.lanes, q ≠ 64 * regIn x.t f f.vd.toNat l + l ∧ (wide = true → q ≠ 64 * (regIn x.t f f.vd.toNat l + 1) + l)) →
    mgetD b.vregs q 0 = mgetD a.vregs q 0 ∧ (q ∈ b.vpoison ↔ q ∈ a.vpoison) ∧ (q ∈ b.verr ↔ q ∈ a.verr)
  rest  : { b with vregs := a.vregs, vpoison := a.vpoison, verr := a.verr } = a

/-- R27, R158: between `a` and `b` predicate `d` has taken its value in each active lane; in every other lane it, and every
other predicate, lane register and index register, is as it was. A write to p0 is discarded. -/
structure WritesPred (x : LaneCtx) (d : Nat) (v : Nat → Bool) (a b : LaneSide) : Prop where
  value : ∀ l, l < 64 → (predMask b d).getLsbD l = if d ≠ 0 ∧ l ∈ x.lanes then v l else (predMask a d).getLsbD l
  other : ∀ p, p ≠ d → mget b.preds p = mget a.preds p
  rest  : { b with preds := a.preds } = a

end Sys2Proof.Machine
end

