-- ==== Sys2Proof/WellFormed.lean ====
section
/-! DEFINITION. Well-formed instructions: those the spec gives an encoding without a reserved code
(spec/02 R42 to R60). An event has no encoding and nothing to check. -/

namespace Sys2Proof

/-- The fields of this lane constructor are a legal word of it (R48 to R53). -/
def laneWellFormed (f : LaneFields) (i : Instr) : Bool := laneReject f == none && laneInstr f == some i

/-- The fields of this matrix constructor are a legal word of it (R57, R297). -/
def matrixWellFormed (f : LaneFields) (i : Instr) : Bool := matrixReject f == none && matrixInstr f == some i

/-- R58: the MODE and SRC of a damper word; `x` is the extension, 0 when there is none. -/
def damperWellFormed (s : BitVec 4) (m : BitVec 2) (x : BitVec 16) : Bool :=
  m != 3 && (if m == 2 then s == 0 else x == 0)

/-- An instruction that has an encoding, with no reserved code in it. -/
def WellFormed (i : Instr) : Bool :=
  match i with
  | .sadd _ _ _ => true
  | .saddImm _ _ _ => true
  | .ssub _ _ _ => true
  | .smul _ _ _ => true
  | .smulhI64 _ _ _ => true
  | .smulhN64 _ _ _ => true
  | .sdivI64 _ _ _ => true
  | .sdivN64 _ _ _ => true
  | .sremI64 _ _ _ => true
  | .sremN64 _ _ _ => true
  | .sand _ _ _ => true
  | .sandImm _ _ _ => true
  | .sor _ _ _ => true
  | .sorImm _ _ _ => true
  | .sxor _ _ _ => true
  | .sxorImm _ _ _ => true
  | .sandn _ _ _ => true
  | .sshl _ _ _ => true
  | .sshlImm _ _ _ => true
  | .sshr _ _ _ => true
  | .sshrImm _ _ _ => true
  | .ssra _ _ _ => true
  | .ssraImm _ _ _ => true
  | .sminI64 _ _ _ => true
  | .smaxI64 _ _ _ => true
  | .sminN64 _ _ _ => true
  | .smaxN64 _ _ _ => true
  | .sclz _ _ => true
  | .spopc _ _ => true
  | .smov _ _ => true
  | .ssel _ _ _ => true
  | .smovMailbox _ _ => true
  | .scmp _ _ _ c => conditionOk c
  | .sli _ _ => true
  | .slui _ _ => true
  | .sbEq _ _ _ => true
  | .sbNe _ _ _ => true
  | .sbLt _ _ _ => true
  | .sbGe _ _ _ => true
  | .sbLtn _ _ _ => true
  | .sbGen _ _ _ => true
  | .pqpush _ _ => true
  | .pqjoin _ => true
  | .sj _ => true
  | .scall _ => true
  | .lrun _ => true
  | .sjr _ => true
  | .scallr _ => true
  | .sret => true
  | .exit => true
  | .sexec _ => true
  | .pqnext => true
  | .pqsave _ => true
  | .pqload _ => true
  | .syield => true
  | .lk _ _ => true
  | .lwait _ => true
  | .region _ => true
  | .iqloop p v _ => 1 ≤ p.toNat && p.toNat ≤ 23 && v.toNat < 768
  | .mark _ => true
  | .cut d _ => d != 0
  | .glaunch _ _ => true
  | .stime _ => true
  | .srd _ n => readableNumber n
  | .swr _ n => writableNumber n
  | .trap _ => true
  | .brk _ => true
  | .meet _ _ => true
  | .nop => true
  | .sld _ _ _ s h => s != 7 && h.toNat ≤ 5
  | .sldAcquire _ _ _ s c => s != 7 && scopeOk c
  | .sst _ _ _ s h => !s.getLsbD 0 && h.toNat ≤ 3
  | .sstRelease _ _ _ s c => !s.getLsbD 0 && scopeOk c
  | .fence k c => k != 0 && scopeOk c
  | .cadd _ _ c => scopeOk c
  | .cwait _ _ c => scopeOk c
  | .cread _ _ => true
  | .cpy _ _ b => groupOk b 3
  | .cpy2d _ _ b => groupOk b 6
  | .cseal _ => true
  | .wmap _ _ b m => groupOk b 2 && m != 3
  | .wunmap _ => true
  | .wflush _ => true
  | .winval _ => true
  | .claim _ _ => true
  | .xcoll _ _ => true
  | .graft _ _ => true
  | .sfree _ => true
  | .sinfo _ _ => true
  | .mres _ => true
  | .mrel => true
  | .mrun _ => true
  | .vadd f => laneWellFormed f (.vadd f)
  | .vsub f => laneWellFormed f (.vsub f)
  | .vmul f => laneWellFormed f (.vmul f)
  | .vmulHi f => laneWellFormed f (.vmulHi f)
  | .vmad f => laneWellFormed f (.vmad f)
  | .vmin f => laneWellFormed f (.vmin f)
  | .vmax f => laneWellFormed f (.vmax f)
  | .vand f => laneWellFormed f (.vand f)
  | .vor f => laneWellFormed f (.vor f)
  | .vxor f => laneWellFormed f (.vxor f)
  | .vnot f => laneWellFormed f (.vnot f)
  | .vshl f => laneWellFormed f (.vshl f)
  | .vshr f => laneWellFormed f (.vshr f)
  | .vsra f => laneWellFormed f (.vsra f)
  | .vbfe f => laneWellFormed f (.vbfe f)
  | .vbfi f => laneWellFormed f (.vbfi f)
  | .vpopc f => laneWellFormed f (.vpopc f)
  | .vclz f => laneWellFormed f (.vclz f)
  | .vbrev f => laneWellFormed f (.vbrev f)
  | .vsel f => laneWellFormed f (.vsel f)
  | .vmov f => laneWellFormed f (.vmov f)
  | .vli f => laneWellFormed f (.vli f)
  | .vliHi f => laneWellFormed f (.vliHi f)
  | .vfadd f => laneWellFormed f (.vfadd f)
  | .vfsub f => laneWellFormed f (.vfsub f)
  | .vfmul f => laneWellFormed f (.vfmul f)
  | .vffma f => laneWellFormed f (.vffma f)
  | .vfmin f => laneWellFormed f (.vfmin f)
  | .vfmax f => laneWellFormed f (.vfmax f)
  | .vfrcp f => laneWellFormed f (.vfrcp f)
  | .vfrsq f => laneWellFormed f (.vfrsq f)
  | .vfsqrt f => laneWellFormed f (.vfsqrt f)
  | .vfdiv f => laneWellFormed f (.vfdiv f)
  | .vfexp2 f => laneWellFormed f (.vfexp2 f)
  | .vflog2 f => laneWellFormed f (.vflog2 f)
  | .vfsin f => laneWellFormed f (.vfsin f)
  | .vfcos f => laneWellFormed f (.vfcos f)
  | .vfrnd f => laneWellFormed f (.vfrnd f)
  | .vffrac f => laneWellFormed f (.vffrac f)
  | .vfcls f => laneWellFormed f (.vfcls f)
  | .vicmp f => laneWellFormed f (.vicmp f)
  | .vfcmp f => laneWellFormed f (.vfcmp f)
  | .pand f => laneWellFormed f (.pand f)
  | .por f => laneWellFormed f (.por f)
  | .pxor f => laneWellFormed f (.pxor f)
  | .pnot f => laneWellFormed f (.pnot f)
  | .pmov f => laneWellFormed f (.pmov f)
  | .pmovFromLane f => laneWellFormed f (.pmovFromLane f)
  | .pmovToLane f => laneWellFormed f (.pmovToLane f)
  | .vdot4 f => laneWellFormed f (.vdot4 f)
  | .vfdot2 f => laneWellFormed f (.vfdot2 f)
  | .vcvtDec f => laneWellFormed f (.vcvtDec f)
  | .vcvtEnc f => laneWellFormed f (.vcvtEnc f)
  | .vpk f => laneWellFormed f (.vpk f)
  | .vupk f => laneWellFormed f (.vupk f)
  | .vscl f => laneWellFormed f (.vscl f)
  | .vshfl f => laneWellFormed f (.vshfl f)
  | .vbcast f => laneWellFormed f (.vbcast f)
  | .vbcastFirst f => laneWellFormed f (.vbcastFirst f)
  | .vscan f => laneWellFormed f (.vscan f)
  | .vballot f => laneWellFormed f (.vballot f)
  | .vballotCnt f => laneWellFormed f (.vballotCnt f)
  | .vred f => laneWellFormed f (.vred f)
  | .vmbox f => laneWellFormed f (.vmbox f)
  | .vmboxLast f => laneWellFormed f (.vmboxLast f)
  | .vlid f => laneWellFormed f (.vlid f)
  | .vixs f => laneWellFormed f (.vixs f)
  | .vld f => laneWellFormed f (.vld f)
  | .vldAcquire f => laneWellFormed f (.vldAcquire f)
  | .vst f => laneWellFormed f (.vst f)
  | .vstRelease f => laneWellFormed f (.vstRelease f)
  | .vlds f => laneWellFormed f (.vlds f)
  | .vsts f => laneWellFormed f (.vsts f)
  | .vatom f => laneWellFormed f (.vatom f)
  | .vatomCas f => laneWellFormed f (.vatomCas f)
  | .vredm f => laneWellFormed f (.vredm f)
  | .vpref f => laneWellFormed f (.vpref f)
  | .gmma f => matrixWellFormed f (.gmma f)
  | .gldb f => matrixWellFormed f (.gldb f)
  | .gclr f => matrixWellFormed f (.gclr f)
  | .gst f => matrixWellFormed f (.gst f)
  | .gmov f => matrixWellFormed f (.gmov f)
  | .gmovTr f => matrixWellFormed f (.gmovTr f)
  | .gmeet f => matrixWellFormed f (.gmeet f)
  | .gend f => matrixWellFormed f (.gend f)
  | .dLdq _ s m x => damperWellFormed s m x
  | .dLdt _ s m x => damperWellFormed s m x
  | .dLdh _ s m x => damperWellFormed s m x
  | .dLde _ s m x => damperWellFormed s m x
  | .dAdd _ s m x => damperWellFormed s m x
  | .dSub _ s m x => damperWellFormed s m x
  | .dMul _ s m x => damperWellFormed s m x
  | .dMin _ s m x => damperWellFormed s m x
  | .dMax _ s m x => damperWellFormed s m x
  | .dAnd _ s m x => damperWellFormed s m x
  | .dOr _ s m x => damperWellFormed s m x
  | .dXor _ s m x => damperWellFormed s m x
  | .dShl _ s m x => damperWellFormed s m x
  | .dShr _ s m x => damperWellFormed s m x
  | .dCmp _ s m x => damperWellFormed s m x
  | .dJf _ s m x => damperWellFormed s m x
  | .dBest _ s m x => damperWellFormed s m x
  | .dDsp _ s m x => damperWellFormed s m x
  | .dPre _ => true
  | .dPark => true
  | .dKill => true
  | .dRetry s m x => damperWellFormed s m x
  | .dSusp => true
  | .dGrant => true
  | .dFill _ s m x => damperWellFormed s m x
  | .dHold => true
  | .evClauseStart _ _ => true
  | .evLaneWriteLands _ _ _ => true
  | .evMemoryOperationCompletes _ _ _ => true
  | .evGwctCompletion _ => true
  | .evReleaseWaitEnds _ _ => true
  | .evCoreClockStop _ => true
  | .evCoreWake _ => true
  | .evEffectiveCloseDetermined _ _ _ => true
  | .evRegionCleared _ _ _ => true
  | .evRegionReleased _ _ _ => true
  | .evNeighbourWriteApplied _ _ => true
  | .evSensorEvent _ _ _ => true
  | .evSensorReportArrives _ => true
  | .evSensorSquash _ _ => true
  | .evHeldEffectArrives _ => true
  | .evPendingWriteAccepted _ => true
  | .evClose _ _ => true
  | .evSquash _ _ => true
  | .evHomeRelease _ => true
  | .evCreditReturned _ _ => true
  | .evHeartbeat _ => true
  | .evHeartbeatReceived _ _ => true
  | .evRegionResourceTrap _ _ => true
  | .evAtomicPerform _ _ => true
  | .evTrapDelivery _ _ => true
  | .evStrandSlotFreed _ _ => true
  | .evBlockGriddleRelease _ => true
  | .evGridRetire _ _ => true
  | .evCompletionStatusWrite _ _ => true
  | .evCompletionCounterAdd _ _ => true
  | .evSegmentCleared _ => true
  | .evImplicitMeet _ => true
  | .evMeetWaitSatisfied _ => true
  | .evCopyStart _ => true
  | .evCopyDataStaged _ => true
  | .evCopyChunkWrite _ => true
  | .evCopyCompletionAdd _ => true
  | .evBatchTokenWritten _ _ _ => true
  | .evFillRequest _ _ => true
  | .evL1FillLands _ _ => true
  | .evWindowFillLands _ _ => true
  | .evGenerationSweep _ => true
  | .evCounterWake _ _ => true
  | .evCounterRepoll _ _ => true
  | .evItemQueueRefill _ => true
  | .evDispatchPeriodic _ _ => true
  | .evPreemptQuantum _ _ => true
  | .evDecisionBegins _ => true
  | .evDamperOverrun _ => true
  | .evLoad _ _ => true
  | .evDamperLoadCheckDone _ => true
  | .evPreemptionRequest _ _ _ => true
  | .evContextSave _ _ => true
  | .evCollectiveStall _ => true
  | .evFillerWithdrawal _ => true
  | .evAccountRefill _ _ => true
  | .evAccountCharge _ _ => true
  | .evPeriodWrite _ _ _ _ => true
  | .evParkres _ _ _ => true
  | .evHalt _ _ => true
  | .evDebugResume _ _ => true
  | .evStep _ _ => true
  | .evQpush _ _ _ _ => true
  | .evQcfgWrite _ _ _ => true
  | .evSignedFlashCommit _ => true
  | .evSpcfgWrite _ _ _ => true
  | .evSpsizeTakesEffect _ => true
  | .evCommit _ _ => true
  | .evResourceHandover _ => true
  | .evTake _ => true
  | .evGive _ => true
  | .evHostLinkDown _ => true
  | .evHostPostedWrite _ _ _ _ => true
  | .evGrantMessage _ _ => true
  | .evHostPiecePerformed _ _ => true
  | .evAck _ _ => true
  | .evHostRead _ _ _ _ => true
  | .evCxlRead _ _ => true
  | .evCxlReadForOwnership _ _ => true
  | .evCxlWriteBack _ _ _ => true
  | .evBackInvalidationResponse _ _ => true
  | .evTranslationWalk _ _ _ => true
  | .evTranslationLeaseExpires _ => true
  | .evTunmap _ _ => true
  | .evMgo _ _ => true
  | .evMigrationSwitch _ => true
  | .evMigrationDrainEnds _ => true
  | .evLockInterfaceRequest _ _ => true
  | .evGetDeviceInterfaceReport _ _ => true
  | .evStartInterfaceRequest _ _ _ => true
  | .evStopInterfaceRequest _ _ => true
  | .evIdeStreamLoss _ => true
  | .evInterfaceError _ => true
  | .evStraitLaneFailure _ _ => true
  | .evStraitRetrainDone _ => true
  | .evStraitRetrain _ _ => true
  | .evCollectiveChunk _ _ => true
  | .evCollectiveCompletionAdd _ => true
  | .evCollectivePacketArrives _ _ _ => true
  | .evGabort _ _ => true
  | .evAbortToken _ _ => true
  | .evErrnext _ => true
  | .evRgo _ => true
  | .evRetirementConfirmed => true
  | .evModuleReset _ => true
  | .evComputeDieReset _ _ => true
  | .evDieResetDrainEnds _ => true
  | .evPtpLock _ => true
  | .evPtpLockLost => true
  | .evPtpoffReplaced _ => true
  | .evTstatRead _ => true
  | .evStepRegisterWrite _ _ _ => true
  | .evStepChangeDone _ => true
  | .evPwrctlWrite _ _ => true
  | .evRampInterval _ => true
  | .evTelemetryRecord _ => true
  | .evTimingReplay _ => true
  | .evFwgo _ => true
  | .evFirmwareVerifyDone => true
  | .evAct _ => true
  | .evRegisterWrite _ _ _ => true
  | .evReservedEncoding _ _ => true
  | .evInstructionFetchFault _ => true
  | .evPcieAtomicopCompletion _ _ _ => true
  | .evPtpOffsetMeasurement _ => true

end Sys2Proof
end

