-- ==== Sys2Proof/Certificates/Slice0/Obligations.lean ====
section
/-! DEFINITION. The statements of this model for the provers, each an obligation of its own, with the tables and shapes
that they are stated in. -/

namespace Sys2Proof.Machine

open Sys2Proof

/-! ### Scalar arithmetic (spec/04 R100 to R104) -/

/-- R100, R103, R104: the registers an arithmetic instruction reads, the register it writes, and the value it gives it. -/
def scalarResult : Instr → Option (List Nat × BitVec 7 × (ScalarSide → Word))
  | .sadd d a b => some ([a.toNat, b.toNat], d, fun x => sget x a.toNat + sget x b.toNat)
  | .saddImm d a i => some ([a.toNat], d, fun x => sget x a.toNat + i.signExtend 64)
  | .ssub d a b => some ([a.toNat, b.toNat], d, fun x => sget x a.toNat - sget x b.toNat)
  | .smul d a b => some ([a.toNat, b.toNat], d, fun x => sget x a.toNat * sget x b.toNat)
  | .smulhI64 d a b => some ([a.toNat, b.toNat], d, fun x => BitVec.ofInt 64 ((sget x a.toNat).toInt * (sget x b.toNat).toInt / 2 ^ 64))
  | .smulhN64 d a b => some ([a.toNat, b.toNat], d, fun x => BitVec.ofNat 64 ((sget x a.toNat).toNat * (sget x b.toNat).toNat / 2 ^ 64))
  | .sand d a b => some ([a.toNat, b.toNat], d, fun x => sget x a.toNat &&& sget x b.toNat)
  | .sandImm d a i => some ([a.toNat], d, fun x => sget x a.toNat &&& i.signExtend 64)
  | .sor d a b => some ([a.toNat, b.toNat], d, fun x => sget x a.toNat ||| sget x b.toNat)
  | .sorImm d a i => some ([a.toNat], d, fun x => sget x a.toNat ||| i.signExtend 64)
  | .sxor d a b => some ([a.toNat, b.toNat], d, fun x => sget x a.toNat ^^^ sget x b.toNat)
  | .sxorImm d a i => some ([a.toNat], d, fun x => sget x a.toNat ^^^ i.signExtend 64)
  | .sandn d a b => some ([a.toNat, b.toNat], d, fun x => sget x a.toNat &&& ~~~(sget x b.toNat))
  | .sminI64 d a b => some ([a.toNat, b.toNat], d, fun x => BitVec.ofInt 64 (min (sget x a.toNat).toInt (sget x b.toNat).toInt))
  | .smaxI64 d a b => some ([a.toNat, b.toNat], d, fun x => BitVec.ofInt 64 (max (sget x a.toNat).toInt (sget x b.toNat).toInt))
  | .sminN64 d a b => some ([a.toNat, b.toNat], d, fun x => BitVec.ofNat 64 (min (sget x a.toNat).toNat (sget x b.toNat).toNat))
  | .smaxN64 d a b => some ([a.toNat, b.toNat], d, fun x => BitVec.ofNat 64 (max (sget x a.toNat).toNat (sget x b.toNat).toNat))
  | .sclz d a => some ([a.toNat], d, fun x => BitVec.ofNat 64 (((List.range 64).takeWhile fun i => !(sget x a.toNat).getMsbD i).length))
  | .spopc d a => some ([a.toNat], d, fun x => BitVec.ofNat 64 (((List.range 64).filter fun i => (sget x a.toNat).getLsbD i).length))
  | .smov d a => some ([a.toNat], d, fun x => sget x a.toNat)
  | .sli d i => some ([], d, fun _ => i.signExtend 64)
  | .slui d i => some ([d.toNat], d, fun x => (sget x d.toNat * 2 ^ 19) ||| i.setWidth 64)
  | .ssel d a b => some ([d.toNat, a.toNat, b.toNat], d, fun x => if sget x d.toNat = 0 then sget x b.toNat else sget x a.toNat)
  | _ => none

/-- R45: a condition holds between two words. -/
def Condition (code : Nat) (a b : Word) : Prop :=
  match code with
  | 0 => a = b
  | 1 => a ≠ b
  | 2 => a.toInt < b.toInt
  | 3 => a.toInt ≥ b.toInt
  | 4 => a.toNat < b.toNat
  | _ => a.toNat ≥ b.toNat

/-- The goal of a scalar instruction that writes register `d` and steps to the next instruction. -/
def WritesScalar (i : Instr) (s : State) (c l : Nat) (t : Strand) (d : BitVec 7) (v : Word) : Prop :=
  ∃ s' x, exec i s = .next s' ∧ Retires s s' c l t x ∧ WritesReg t.sc x d.toNat v (t.sc.spc + 4)

/-- The goal of a scalar instruction that retires with the scalar side `x`. -/
def RetiresWith (i : Instr) (s : State) (c l : Nat) (t : Strand) (x : ScalarSide) : Prop :=
  ∃ s', exec i s = .next s' ∧ Retires s s' c l t x

/-- The goal of a scalar instruction that takes a trap and resumes at itself. -/
def Traps (i : Instr) (s : State) (c l : Nat) (t : Strand) (code detail : Nat) : Prop :=
  ∃ s', exec i s = .next s' ∧ TakesScalarTrap s s' c l t code detail

/-! ### Branches, calls, the path stack (spec/04 R105 to R121) -/

/-- R106: the condition, operands and offset of a conditional branch. -/
def branchOf : Instr → Option (Nat × BitVec 7 × BitVec 7 × BitVec 12)
  | .sbEq a b o => some (0, a, b, o)
  | .sbNe a b o => some (1, a, b, o)
  | .sbLt a b o => some (2, a, b, o)
  | .sbGe a b o => some (3, a, b, o)
  | .sbLtn a b o => some (4, a, b, o)
  | .sbGen a b o => some (5, a, b, o)
  | _ => none

/-- R106, R41: the address a number of words from an instruction, as SPC holds it. -/
def wordsFrom (pc : Word) (off : Int) : Word := canonPc (pc + BitVec.ofInt 64 (4 * off)).toNat

/-- R106, R114: what a taken branch or jump to an offset does: a plain jump, or demotion when it goes backward with
DEMOTE set; a demotion whose pop finds only paths without lanes takes the path-stack-underflow trap. -/
def JumpTaken (i : Instr) (s : State) (c l : Nat) (t : Strand) (off : Int) : Prop :=
  (0 < off ∨ t.sc.demote = false → RetiresWith i s c l t { t.sc with spc := wordsFrom t.sc.spc off })
  ∧ (off ≤ 0 → t.sc.demote = true →
    (∀ y, Demotes t.compat t.sc y (wordsFrom t.sc.spc off) → RetiresWith i s c l t y)
    ∧ ((∀ y, ¬ Demotes t.compat t.sc y (wordsFrom t.sc.spc off)) → Traps i s c l t 0x09 0))

/-- R107: the scalar side after a call to `a`. -/
def Called (x y : ScalarSide) (a : Word) : Prop :=
  (∀ r, sget y r = if r = 1 then x.spc + 4 else sget x r) ∧ y.rdepth.toNat = x.rdepth.toNat + 1 ∧ y.spc = a
  ∧ (∀ r, r ∈ y.spoison ↔ r ∈ x.spoison ∧ r ≠ 1)
  ∧ { y with sregs := x.sregs, spoison := x.spoison, rdepth := x.rdepth, spc := x.spc } = x

/-- R108: an address that `sjr`, `scallr` and `sret` may jump to. -/
def JumpTarget (a : Word) : Prop := a.toNat % 4 = 0 ∧ (a.toNat < 2 ^ 56 ∨ 2 ^ 64 - 2 ^ 56 ≤ a.toNat)

/-- R132: the system registers that `srd` reads. -/
def readable : List Nat := [0x000, 0x001, 0x002, 0x003, 0x004, 0x005, 0x010, 0x020]

/-- R30, R92: SATF as `srd` reads it: the sticky bits, with TRAPPEND in bit 7. -/
def satfWord (x : ScalarSide) : Word := x.sticky.setWidth 64 ||| (if x.trapPend then 0x80 else 0)

/-- R22: a clause that is queued or issuing and whose header is unread or names mailbox `n` may still write it. -/
def MayWriteMailbox (t : Strand) (n : Nat) : Prop :=
  (∃ q ∈ t.st.queue, ∀ h, q.header = some h → h.mbox.getLsbD n = true) ∨ ∃ r ∈ t.st.current, r.header.mbox.getLsbD n = true

/-- A scalar instruction takes the trap `code` of a memory access at `a`, and resumes at itself (R375). -/
def Faults (i : Instr) (s : State) (c l : Nat) (t : Strand) (code : Nat) (a : Word) : Prop :=
  ∃ s', exec i s = .next s' ∧ TakesTrap s s' c l t { scalarRecord code 0 t.sc.spc with faddr := a } (lastId t) t.sc.spc

/-- A trap that counts as executed and resumes at the instruction after it (R134, R376). -/
def TrapsAfter (i : Instr) (s : State) (c l : Nat) (t : Strand) (code detail : Nat) : Prop :=
  ∃ s' u, exec i s = .next s' ∧ TakesTrap s u c l t (scalarRecord code detail t.sc.spc) (lastId t) (t.sc.spc + 4)
    ∧ OnlyStrand u s' c l
    ∧ ∃ t', strandAt u c l = some t' ∧ strandAt s' c l = some { t' with sc := { t'.sc with seq := t'.sc.seq + 1 } }

/-! ### Scalar memory, counters, copies, windows (spec/09, spec/10) -/

/-- A scalar memory instruction of strand `t` is ready: the registers are, and no load acquire of the strand is still
awaited (R235). -/
structure MemReady (s : State) (c l : Nat) (t : Strand) (rs : List Nat) (d : Nat) : Prop where
  ready   : ScalarReady s c l t rs d
  acquire : ∀ o ∈ t.ops, o.acquire = none

/-- The strand has stepped to its next instruction with no scalar register changed; its lane side, its clause queue and its
held traps are as they were. -/
def Advanced (t t' : Strand) : Prop :=
  t'.sc = { t.sc with spc := t.sc.spc + 4, seq := t.sc.seq + 1 } ∧ t'.ln = t.ln ∧ t'.st = t.st ∧ t'.traps = t.traps
    ∧ t'.swait = .none ∧ t'.sphase = .idle ∧ t'.regions.map (·.id) = t.regions.map (·.id)

/-- From `s` to `s'` memory, every other strand, the effects under way and everything outside core `c` and the counts and
translation horizons of partitions are as they were; of the chunks of windows, only that their fill is asked for may change, and of
the other cores, only the translations that such a fill keeps (R239, R398). -/
structure OnlyCore (s s' : State) (c l : Nat) : Prop where
  others : ∀ k, k ≠ skey c l → mget s'.strands k = mget s.strands k
  cores  : ∀ k, k ≠ c → { coreOf s' k with tlb := (coreOf s k).tlb } = coreOf s k
  rest   : { s' with strands := s.strands, cores := s.cores, parts := s.parts, nextId := s.nextId, blocks := s.blocks } = s
  parts  : ∀ p, { partAt s' p with accounts := (partAt s p).accounts, horizon := (partAt s p).horizon } = partAt s p
  blocks : ∀ b, (blockAt s' b).map (fun x => { x with chunks := [] }) = (blockAt s b).map (fun x => { x with chunks := [] })
  chunks : ∀ b x y, blockAt s b = some x → blockAt s' b = some y → ∀ ch,
    { chunkOf y ch with filling := none } = { chunkOf x ch with filling := none }

/-- R46: the bytes of an access of a size code, and whether a load extends its sign. -/
def accessBytes (z : BitVec 3) : Nat := 2 ^ (z.toNat / 2)

/-- R253: the address of a scalar access. -/
def accessAddr (x : ScalarSide) (a : BitVec 7) (o : BitVec 6) (z : BitVec 3) : Word :=
  sget x a.toNat + BitVec.ofInt 64 (o.toInt * accessBytes z)

/-- R253, R254: a load of strand `t` from `locs` at an address into register `d` has gone out: the register is pending on the
operation, which holds the locations; nothing is written yet, and memory is as it was. -/
def LoadIssued (s s' : State) (c l : Nat) (t : Strand) (d : Nat) (addr : Word) (locs : List Nat) (signed : Bool) (acquire : Option (BitVec 3)) : Prop :=
  OnlyCore s s' c l ∧ ∃ t' o, strandAt s' c l = some t' ∧ Advanced t t' ∧ t'.ops = t.ops ++ [o]
    ∧ t'.spend = t.spend ++ [(d, o.id)] ∧ t'.vpend = t.vpend ∧ o.scalar = true ∧ o.acquire = acquire ∧ o.landed = false
    ∧ o.dests = [{ lane := 64, reg := d, addr := addr, locs := locs, signed := signed, pair := false }]

/-- The byte that a store of `bs` to `locs` gives a location, the last one written there (R245). -/
def storedByte (locs : List Nat) (bs : List Byte) (a : Nat) : Option Byte :=
  ((locs.zip bs).reverse.find? fun e => e.1 == a).map fun e => e.2

/-- R202: the bytes `bs` of strand `t` have gone to `locs`: the own scratch area holds its bytes; global bytes are in held
effects, one for each line; a gang member's bytes wait in the hearth write buffer. Every other byte of every scratch area
and every byte of memory is as it was. -/
def BytesDepart (s s' : State) (c : Nat) (t : Strand) (locs : List Nat) (bs : List Byte) : Prop :=
  s'.mem = s.mem
  ∧ (∀ b x, blockAt s b = some x → ∃ y, blockAt s' b = some y ∧ ∀ o, o < 2 ^ 20 → memByte y.scratch o =
      (if b = t.block then (storedByte locs bs (scratchLoc b o)).getD (memByte x.scratch o) else memByte x.scratch o))
  ∧ (∃ new, s'.effects = s.effects ++ new ∧ (∀ e ∈ new, e.stage = .flight ∧ e.home = homeOf s (128 * ((effectLines e).headD 0)))
      ∧ ∀ a v, (∃ e ∈ new, ∃ b, e.kind = .write b ∧ mget b a = some v) ↔ (isScratch a = false ∧ storedByte locs bs a = some v))
  ∧ (∃ new, (coreOf s' c).hwb = (coreOf s c).hwb ++ new ∧ ∀ a v, (∃ h ∈ new, ∃ e ∈ h.bytes, scratchLoc h.block e.1 = a ∧ e.2 = v) ↔
      (isScratch a = true ∧ locBlock a ≠ t.block ∧ storedByte locs bs a = some v))

/-- The goal of a scalar store whose strand ends with the scalar side `x`. -/
def StoresScalar (i : Instr) (s : State) (c l : Nat) (t : Strand) (x : ScalarSide) (locs : List Nat) (bs : List Byte) : Prop :=
  ∃ s' t', exec i s = .next s' ∧ BytesDepart s s' c t locs bs ∧ (∀ k, k ≠ skey c l → mget s'.strands k = mget s.strands k)
    ∧ strandAt s' c l = some t' ∧ t'.sc = { x with seq := x.seq + 1 } ∧ t'.ln = t.ln ∧ t'.st = t.st ∧ t'.swait = .none
    ∧ t'.spend = t.spend ∧ t'.traps = t.traps

/-- What a store of strand `t` to `locs` waits for is at hand: an open region, and a free holding unit for each part. -/
def StoreFree (s : State) (c : Nat) (t : Strand) (locs : List Nat) : Prop :=
  (openRegion t).isSome ∧ storeNeeds s c t (openId t) locs = none

/-- R234: the release at a scope that a scalar instruction of `t` makes has ended. -/
def ReleaseEnded (s : State) (c l : Nat) (t : Strand) (scope : BitVec 3) : Prop :=
  (t.sphase = .releasing ∧ releaseDone s c l t = true) ∨ t.sphase = .released ∨ (scope.toNat < 2 ∧ t.sphase = .idle ∧ quiet t = true)

/-- R235: an acquire at a scope may go ahead on core `c`. -/
def AcquireFree (s : State) (c : Nat) (scope : BitVec 3) : Prop := scope.toNat < 2 ∨ (coreOf s c).sweeping = false

/-- R235, R241: an acquire at a scope on core `c` for block `b`: at `.hth` and wider the generation flips and a sweep begins,
and every window lease of the block has ended. -/
def Acquired (s s' : State) (c b : Nat) (scope : BitVec 3) : Prop :=
  (scope.toNat < 2 → (coreOf s' c).gen = (coreOf s c).gen ∧ (coreOf s' c).sweeping = (coreOf s c).sweeping)
  ∧ (2 ≤ scope.toNat → (coreOf s' c).gen = !(coreOf s c).gen ∧ (coreOf s' c).sweeping = true
      ∧ ∀ x, blockAt s' b = some x → ∀ e ∈ x.chunks, e.2.lease = 0)

/-- R266: the sum of a counter and an amount, which stops at 2^64 - 1. -/
def counterSum (old amt : Word) : Word := BitVec.ofNat 64 (min (old.toNat + amt.toNat) (2 ^ 64 - 1))

/-- R236, R239, R246: what an instruction that reads a counter waits for is at hand, and the fill of its window chunk meets no
fault. -/
def CounterRead (s : State) (t : Strand) (w : CounterAt) : Prop := counterFault s t w = none ∧ counterWait s t w = none

/-- The same once the translation of the counter's address is held. -/
def CounterFree (s : State) (c : Nat) (t : Strand) (addr : Word) (w : CounterAt) : Prop := CounterRead (keepFor s c t addr 8) t w

/-- R269: the copy that a strand issues from its registers. -/
def CopyIssued (s s' : State) (c l : Nat) (t : Strand) (q : CopyArgs) : Prop :=
  s'.mem = s.mem ∧ s'.blocks = s.blocks ∧ s'.effects = s.effects ∧ (∀ k, k ≠ skey c l → mget s'.strands k = mget s.strands k)
  ∧ ∃ t' y, strandAt s' c l = some t' ∧ Advanced t t' ∧ y ∈ s'.copies ∧ s'.copies.length = s.copies.length + 1 ∧ y.id = s.nextId ∧ y.region = openId t
    ∧ y.src = q.src ∧ y.dst = q.dst ∧ y.rowb = q.rowb ∧ y.rows = q.rows ∧ y.sstr = q.sstr ∧ y.dstr = q.dstr ∧ y.ctr = q.ctr ∧ y.amt = q.amt
    ∧ y.part = t.part ∧ y.cleared = none ∧ y.chunks = 0
    ∧ (∃ b ∈ t'.batches, b.sealed = false ∧ y.id ∈ b.copies)
    ∧ (engineFor (partAt s t.part) c = none → y.done = true ∧ y.status = 2)
    ∧ (∀ e, engineFor (partAt s t.part) c = some e → y.done = false ∧ y.engine = e)

/-- The goal of an instruction whose strand retires with the scalar side `x`, with memory, the lane side, the held traps and
every other strand as they were. -/
def RetiresLike (i : Instr) (s : State) (c l : Nat) (t : Strand) (x : ScalarSide) : Prop :=
  ∃ s' t', exec i s = .next s' ∧ s'.mem = s.mem ∧ (∀ k, k ≠ skey c l → mget s'.strands k = mget s.strands k) ∧ strandAt s' c l = some t'
    ∧ t'.sc = { x with seq := x.seq + 1 } ∧ t'.ln = t.ln ∧ t'.st = t.st ∧ t'.traps = t.traps ∧ t'.swait = .none

/-- R210, R191: the instruction performs: the strand's region and every older one have cleared, and fewer than four are
unreleased. -/
structure Performing (s : State) (c l : Nat) (t : Strand) (rs : List Nat) (d : Nat) : Prop where
  ready   : MemReady s c l t rs d
  room    : t.regions.length < 4
  phase   : t.sphase = .closing
  cleared : ∀ r ∈ t.regions, r.cleared = true

/-- R210: an instruction that performed like an atomic has retired with the scalar side `x`, and an implicit region is open
after it, with its head there; every earlier region is closed. -/
def Performed (s' : State) (c l : Nat) (t : Strand) (x : ScalarSide) : Prop :=
  ∃ t' old r, strandAt s' c l = some t' ∧ t'.sc = { x with seq := x.seq + 1 } ∧ t'.sphase = .idle ∧ t'.swait = .none
    ∧ t'.regions = old ++ [r] ∧ r.explicit = false ∧ r.close = none ∧ r.head = t'.sc ∧ r.recipe = t.recipe
    ∧ (∀ q ∈ old, q.close ≠ none) ∧ old.map (·.id) = t.regions.map (·.id)

/-- A strand but for what it waits for. -/
def calm (t : Strand) : Strand := { t with swait := .none, lwait := .none }

/-- Every strand is as it was, but for what it waits for: a wake may let it try again. -/
def SameButWaits (s s' : State) : Prop := ∀ k, (mget s'.strands k).map calm = (mget s.strands k).map calm

/-- Memory and scratch are as they were, and every other strand but for what it waits for: a wake may let it try again. -/
def NoBytesWakes (s s' : State) (c l : Nat) : Prop :=
  s'.mem = s.mem ∧ (∀ b, (blockAt s' b).map (·.scratch) = (blockAt s b).map (·.scratch))
    ∧ ∀ k, k ≠ skey c l → (mget s'.strands k).map calm = (mget s.strands k).map calm

/-- Memory, scratch and every other strand are as they were. -/
def NoBytes (s s' : State) (c l : Nat) : Prop :=
  s'.mem = s.mem ∧ (∀ b, (blockAt s' b).map (·.scratch) = (blockAt s b).map (·.scratch)) ∧ s'.effects = s.effects
    ∧ ∀ k, k ≠ skey c l → mget s'.strands k = mget s.strands k

/-! ### Regions, instructions that perform like atomics, frames, the griddle's scalar side -/

/-- A chunk with dirty words of the window that number `n` of a block holds (R237, R238). -/
def DirtyChunk (x : Block) (n : Nat) (w : WinDesc) (ch : Nat) : Prop :=
  (n, w) ∈ x.wins ∧ w.valid = true ∧ w.schunk.toNat ≤ ch ∧ ch < w.schunk.toNat + w.nchunk.toNat ∧ ∃ k, (ch, k) ∈ x.chunks ∧ k.wdirty ≠ 0

/-- R240: the window `n` of the block of strand `t` has been written back: for every dirty chunk a masked write of exactly its dirty
words to its global line has departed as a held effect of the open region, and WDIRTY of those chunks is clear; the scratch words, the
other flags and memory are as they were. -/
def WrittenBack (s s' : State) (c : Nat) (t : Strand) (x : Block) (n : Nat) : Prop :=
  s'.mem = s.mem
  ∧ (∃ new, s'.effects = s.effects ++ new
      ∧ (∀ e ∈ new, e.stage = .flight ∧ e.region = openId t ∧ e.ownClose = none)
      ∧ ∀ g v, (∃ e ∈ new, ∃ b, e.kind = .write b ∧ mget b g = some v)
          ↔ ∃ w ch pa i, DirtyChunk x n w ch ∧ chunkPhysical s c t.part w ch .write = .ok pa ∧ i < 128
              ∧ (chunkOf x ch).wdirty.getLsbD (i / 4) = true ∧ g = 128 * (pa / 128) + i ∧ v = memByte x.scratch (128 * ch + i))
  ∧ ∃ x', blockAt s' t.block = some x' ∧ x'.scratch = x.scratch
      ∧ ∀ ch, ((∃ w, DirtyChunk x n w ch) → chunkOf x' ch = { chunkOf x ch with wdirty := 0 })
          ∧ ((¬ ∃ w, DirtyChunk x n w ch) → chunkOf x' ch = chunkOf x ch)

/-- R123: the record that a `region` at offset `o` names, as it stands in the scalar code section: its head and its range words. -/
def RecipeAt (s : State) (c : Nat) (t : Strand) (o : BitVec 26) (head : Nat) (ws : List Nat) : Prop :=
  let a := t.sc.spc + BitVec.ofInt 64 (4 * o.toInt)
  (∃ hd, fetchScalar s c t a 32 = .ok hd ∧ head = leNat hd) ∧ ws.length = bits head 196 192
    ∧ ∀ j w, ws[j]? = some w → ∃ bs, fetchScalar s c t (a + 32 + BitVec.ofNat 64 (4 * j)) 4 = .ok bs ∧ w = leNat bs

/-- R123: a record breaks a rule: a reserved bit, NRANGE above 24, or a range that is not FIRST ≤ LAST ≤ 767 behind the one
before it; a REMAT without REMV counts as reserved bits (DEDUCED, log 20). -/
def RecipeBroken (head : Nat) (ws : List Nat) : Prop :=
  head.testBit 0 = true ∨ head.testBit 128 = true ∨ bits head 159 157 ≠ 0 ∨ bits head 191 186 ≠ 0 ∨ bits head 255 197 ≠ 0
    ∨ 24 < bits head 196 192 ∨ (head.testBit 156 = false ∧ bits head 185 160 ≠ 0)
    ∨ ∃ j w, ws[j]? = some w ∧ (bits w 31 20 ≠ 0 ∨ bits w 19 10 < bits w 9 0 ∨ 767 < bits w 19 10
        ∨ ∃ v, ws[j + 1]? = some v ∧ bits v 9 0 ≤ bits w 19 10)

/-- R127: the lanes of a strand that `iqloop` serves: active, with predicate `p` set, in ascending order. -/
def finishedLanes (t : Strand) (p : Nat) : List Nat :=
  (List.range 64).filter fun l => t.sc.exec.getLsbD l && (mgetD t.ln.preds p 0).getLsbD l

/-- R127, R188: the items that the core of a strand holds for its grid. -/
def heldItems (s : State) (c : Nat) (t : Strand) : List W32 :=
  if (coreOf s c).itemGrid = some (t.part, t.grid) then (coreOf s c).items else []

/-- R274: a `claim` of these frames performs: every one whose slice the hearth may claim has its home there, every other frame has the home
that it had, the claim is no longer registered and the strand goes on. -/
def HomesMove (i : Instr) (s : State) (c l : Nat) (t : Strand) (frames : List Nat) : Prop :=
  ∃ s', exec i s = .next s' ∧ NoBytesWakes s s' c l ∧ mget s'.claims (skey c l) = none ∧ Performed s' c l t { t.sc with spc := t.sc.spc + 4 }
    ∧ ∀ f, mget s'.homeMap f = if f ∈ frames then
        (match claimHome (partAt s t.part) (hearthOf c) f with | some h => some h | none => mget s.homeMap f)
      else mget s.homeMap f

/-- R265, R275: a collective descriptor that names an operation, a type, a count and a counter, with no reserved bit set, and a root
rank for a broadcast. -/
def DescLegal (n ranks : Nat) : Prop :=
  bits n 7 0 ≤ 6 ∧ bits n 11 8 ≤ 4 ∧ bits n 15 12 = 0 ∧ bits n 511 400 = 0 ∧ 1 ≤ bits n 255 192 ∧ bits n 255 192 ≤ 2 ^ 32
    ∧ bits n 319 256 % 8 = 0 ∧ (bits n 7 0 = 5 → bits n 399 384 < ranks)

/-- The bits of a lane mask. -/
def hasLane (m : Word) (l : Nat) : Bool := m.getLsbD l

/-- R38, R254: no register that the top frame of a `cut` saves is pending or holds an uncorrectable error. -/
def FrameSound (t : Strand) (h : StackRec) : Prop :=
  (∀ r ∈ maskRegs h.smask, loadPending t r = false ∧ (∀ e ∈ t.tpend, e.1 ≠ r) ∧ (r = 0 ∨ r ∉ t.sc.spoison)) ∧ lanesPoisoned t h = false

/-- R285: the state in which a `graft` holds its reference to slice slot `k`: it takes one unless it has waited with it. -/
def Referenced (s : State) (c l : Nat) (t : Strand) (k : Nat) : State :=
  if t.grafting.isSome then s
  else modStrand (modSlice s t.part t.grid k fun r => { r with refs := r.refs + 1 }) c l fun t => { t with grafting := some k }

/-! ### Lane instructions (spec/05) -/

/-- R32, R92: the scalar side of a strand after an instruction whose results are held in format `fmt`: where one
saturates, the sticky bit of that format is set, and TRAPPEND with it when the slot is armed. -/
def StickyAfter (fmt : Nat) (slot : BitVec 128) (sat : Prop) (a b : ScalarSide) : Prop :=
  (sat → b = { a with sticky := a.sticky ||| ((1 : BitVec 7) <<< fmt), trapPend := a.trapPend || slotArm slot }) ∧ (¬ sat → b = a)

/-- The goal of a lane instruction that retires with the value `v` in each active lane's destination, of which those lanes
saturate that `sat` names. -/
def LaneWrites (i : Instr) (f : LaneFields) (wide : Bool) (fmt : Nat) (s : State) (c l : Nat) (t : Strand) (r : Running)
    (v : Nat → Nat) (sat : Nat → Prop) : Prop :=
  ∃ s' t', exec i s = .next s' ∧ LaneRetires s s' c l t t' r ∧ WritesLanes (laneCtx c l t r f) f wide v t.ln t'.ln
    ∧ StickyAfter fmt (laneSlot s t f) (∃ k ∈ (laneCtx c l t r f).lanes, sat k) t.sc t'.sc

/-- The goal of a lane instruction that retires with predicate `d` set from `v` in each active lane, and its scalar side as it was. -/
def LaneSets (i : Instr) (f : LaneFields) (d : Nat) (s : State) (c l : Nat) (t : Strand) (r : Running) (v : Nat → Bool) : Prop :=
  ∃ s' t', exec i s = .next s' ∧ LaneRetires s s' c l t t' r ∧ WritesPred (laneCtx c l t r f) d v t.ln t'.ln ∧ t'.sc = t.sc

/-- R144: the arithmetic rows of R143: the sources they take, whether CLAMP is allowed, and the exact integer that they form. -/
def laneInteger : Instr → Option (LaneFields × Nat × Bool × (Int → Int → Int → Int))
  | .vadd f => some (f, 2, true, fun a b _ => a + b)
  | .vsub f => some (f, 2, true, fun a b _ => a - b)
  | .vmul f => some (f, 2, true, fun a b _ => a * b)
  | .vmulHi f => some (f, 2, false, fun a b _ => a * b / 2 ^ 32)
  | .vmad f => some (f, 3, true, fun a b c => a * b + c)
  | .vmin f => some (f, 2, true, fun a b _ => if a ≤ b then a else b)
  | .vmax f => some (f, 2, true, fun a b _ => if a ≤ b then b else a)
  | .vmov f => if f.type = 8 then none else some (f, 1, true, fun a _ _ => a)
  | _ => none

/-- How an arithmetic row of R143 uses its fields: modifiers stand on signed types alone, and 64-bit types name pairs. -/
def integerUse (f : LaneFields) (n : Nat) (cl : Bool) : LaneUse :=
  { srcs := List.range n, mods := if typeSigned (tyOf f) then List.range n else [], clamp := cl, wide := pairFields f (3 :: List.range n) }

/-- R139, R144: the element that an exact integer leaves: wrapped with CLAMP 0, limited to 0 and 1 with CLAMP 1, and with CLAMP 2
saturated to I8 where the slot holds that format, else to the type's own range. -/
def Limited (f : LaneFields) (slot : BitVec 128) (signed : Bool) (w : Nat) (y : Int) (e : Nat) : Prop :=
  let lo : Int := if signed then -2 ^ (w - 1) else 0
  let hi : Int := if signed then 2 ^ (w - 1) - 1 else 2 ^ w - 1
  (f.clamp = 0 → (e : Int) = y % 2 ^ w)
  ∧ (f.clamp = 1 → (e : Int) = max 0 (min 1 y))
  ∧ (f.clamp = 2 → slotFmt slot = 5 → (e : Int) = max (-128) (min 127 y) % 2 ^ w)
  ∧ (f.clamp = 2 → slotFmt slot ≠ 5 → (e : Int) = max lo (min hi y) % 2 ^ w)

/-- R139: an exact integer saturates to I8 and raises its sticky bit. -/
def SaturatesI8 (f : LaneFields) (slot : BitVec 128) (y : Int) : Prop := f.clamp = 2 ∧ slotFmt slot = 5 ∧ (y < -128 ∨ 127 < y)

/-- R145 to R148, R158, R174: the rows that have no modifier: how they use their fields, whether they write pairs, and what the
value of a lane is. -/
def laneBits : Instr → Option (LaneFields × LaneUse × Bool × (LaneCtx → Nat → Nat → Prop))
  | .vand f => some (f, { srcs := [0, 1], wide := pairFields f [3, 0, 1] }, typeWidth (tyOf f) == 64, fun x k v => v = operand x f 0 (tyOf f) k &&& operand x f 1 (tyOf f) k)
  | .vor f => some (f, { srcs := [0, 1], wide := pairFields f [3, 0, 1] }, typeWidth (tyOf f) == 64, fun x k v => v = operand x f 0 (tyOf f) k ||| operand x f 1 (tyOf f) k)
  | .vxor f => some (f, { srcs := [0, 1], wide := pairFields f [3, 0, 1] }, typeWidth (tyOf f) == 64, fun x k v => v = operand x f 0 (tyOf f) k ^^^ operand x f 1 (tyOf f) k)
  | .vnot f => some (f, { srcs := [0], wide := pairFields f [3, 0] }, typeWidth (tyOf f) == 64, fun x k v => ∀ b, v.testBit b = (decide (b < typeWidth (tyOf f)) && !(operand x f 0 (tyOf f) k).testBit b))
  | .vshl f => some (f, { srcs := [0, 1], wide := pairFields f [3, 0, 1] }, typeWidth (tyOf f) == 64, fun x k v =>
      let w := typeWidth (tyOf f)
      let n := operand x f 1 (tyOf f) k % w
      ∀ b, v.testBit b = (decide (b < w) && decide (n ≤ b) && (operand x f 0 (tyOf f) k).testBit (b - n)))
  | .vshr f => some (f, { srcs := [0, 1], wide := pairFields f [3, 0, 1] }, typeWidth (tyOf f) == 64, fun x k v =>
      let w := typeWidth (tyOf f)
      let n := operand x f 1 (tyOf f) k % w
      ∀ b, b < w → v.testBit b = (decide (b + n < w) && (operand x f 0 (tyOf f) k).testBit (b + n)))
  | .vsra f => some (f, { srcs := [0, 1], wide := pairFields f [3, 0, 1] }, typeWidth (tyOf f) == 64, fun x k v =>
      let w := typeWidth (tyOf f)
      let n := operand x f 1 (tyOf f) k % w
      ∀ b, b < w → v.testBit b = (operand x f 0 (tyOf f) k).testBit (if b + n < w then b + n else w - 1))
  | .vpopc f => some (f, { srcs := [0], wide := pairFields f [3, 0] }, typeWidth (tyOf f) == 64, fun x k v =>
      v = ((List.range (typeWidth (tyOf f))).filter fun b => (operand x f 0 (tyOf f) k).testBit b).length)
  | .vclz f => some (f, { srcs := [0], wide := pairFields f [3, 0] }, typeWidth (tyOf f) == 64, fun x k v =>
      let w := typeWidth (tyOf f)
      v ≤ w ∧ (∀ b, b < v → (operand x f 0 (tyOf f) k).testBit (w - 1 - b) = false) ∧ (v < w → (operand x f 0 (tyOf f) k).testBit (w - 1 - v) = true))
  | .vbrev f => some (f, { srcs := [0], wide := pairFields f [3, 0] }, typeWidth (tyOf f) == 64, fun x k v =>
      let w := typeWidth (tyOf f)
      ∀ b, b < w → v.testBit b = (operand x f 0 (tyOf f) k).testBit (w - 1 - b))
  | .vbfe f => some (f, { srcs := [0, 1], wide := pairFields f [3, 0, 1] }, typeWidth (tyOf f) == 64, fun x k v =>
      let b := operand x f 1 (tyOf f) k
      let n := min (b / 256 % 64) 32
      let y := operand x f 0 (tyOf f) k % 2 ^ 32 / 2 ^ (b % 32) % 2 ^ n
      v = if f.type = 0 then ((BitVec.ofNat n y).signExtend 32).toNat else y)
  | .vbfi f => some (f, { srcs := [0, 1, 2] }, false, fun x k v =>
      let b := operand x f 1 1 k
      let n := min (b / 256 % 64) 32
      ∀ j, j < 32 → v.testBit j = if b % 32 ≤ j ∧ j < b % 32 + n then (operand x f 0 1 k).testBit (j - b % 32) else (operand x f 2 1 k).testBit j)
  | .vsel f => some (f, { srcs := [0, 1], wide := pairFields f [3, 0, 1], legal := f.func.toNat ≤ 23 }, typeWidth (tyOf f) == 64, fun x k v =>
      v = if (predMask x.t.ln f.func.toNat).getLsbD k then operand x f 0 (tyOf f) k else operand x f 1 (tyOf f) k)
  | .vli f => some (f, { imm := true }, false, fun _ _ v => v = if f.type = 0 then (f.imm.signExtend 32).toNat else f.imm.toNat)
  | .vliHi f => some (f, { imm := true, keeps := true }, false, fun x k v =>
      v / 2 ^ 16 = f.imm.toNat ∧ v % 2 ^ 16 = (mgetD x.t.ln.vregs (64 * f.vd.toNat + k) 0).toNat % 2 ^ 16)
  | .pmovToLane f => some (f, { preds := [0] }, false, fun x k v => v = if (predMask x.t.ln f.va.toNat).getLsbD k then 1 else 0)
  | .vlid f => some (f, {}, false, fun x k v => v = if f.func = 0 then k else if f.func = 1 then (x.lanes.filter fun j => j < k).length else x.lanes.length)
  | _ => none

/-- R150, R151: the float rows that round one exact value: their sources, whether they round toward zero, and the value. -/
def laneFloat : Instr → Option (LaneFields × Nat × Bool × ((Nat → Num) → Num))
  | .vfadd f => some (f, 2, f.func = 1, fun v => Num.add (v 0) (v 1))
  | .vfsub f => some (f, 2, f.func = 1, fun v => Num.add (v 0) (v 1).neg)
  | .vfmul f => some (f, 2, f.func = 1, fun v => Num.mul (v 0) (v 1))
  | .vffma f => some (f, 3, f.func = 1, fun v => Num.add (Num.mul (v 0) (v 1)) (v 2))
  | .vfmin f => some (f, 2, false, fun v => if (v 0).isNan then v 1 else if (v 1).isNan then v 0 else if numBelow (v 1) (v 0) then v 1 else v 0)
  | .vfmax f => some (f, 2, false, fun v => if (v 0).isNan then v 1 else if (v 1).isNan then v 0 else if numBelow (v 0) (v 1) then v 1 else v 0)
  | .vfrcp f => some (f, 1, false, fun v => Num.div (.fin false 1 1) (v 0))
  | .vfrsq f => some (f, 1, false, fun v => rsqrtNum (v 0))
  | .vfsqrt f => some (f, 1, f.func = 1, fun v => sqrtNum (v 0))
  | .vfdiv f => some (f, 2, f.func = 1, fun v => Num.div (v 0) (v 1))
  | .vfexp2 f => some (f, 1, false, fun v => exp2Num (v 0))
  | .vflog2 f => some (f, 1, false, fun v => log2Num (v 0))
  | .vfsin f => some (f, 1, false, fun v => sinNum (v 0))
  | .vfcos f => some (f, 1, false, fun v => cosNum (v 0))
  | _ => none

/-- How a float row uses its fields (R149). -/
def floatUse (n : Nat) : LaneUse := { srcs := List.range n, mods := List.range n, clamp := true, scale := true }

/-- How the other lane instructions use their fields, by the word of their slot: the remaining float rows, dot products, conversions,
the cross-lane family and the memory family, whose IMM holds more than the index offset. -/
def laneOtherUse : Instr → Option (LaneFields × (BitVec 128 → LaneUse))
  | .vmov f => if f.type = 8 then some (f, fun _ => { srcs := [0], mods := [0], clamp := true, scale := true, wide := pairFields f [3, 0] }) else none
  | .vfrnd f => some (f, fun _ => floatUse 1)
  | .vffrac f => some (f, fun _ => floatUse 1)
  | .vfcls f => some (f, fun _ => { srcs := [0] })
  | .vdot4 f => some (f, fun _ => { srcs := [0, 1, 2], mods := if tyOf f == 5 then [] else [2], clamp := true, scale := !(tyOf f == 4 || tyOf f == 5) })
  | .vfdot2 f => some (f, fun _ => { srcs := [0, 1, 2], mods := [0, 1, 2], clamp := true, scale := true })
  | .vcvtDec f => some (f, fun r => { srcs := 0 :: scaleField r 1, legal := cvtElem f < slotCount r })
  | .vcvtEnc f => some (f, fun r => { srcs := 0 :: scaleField r 1, mods := if f.type = 1 then [] else [0], keeps := true,
                                      legal := slotFmt r != 6 && cvtElem f < slotCount r })
  | .vpk f => some (f, fun r => { srcs := 0 :: 1 :: scaleField r 2, mods := if f.type = 1 then [] else [0, 1], keeps := true, legal := pairOk f r })
  | .vupk f => some (f, fun r => { srcs := 0 :: scaleField r 1, moreD := 1, legal := pairOk f r })
  | .vscl f => some (f, fun r => { srcs := [0], mods := [0], legal := slotKind r != 0 })
  | .vshfl f => some (f, fun _ => { srcs := [0, 1], direct := [0], apart := [0], wide := pairFields f [3, 0] })
  | .vbcast f => some (f, fun _ => { srcs := [0, 1], direct := [0], apart := [0, 1], wide := pairFields f [3, 0] })
  | .vbcastFirst f => some (f, fun _ => { srcs := [0], direct := [0], apart := [0], wide := pairFields f [3, 0] })
  | .vscan f => some (f, fun _ => { srcs := [0] })
  | .vred f => some (f, fun _ => { srcs := [0], dest := .regOrMailbox })
  | .vballot f => some (f, fun _ => { preds := [0], dest := .regOrMailbox, wide := [3] })
  | .vballotCnt f => some (f, fun _ => { preds := [0], dest := .regOrMailbox, wide := [3] })
  | .vmbox f => some (f, fun _ => { srcs := [0], dest := .mailbox, apart := [0], wide := pairFields f [0] })
  | .vmboxLast f => some (f, fun _ => { srcs := [0], dest := .mailbox, apart := [0], wide := pairFields f [0] })
  | .vixs f => some (f, fun _ => { srcs := [0, 1], dest := .index })
  | .vld f => some (memWord f, fun _ => loadUse f false)
  | .vldAcquire f => some (memWord f, fun _ => loadUse f false)
  | .vlds f => some (memWord f, fun _ => loadUse f true)
  | .vst f => some (memWord f, fun _ => storeUse f false)
  | .vstRelease f => some (memWord f, fun _ => storeUse f false)
  | .vsts f => some (memWord f, fun _ => storeUse f true)
  | .vatom f => some (memWord f, fun _ => atomUse f false)
  | .vatomCas f => some (memWord f, fun _ => atomUse f true)
  | .vredm f => some (memWord f, fun _ => { srcs := [0, 1], dest := .none, outward := true, legal := formLegal f false, wide := addrWide f ++ dataWide f [1] })
  | .vpref f => some (memWord f, fun _ => { srcs := [0], dest := .none, legal := formLegal f false, wide := addrWide f })
  | _ => none

/-- R36: the element that a rounded pattern `p` leaves after the clamp: [0, 1] with NaN and -0 to +0 for CLAMP 1; saturation to
the slot's format for CLAMP 2, where a NaN and a value within its range pass. -/
def Clamped (f : LaneFields) (slot : BitVec 128) (fmt : FloatFmt) (p e : Nat) : Prop :=
  let v := fmt.decode p
  let past := !v.isNan && (if v.sign then Num.lt v (slotMax slot true) else Num.lt (slotMax slot false) v)
  (f.clamp = 0 → e = p)
  ∧ (f.clamp = 1 → (v.isNan = true ∨ v.isZero = true ∨ v.sign = true → e = 0) ∧ (Num.lt (Num.ofInt 1) v = true → e = fmt.bias * 2 ^ fmt.m)
      ∧ (v.isNan = false → v.isZero = false → v.sign = false → Num.lt (Num.ofInt 1) v = false → e = p))
  ∧ (f.clamp = 2 → past = false → e = p)
  ∧ (f.clamp = 2 → past = true → e = (clampSlot fmt slot p).1)

/-- R36: a rounded pattern saturates to the slot's format. -/
def SaturatesFloat (f : LaneFields) (slot : BitVec 128) (fmt : FloatFmt) (p : Nat) : Prop :=
  let v := fmt.decode p
  f.clamp = 2 ∧ v.isNan = false ∧ (if v.sign then Num.lt v (slotMax slot true) else Num.lt (slotMax slot false) v) = true

/-- R153: an integer `m` is n / d rounded to nearest even (0), toward zero (1), down (2) or up (3), for a value with that sign. -/
def Integral (way : Nat) (sign : Bool) (n d m : Nat) : Prop :=
  let below := m * d ≤ n ∧ n < m * d + d
  let above := n ≤ m * d ∧ m * d < n + d
  (way = 0 → 2 * n ≤ 2 * (m * d) + d ∧ 2 * (m * d) ≤ 2 * n + d ∧ (2 * n = 2 * (m * d) + d ∨ 2 * (m * d) = 2 * n + d → m % 2 = 0))
  ∧ (way = 1 → below)
  ∧ (way = 2 → if sign then above else below)
  ∧ (way = 3 → if sign then below else above)

/-- R154: the bit of the class mask of a pattern with `e` exponent bits and `m` mantissa bits. -/
def classBit (e m p : Nat) : Nat :=
  let neg := p.testBit (e + m)
  let ex := p / 2 ^ m % 2 ^ e
  let mant := p % 2 ^ m
  if ex = 2 ^ e - 1 then (if mant ≠ 0 then 8 else if neg then 0 else 7)
  else if ex = 0 then (if mant = 0 then (if neg then 3 else 4) else if neg then 2 else 5)
  else if neg then 1 else 6

/-- R155: the integer conditions. -/
def IntCondition (code : Nat) (a b : Int) : Prop :=
  match code with
  | 0 => a = b
  | 1 => a ≠ b
  | 2 => a < b
  | 3 => a ≥ b
  | 4 => a ≤ b
  | _ => a > b

/-- R156: the float conditions. -/
def FloatCondition (code : Nat) (a b : Num) : Prop :=
  match code with
  | 0 => Num.eq a b = true
  | 1 => ¬ Num.eq a b = true
  | 2 => Num.lt a b = true
  | 3 => Num.lt b a = true ∨ Num.eq a b = true
  | 4 => Num.lt a b = true ∨ Num.eq a b = true
  | 5 => Num.lt b a = true
  | 6 => a.isNan = false ∧ b.isNan = false
  | _ => a.isNan = true ∨ b.isNan = true

/-- R155: how a compare combines its outcome with the predicate. -/
def Combined (f : LaneFields) (old : Bool) (p : Prop) : Prop :=
  if f.func.toNat / 16 = 0 then p else if f.func.toNat / 16 = 1 then old = true ∧ p else old = true ∨ p

/-- R155 to R158: the instructions that write a predicate, and when it becomes 1 in a lane. -/
def lanePredicate : Instr → Option (LaneFields × LaneUse × (LaneCtx → Nat → Prop))
  | .vicmp f => some (f, { srcs := [0, 1], dest := .pred, mods := if typeSigned (tyOf f) then [0, 1] else [], wide := pairFields f [0, 1] }, fun x k =>
      Combined f ((predMask x.t.ln f.vd.toNat).getLsbD k)
        (IntCondition (f.func.toNat % 16) (asInt (tyOf f) (operand x f 0 (tyOf f) k) 0) (asInt (tyOf f) (operand x f 1 (tyOf f) k) 0)))
  | .vfcmp f => some (f, { srcs := [0, 1], dest := .pred, mods := [0, 1] }, fun x k =>
      Combined f ((predMask x.t.ln f.vd.toNat).getLsbD k)
        (FloatCondition (f.func.toNat % 16) (fp32.decode (operand x f 0 8 k)) (fp32.decode (operand x f 1 8 k))))
  | .pand f => some (f, { preds := [0, 1], dest := .pred }, fun x k => (predMask x.t.ln f.va.toNat).getLsbD k = true ∧ (predMask x.t.ln f.vb.toNat).getLsbD k = true)
  | .por f => some (f, { preds := [0, 1], dest := .pred }, fun x k => (predMask x.t.ln f.va.toNat).getLsbD k = true ∨ (predMask x.t.ln f.vb.toNat).getLsbD k = true)
  | .pxor f => some (f, { preds := [0, 1], dest := .pred }, fun x k => (predMask x.t.ln f.va.toNat).getLsbD k ≠ (predMask x.t.ln f.vb.toNat).getLsbD k)
  | .pnot f => some (f, { preds := [0], dest := .pred }, fun x k => (predMask x.t.ln f.va.toNat).getLsbD k = false)
  | .pmov f => some (f, { preds := [0], dest := .pred }, fun x k => (predMask x.t.ln f.va.toNat).getLsbD k = true)
  | .pmovFromLane f => some (f, { srcs := [0], dest := .pred }, fun x k => (operand x f 0 0 k).testBit 0 = true)
  | _ => none

/-- The words of VA that a cross-lane read takes in lane `k` hold no uncorrectable error (R38, R166). -/
def SourceSound (t : Strand) (f : LaneFields) (k : Nat) : Prop := ∀ r ∈ sourceRegs f, poisonAt t r k = false

/-- R169, R170: the left-to-right fold of the lanes' values of VA from the identity. -/
def laneFold (x : LaneCtx) (f : LaneFields) (ks : List Nat) : Nat :=
  (ks.map fun k => operand x f 0 (tyOf f) k).foldl (foldStep (tyOf f) (f.func.toNat % 8)) (foldIdentity (tyOf f) (f.func.toNat % 8))

/-- R171: the mask that a ballot forms. -/
def IsBallot (x : LaneCtx) (f : LaneFields) (m : Nat) : Prop :=
  ∀ k, m.testBit k = (decide (k ∈ x.lanes) && (predMask x.t.ln f.va.toNat).getLsbD k)

/-- R21, R109, R173: the goal of a lane instruction with a mailbox destination whose value is `v`: it is written once, with
its full bit; while the mailbox is full the instruction waits; after `exit` the value is discarded. -/
def MailsValue (i : Instr) (f : LaneFields) (s : State) (c l : Nat) (t : Strand) (r : Running) (v : Nat) : Prop :=
  let n := f.vd.toNat - 776
  (t.exited = false → mailFull t.sc n = false →
    ∃ s' t', exec i s = .next s' ∧ LaneRetires s s' c l t t' r ∧ t'.ln = t.ln ∧ t'.sc = mailPut t.sc n (BitVec.ofNat 64 v))
  ∧ (t.exited = false → mailFull t.sc n = true → exec i s = .next (putStrand s c l { t with lwait := .mailboxFull }))
  ∧ (t.exited = true → ∃ s' t', exec i s = .next s' ∧ LaneRetires s s' c l t t' r ∧ t'.ln = t.ln ∧ t'.sc = t.sc)

/-- R141: a lane instruction takes the trap `code` with the lanes given, and resumes at itself. -/
def TakesLaneTrap (s s' : State) (c l : Nat) (t : Strand) (r : Running) (code detail : Nat) (lanes faddr : Word) : Prop :=
  TakesTrap s s' c l t
    { code := BitVec.ofNat 8 code, stream := .lane, detail := BitVec.ofNat 16 detail, index := BitVec.ofNat 6 r.index, place := r.entry.clause.setWidth 64,
      lanes := lanes, faddr := faddr } r.entry.region t.sc.spc

/-- R411 to R414: between `s` and `u` an error record of kind `kind` has been raised, and nothing else has changed. -/
def ReportsError (s u : State) (kind : Nat) : Prop :=
  { u with errSeq := s.errSeq, errLog := s.errLog, ring := s.ring, dropped := s.dropped } = s
    ∧ ∃ e, u.errLog = insertErr s.errLog e ∧ e.kind.toNat = kind

/-! ### Lane memory (spec/09) -/

/-- What every lane memory instruction waits for is at hand: no acquire and no older scalar access of the strand is awaited, the
flag's count has room, and the core has fewer than 1,024 requests (R16, R191, R235, R236). -/
def LaneMemFree (s : State) (x : LaneCtx) (flag : Option Nat) : Prop :=
  acquirePending x.t = false ∧ olderScalar x = false ∧ flagFull x flag = false ∧ outstanding s x.core < 1024

/-- The lane stream has stepped past its instruction with nothing of the strand changed but its operations, pending registers,
effects and regions. -/
def LaneStepped (t t' : Strand) (r : Running) : Prop :=
  t'.st = { t.st with current := if r.index ≤ r.header.len.toNat then some { r with index := r.index + 1 } else none }
    ∧ t'.lwait = .none ∧ t'.lphase = .idle ∧ t'.ln = t.ln ∧ t'.sc = t.sc ∧ t'.traps = t.traps ∧ t'.spend = t.spend

/-- R256, R257: a load of strand `t` has gone out: each register of each active lane is pending on the operation, which holds the
locations of its bytes; nothing is written yet, and memory is as it was. -/
def LaneLoadIssued (s s' : State) (x : LaneCtx) (f : LaneFields) (as_ : List (Nat × List Nat)) (acquire : Option (BitVec 3)) : Prop :=
  OnlyCore s s' x.core x.slot ∧ ∃ t' o, strandAt s' x.core x.slot = some t' ∧ LaneStepped x.t t' x.run ∧ t'.ops = x.t.ops ++ [o]
    ∧ o.scalar = false ∧ o.flag = flagA x ∧ o.acquire = acquire ∧ o.landed = false ∧ o.region = x.region
    ∧ o.dests = as_.flatMap (fun e => (List.range (memCount f)).map fun j =>
        { lane := e.1, addr := laneAddr x f e.1, reg := regIn x.t f f.vd.toNat e.1 + elemRegs f * j, locs := (e.2.drop (memSize f * j)).take (memSize f),
          signed := typeSigned (tyOf f), pair := memSize f == 8 })
    ∧ (∀ q, q ∈ t'.vpend ↔ q ∈ x.t.vpend ∨ (q.2 = o.id ∧ ∃ d ∈ o.dests, q.1 = d.reg ∨ (d.pair = true ∧ q.1 = d.reg + 1)))

/-- The goal of a lane store to the locations of `as_`. -/
def LaneStores (i : Instr) (s : State) (x : LaneCtx) (f : LaneFields) (as_ : List (Nat × List Nat)) : Prop :=
  ∃ s' t' o, exec i s = .next s'
    ∧ BytesDepart s s' x.core x.t ((storeBytesOf x f as_).map fun e => e.1) ((storeBytesOf x f as_).map fun e => e.2)
    ∧ (∀ k, k ≠ skey x.core x.slot → mget s'.strands k = mget s.strands k)
    ∧ strandAt s' x.core x.slot = some t' ∧ LaneStepped x.t t' x.run ∧ t'.vpend = x.t.vpend ∧ t'.ops = x.t.ops ++ [o] ∧ o.flagB = flagB x

/-- What a lane store to `locs` waits for is at hand, in the region of its clause. -/
def LaneStoreFree (s : State) (x : LaneCtx) (locs : List Nat) : Prop :=
  (regionAt x.t x.region).isSome ∧ reduceWait s x locs = false ∧ storeNeeds s x.core x.t x.region locs = none

/-- R234: the release at a scope that a lane store makes has ended. -/
def LaneReleaseEnded (s : State) (x : LaneCtx) (scope : BitVec 3) : Prop :=
  x.t.ops = [] ∧ ((x.t.lphase = .releasing ∧ releaseDone s x.core x.slot x.t = true) ∨ (x.t.lphase = .idle ∧ scope.toNat < 2))

/-- R261: the operands (VB, VC) of the lanes of `ks` that access the locations `locs`, in ascending lane order. -/
def lanesAt (x : LaneCtx) (f : LaneFields) (as_ : List (Nat × List Nat)) (locs : List Nat) (below : Nat) : List (Nat × Nat) :=
  (as_.filter fun e => decide (e.2 = locs) && decide (e.1 < below)).map fun e => (atomOperand x f 1 e.1, atomOperand x f 2 e.1)

/-- R261: the value of a word after the operands of a list, in order. For a compare-and-swap VB is compared and VC stored. -/
def atomAfter (op ty old : Nat) (vs : List (Nat × Nat)) : Nat :=
  if op = 7 then vs.foldl (fun w e => if w = e.1 then e.2 else w) old
  else if op = 6 then vs.foldl (fun _ e => e.1) old
  else match vs with
    | [] => old
    | e :: es => atomNew op ty old (es.foldl (fun a e => atomNew op ty a e.1 0) e.1) 0

/-- R261: what a lane receives from a word, after the operands of the earlier lanes at its address. -/
def atomReceives (op ty old : Nat) (earlier : List (Nat × Nat)) : Nat :=
  if op = 6 ∨ op = 7 then atomAfter op ty old earlier
  else atomNew op ty old (earlier.foldl (fun a e => atomNew op ty a e.1 0) (atomIdentity op ty)) 0

/-- R261: the lane that names the request of a lane's word: the lowest lane at its address, or, of a compare-and-swap, the lane itself. -/
def leadLane (cas : Bool) (as_ : List (Nat × List Nat)) (e : Nat × List Nat) : Nat :=
  if cas then e.1 else ((as_.filter fun d => d.2 = e.2).head?.map fun d => d.1).getD 0

/-- R210, R261: a lane atomic performs: lane `e` receives `recv e`, a compare that failed sets DEMOTE, every region is closed but for the
implicit one that opens, the clause goes on, and `P` holds of the state. -/
def AtomPerforms (i : Instr) (s : State) (x : LaneCtx) (f : LaneFields) (cas : Bool) (as_ : List (Nat × List Nat)) (recv : Nat × List Nat → Nat)
    (P : State → Prop) : Prop :=
  ∃ s' t' v, exec i s = .next s' ∧ strandAt s' x.core x.slot = some t' ∧ WritesLanes x (memWord f) (memSize f == 8) v x.t.ln t'.ln
    ∧ (∀ e ∈ as_, v e.1 = recv e) ∧ P s'
    ∧ (t'.sc.demote = true ↔ x.t.sc.demote = true ∨ (cas = true ∧ ∃ e ∈ as_, v e.1 ≠ atomOperand x f 1 e.1))
    ∧ { t'.sc with demote := x.t.sc.demote } = x.t.sc
    ∧ (∃ old q, t'.regions = old ++ [q] ∧ q.explicit = false ∧ q.close = none ∧ ∀ y ∈ old, y.close ≠ none)
    ∧ (t'.st.current.map fun y => y.index) = if x.run.index ≤ x.run.header.len.toNat then some (x.run.index + 1) else none

/-! ### The matrix stream (spec/11) -/

/-- The matrix instructions, with their words. -/
def matrixWord : Instr → Option LaneFields
  | .gmma f => some f
  | .gldb f => some f
  | .gclr f => some f
  | .gst f => some f
  | .gmov f => some f
  | .gmovTr f => some f
  | .gmeet f => some f
  | .gend f => some f
  | _ => none

/-- The stream of core `c` runs, for block `b`, with `x` as its open segment. -/
structure StreamRuns (s : State) (c : Nat) (b : Block) (x : Segment) : Prop where
  agent   : s.agent = .matrix c
  held    : (coreOf s c).griddle.held = true
  run     : (coreOf s c).griddle.run = true
  holder  : blockAt s (coreOf s c).griddle.holder = some b
  segment : openSeg (coreOf s c).griddle = some x

/-- The word of a matrix instruction is one (R57), its TYPE agrees with its slot (R297), and `r` is that slot. -/
def SlotOf (s : State) (b : Block) (f : LaneFields) (r : BitVec 128) : Prop := matrixReject f = none ∧ matrixSlot s b f = some r

/-- From `s` to `s'` memory, every strand, the effects under way and every other core are as they were. -/
structure OnlyStream (s s' : State) (c : Nat) : Prop where
  mem     : s'.mem = s.mem
  strands : s'.strands = s.strands
  effects : s'.effects = s.effects
  cores   : ∀ k, k ≠ c → coreOf s' k = coreOf s k
  hold    : (coreOf s' c).griddle.held = (coreOf s c).griddle.held ∧ (coreOf s' c).griddle.holder = (coreOf s c).griddle.holder

/-- The goal of a matrix instruction that writes tile `d`: element (i, j) becomes `v i j`, every other tile stays, the open segment
keeps the tile it first touched (R217), and NEXT goes on (its 26 bits wrap: DEDUCED, log 120). -/
def WritesTile (i : Instr) (s : State) (c : Nat) (x : Segment) (d : Nat) (v : Nat → Nat → W32) : Prop :=
  ∃ s', exec i s = .next s' ∧ OnlyStream s s' c ∧ s'.blocks = s.blocks
    ∧ (coreOf s' c).griddle.next = ((coreOf s c).griddle.next + 1) % 2 ^ 26 ∧ (coreOf s' c).griddle.run = true
    ∧ (∀ q a b, a < 32 → b < 32 → tileElem (coreOf s' c).griddle.tiles q a b = if q = d then v a b else tileElem (coreOf s c).griddle.tiles q a b)
    ∧ ∃ y ∈ (coreOf s' c).griddle.segs, y.id = x.id ∧ y.close = none
        ∧ ((∀ e ∈ x.snaps, e.1 ≠ d) → y.snaps = x.snaps ++ [(d, tileKeys (coreOf s c).griddle.tiles d)])
        ∧ ((∃ e ∈ x.snaps, e.1 = d) → y.snaps = x.snaps)

/-- R298: word `w` of row `i` of an A fragment in registers `va` onward of strand `t`. -/
def fragmentWord (t : Strand) (va i w : Nat) : W32 :=
  if t.compat then mgetD t.ln.vregs (64 * (va + w) + i) 0 else mgetD t.ln.vregs (64 * (va + w % 8) + (i + 32 * (w / 8))) 0

/-- R300: a word that a `gmma` reads: as it is now, or as it was when the reads that the griddle has begun for it began. -/
def GmmaReads (g : Griddle) (f : LaneFields) (v now : Nat) (old : Reading → Nat) : Prop :=
  v = now ∨ ∃ y, g.reading = some y ∧ y.instr = f ∧ v = old y

/-- R94, R299: an element after a `gmma`: four groups of the products in ascending order, each summed exactly and rounded to FP32, each
added to the element in FP32. -/
def fourGroups (d : Nat) (n : Nat) (term : Nat → Num) : Nat :=
  ((List.range 4).map fun q => fp32.result false (Num.gsum ((List.range n).map fun m => term (q * n + m)))).foldl addF32 d

/-- R307: the stream has stopped at `next` with a trap held in its segment, which has closed. -/
def StreamTraps (s s' : State) (c : Nat) (x : Segment) (code detail : Nat) (faddr : Word) (next : Nat) : Prop :=
  OnlyStream s s' c ∧ (coreOf s' c).griddle.run = false ∧ (coreOf s' c).griddle.next = next
    ∧ ∃ y ∈ (coreOf s' c).griddle.segs, y.id = x.id ∧ y.close = some s.now
        ∧ y.trap = some { code := BitVec.ofNat 8 code, stream := .matrix, detail := BitVec.ofNat 16 detail, index := 0,
                          place := BitVec.ofNat 64 (coreOf s c).griddle.next, lanes := 0, faddr := faddr }

/-- R304: the meet counter of a point in the holding block's area. -/
def meetWord (s : State) (c n : Nat) : Nat :=
  ((blockAt s (coreOf s c).griddle.holder).map fun b => memNat b.scratch (8 * n) 8).getD 0

/-- R304: the segment `x` has closed at this tick with the signal that the word asks for: the point takes the amount, and stops at
2^64 - 1; every other byte of scratch is as it was. -/
def Signalled (s s' : State) (c : Nat) (x : Segment) (f : LaneFields) : Prop :=
  let sp := f.imm.toNat / 16 % 16
  OnlyStream s s' c ∧ (coreOf s' c).griddle.latch = none ∧ (∃ y ∈ (coreOf s' c).griddle.segs, y.id = x.id ∧ y.close = some s.now)
    ∧ (f.imm.getLsbD 9 = true → meetWord s' c sp = min (meetWord s c sp + f.vc.toNat) (2 ^ 64 - 1))
    ∧ ∀ q y, blockAt s q = some y → ∃ z, blockAt s' q = some z ∧ ∀ o, (f.imm.getLsbD 9 = false ∨ q ≠ (coreOf s c).griddle.holder ∨ o < 8 * sp ∨ 8 * sp + 8 ≤ o) →
        memByte z.scratch o = memByte y.scratch o

/-! ### The damper (spec/17) -/

/-- The interpreter of partition `p` runs with registers, condition state and place `r`. -/
structure DamperRuns (s : State) (p : Nat) (r : Interp) : Prop where
  agent  : s.agent = .damper p
  interp : (partAt s p).interp = some r

/-- R341: the cycles of an instruction of `n` cycles with MODE `m`. -/
def damperCycles (n : Nat) (m : BitVec 2) : Nat := if m.toNat = 2 then n + 1 else n

/-- R58: the words of an instruction with MODE `m`. -/
def damperWords (m : BitVec 2) : Nat := if m.toNat = 2 then 2 else 1

/-- R349: the value of src: a register, the 4-bit immediate, or the word that follows. -/
def damperSrc (r : Interp) (s : BitVec 4) (m : BitVec 2) (x : BitVec 16) : Word :=
  match m.toNat with
  | 0 => mgetD r.regs s.toNat 0
  | 1 => s.setWidth 64
  | _ => x.setWidth 64

/-- R340: an instruction of the damper changes the registers, the condition state and the word index, and nothing else; its cycles
count. -/
def DamperGoes (i : Instr) (s : State) (p : Nat) (r : Interp) (cycles pc : Nat) (P : Interp → Prop) : Prop :=
  ∃ s' j, exec i s = .next s' ∧ (partAt s' p).interp = some j ∧ P j ∧ j.cycles = r.cycles + cycles ∧ j.pc = pc
    ∧ { j with regs := r.regs, eq := r.eq, ltn := r.ltn, lts := r.lts, cycles := r.cycles, pc := r.pc } = r
    ∧ { partAt s' p with interp := (partAt s p).interp } = partAt s p ∧ (∀ q, q ≠ p → partAt s' q = partAt s q)
    ∧ { s' with parts := s.parts } = s

/-- Register `d` of the interpreter has become `v`; the others are as they were. -/
def DamperWrites (r j : Interp) (d : BitVec 4) (v : Word) : Prop :=
  ∀ n, mgetD j.regs n 0 = if n = d.toNat then v else mgetD r.regs n 0

/-- R351: the condition state is that of a comparison of `a` with `b`. -/
def DamperCompared (j : Interp) (a b : Word) : Prop :=
  j.eq = decide (a = b) ∧ j.ltn = decide (a.toNat < b.toNat) ∧ j.lts = decide (a.toInt < b.toInt)

/-- The condition state is as it was. -/
def SameCondition (r j : Interp) : Prop := j.eq = r.eq ∧ j.ltn = r.ltn ∧ j.lts = r.lts

/-- R350: the operands of an arithmetic instruction and its result. -/
def damperArithOf : Instr → Option (BitVec 4 × BitVec 4 × BitVec 2 × BitVec 16 × (Nat → Nat → Nat))
  | .dAdd d s m x => some (d, s, m, x, fun a b => a + b)
  | .dSub d s m x => some (d, s, m, x, fun a b => a + 2 ^ 64 - b)
  | .dMul d s m x => some (d, s, m, x, fun a b => a * b)
  | .dMin d s m x => some (d, s, m, x, fun a b => min a b)
  | .dMax d s m x => some (d, s, m, x, fun a b => max a b)
  | .dAnd d s m x => some (d, s, m, x, fun a b => a &&& b)
  | .dOr d s m x => some (d, s, m, x, fun a b => a ||| b)
  | .dXor d s m x => some (d, s, m, x, fun a b => a ^^^ b)
  | .dShl d s m x => some (d, s, m, x, fun a b => a * 2 ^ (b % 64))
  | .dShr d s m x => some (d, s, m, x, fun a b => a / 2 ^ (b % 64))
  | _ => none

/-- R351: a condition code of `jf` holds. -/
def JumpHolds (r : Interp) (cc : Nat) : Prop :=
  match cc with
  | 0 => True
  | 1 => r.eq = true
  | 2 => r.eq = false
  | 3 => r.ltn = true
  | 4 => r.ltn = false
  | 5 => r.ltn = false ∧ r.eq = false
  | 6 => r.ltn = true ∨ r.eq = true
  | 7 => r.lts = true
  | 8 => r.lts = false
  | 9 => r.lts = false ∧ r.eq = false
  | 10 => r.lts = true ∨ r.eq = true
  | _ => False

/-- R352: the view that a load reads. -/
def damperLoadOf : Instr → Option (Nat × BitVec 4 × BitVec 4 × BitVec 2 × BitVec 16)
  | .dLdq d s m x => some (0, d, s, m, x)
  | .dLdt d s m x => some (1, d, s, m, x)
  | .dLdh d s m x => some (2, d, s, m, x)
  | .dLde d s m x => some (3, d, s, m, x)
  | _ => none

/-- R353: the candidates of a `best` with descriptor `q`, from entry `first` on. -/
def BestCandidate (r : Interp) (first q e : Nat) : Prop :=
  first ≤ e ∧ e < first + q / 128 % 16 + 1 ∧ e < viewSize r (q % 4) ∧ (viewWord r (q % 4) e 0).getLsbD 0 = true

/-- R353: `e` is at least as good as `f`: by its key, and by its number among equals. -/
def BestBefore (r : Interp) (q e f : Nat) : Prop :=
  let k n := (viewWord r (q % 4) n (q / 8 % 16)).toNat
  if q / 4 % 2 = 1 then k f < k e ∨ (k f = k e ∧ e ≤ f) else k e < k f ∨ (k e = k f ∧ e ≤ f)

/-- R339, R354: the MODE of a decision instruction, whether it is accepted for an event, and what it does to the state; none
where the state does not allow it. -/
def decisionOf : Instr → Option (BitVec 2 × (DecEvent → Bool) × (State → Nat → Interp → Option State))
  | .dDsp q x m w => some (m, fun e => e.kind = 0,
      fun s p r => dispatchHead s p r.event.hearth (mgetD r.regs q.toNat 0).toNat (damperSrc r x m w).toNat false true)
  | .dPre c => some (0, fun e => e.kind = 1, fun s p r => preCore s p (mgetD r.regs c.toNat 0).toNat)
  | .dPark => some (0, fun e => e.kind = 2, fun s p r => parkEvent s p r.event)
  | .dKill => some (0, fun e => e.kind = 1 ∨ e.kind = 2, fun s p r => killEvent s p r.event)
  | .dRetry x m w => some (m, fun e => e.kind = 2, fun s p r => retryEvent s p r.event (damperSrc r x m w).toNat)
  | .dSusp => some (0, fun e => e.kind = 3, fun s p r => suspEvent s p r.event)
  | .dGrant => some (0, fun e => e.kind = 3, fun s _ r => grantEvent s r.event)
  | _ => none

/-- R342: the state once the fallback of an event of kind PREEMPT or ENGINE has been performed: the hub holds. -/
def HeldAfter (s s' : State) (p : Nat) (e : DecEvent) : Prop :=
  (e.kind = 3 → s' = s) ∧ (e.kind = 1 → s' = modGang s p e.gang fun g => { g with quantum := s.now })

/-! ### Encodings and steps (spec/02) -/

/-- The fields of a lane or matrix word with no predicate, no modifier, no clamp, no scale and numeric slot 0. -/
def plainFields (opc : BitVec 8) (type : BitVec 4) (vd va vb vc : BitVec 10) (func : BitVec 8) (imm : BitVec 16) : LaneFields :=
  { opc := opc, type := type, vd := vd, va := va, vb := vb, vc := vc, pred := 31, pneg := 0, modc := 0, modb := 0, moda := 0,
    clamp := 0, scale := 0, slot := 0, func := func, imm := imm }

/-- The words at the program counter of agent `a`, which may issue and whose issue slot grants it (R182), are those of the
instruction `i`. -/
def AtInstruction (s : State) (a : Agent) (i : Instr) : Prop :=
  match a with
  | .none => False
  | .scalar c l => ∃ t bs, strandAt s c l = some t ∧ granted s c l 0 t = true ∧ scalarMay s c t = true ∧ codeOwned s c t.part t.sc.spc 4 = false
      ∧ fetchScalar s c t t.sc.spc 4 = .ok bs ∧ decodeScalar (BitVec.ofNat 32 (leNat bs)) = .ok i
  | .lane c l => ∃ t r bs, strandAt s c l = some t ∧ laneMay s c t = true ∧ collectorFree s c l t = true ∧ t.st.current = some r
      ∧ granted s c l (if transferSlot i then 2 else 1) t = true
      ∧ laneOwned s c t (r.entry.clause.toNat + r.index) = false
      ∧ fetchLane s c t (r.entry.clause.toNat + r.index) = .ok bs ∧ decodeLane (BitVec.ofNat 96 (leNat bs)) = .ok i
  | .matrix c => ∃ b bs, matrixMay s c = true ∧ (coreOf s c).griddle.waiting = none ∧ (openSeg (coreOf s c).griddle).isSome
      ∧ blockAt s (coreOf s c).griddle.holder = some b
      ∧ (∀ r, recordOf s b.part b.grid = some r → codeOwned s c b.part (r.mcode + BitVec.ofNat 64 (12 * (coreOf s c).griddle.next)) 12 = false)
      ∧ fetchMatrix s c b (coreOf s c).griddle.next = .ok bs ∧ decodeMatrix (BitVec.ofNat 96 (leNat bs)) = .ok i
  | .damper p => ∃ r n, (partAt s p).interp = some r ∧ decodeDamper (r.policy.getD r.pc 0) (r.policy.getD (r.pc + 1) 0) = .ok (i, n)

/-- What a step makes of the answer of an instruction: its issue is noted, and no agent is selected. -/
def AfterInstruction (a : Agent) (i : Instr) (r : Out) : Out :=
  match r with
  | .next t => .next { afterIssue a (transferSlot i) t with agent := .none }
  | other => other

/-! ### Events (spec/98) -/

/-- The event `i` happens in `s`, and `P` holds of the state after it. -/
def Happens (i : Instr) (s : State) (P : State → Prop) : Prop := ∃ s', exec i s = .next s' ∧ P s'

/-- R204: `ec` is the latest of the close tick `cl` and the effective closes of what a region or segment rests on. -/
def LatestClose (s : State) (c : Nat) (deps : List Nat) (cl ec : Nat) : Prop :=
  cl ≤ ec ∧ (∀ d ∈ allDeps s c deps, ∀ e q, ownerOf s c d = some (some e, q) → e ≤ ec)
    ∧ (ec = cl ∨ ∃ d ∈ allDeps s c deps, ∃ q, ownerOf s c d = some (some ec, q))

/-- The segment `id` of core `c` has `P`. -/
def SegmentOf (s : State) (c id : Nat) (P : Segment → Prop) : Prop := ∃ y ∈ (coreOf s c).griddle.segs, y.id = id ∧ P y

/-- The region `id` of a strand has `P`. -/
def RegionOf (s : State) (c l id : Nat) (P : Region → Prop) : Prop := ∃ t r, strandAt s c l = some t ∧ regionAt t id = some r ∧ P r

/-- Memory and the strands are as they were. -/
def NoStrand (s s' : State) : Prop := s'.mem = s.mem ∧ s'.strands = s.strands

/-- The strand of a slot has `P`. -/
def StrandOf (s : State) (c l : Nat) (P : Strand → Prop) : Prop := ∃ t, strandAt s c l = some t ∧ P t

/-- The header of the clause at the front of a strand's queue is known, or reads as `h`. -/
def HeaderIs (s : State) (c : Nat) (t : Strand) (q : Queued) (h : Header) : Prop :=
  q.header = some h ∨ (q.header = none ∧ laneOwned s c t q.clause.toNat = false
    ∧ ∃ bs, fetchLane s c t q.clause.toNat = .ok bs ∧ readHeader (leNat bs) = some h)

/-- A trap with this code and detail has been held against the lane stream of a strand, which has stopped. -/
def LaneTrapHeld (s' : State) (c l : Nat) (t : Strand) (code detail : Nat) : Prop :=
  StrandOf s' c l fun t' => t'.stopped = true ∧ ∃ h, t'.traps = t.traps ++ [h] ∧ h.record.code.toNat = code ∧ h.record.detail.toNat = detail
    ∧ h.record.stream = .lane

/-- The effect `id` stands at `stage`. -/
def EffectStands (s : State) (id : Nat) (stage : Stage) : Prop := ∃ e ∈ s.effects, e.id = id ∧ e.stage = stage

/-- The gang `g` of a partition has `P`. -/
def GangIs (s : State) (p g : Nat) (P : Gang → Prop) : Prop := ∃ launch x, gangAt s p g = some (launch, x) ∧ P x

/-- R24, R30, R178, R324: the strand `t` of partition `p` stands as its grid starts it, with the stack base `base`. -/
def StartsAs (s : State) (p : Nat) (t : Strand) (base : Word) : Prop :=
  ∃ g b, gridAt s p t.grid = some g ∧ blockAt s t.block = some b
    ∧ t.sc.spc = canonPc (g.record.scode.toNat + 4) ∧ t.sc.exec = (if g.compat then 0xFFFFFFFF else -1)
    ∧ (∀ n, sget t.sc n = if n = 2 ∨ n = 3 then base else if n = 4 then g.record.arg else if n = 5 then BitVec.ofNat 64 b.number
        else if n = 6 then BitVec.ofNat 64 t.number else 0)
    ∧ (∀ n, mgetD t.ln.vregs n 0 = 0) ∧ t.sc.path = [] ∧ t.sc.mfull = 0 ∧ t.sc.demote = false ∧ t.sc.sticky = 0
    ∧ (g.record.sbase ≠ 0 → base = BitVec.ofNat 64 (g.record.sbase.toNat + (b.number * (g.record.bstr + 1) + t.number) * g.record.sstride))

/-- R369: what the context image `t'` of a strand keeps of it: everything but the registers, which are those that the recipe of its
open region names, or all of them where it has none. -/
def SavedAs (t t' : Strand) : Prop :=
  t'.number = t.number ∧ t'.block = t.block ∧ { t'.sc with sregs := t.sc.sregs, spoison := t.sc.spoison } = t.sc ∧ t'.st = t.st
    ∧ t'.regions = t.regions.filter (fun r => r.close.isNone)
    ∧ (t.recipe = none ∨ (t'.regions = [] ∧ t.atRegion = false) → t'.sc = t.sc ∧ t'.ln = t.ln)
    ∧ ∀ q res, t.recipe = some q → t'.regions ≠ [] ∨ t.atRegion = true → res = (t'.regions.getLast?.map fun r => r.results).getD {} →
      (∀ n, sget t'.sc n = if q.slive.getLsbD n = true ∨ n ∈ res.scalars then sget t.sc n else 0)
      ∧ (∀ k, mgetD t'.ln.vregs k 0 = if (∃ e ∈ q.ranges, e.1 ≤ k / 64 ∧ k / 64 ≤ e.2) ∨ k ∈ res.lanes then mgetD t.ln.vregs k 0 else 0)
      ∧ ∀ n, mgetD t'.ln.preds n 0 = if q.plive.getLsbD n = true ∨ n ∈ res.preds then mgetD t.ln.preds n 0 else 0

/-- The copy `id` has `P`. -/
def CopyIs (s : State) (id : Nat) (P : Copy → Prop) : Prop := ∃ y, copyAt s id = some y ∧ P y

/-- The last of the listed bytes at an address. -/
def lastAt (l : List (Nat × Byte)) (a : Nat) : Option Byte := (l.reverse.find? fun e => e.1 == a).map fun e => e.2

/-- Only the port `n` has changed, and `P` holds of it. -/
def PortOnly (s s' : State) (n : Nat) (P : Port → Prop) : Prop :=
  { s' with ports := s.ports } = s ∧ (∀ k, k ≠ n → portAt s' k = portAt s k) ∧ P (portAt s' n)

/-- R387: a write that only the semaphore's owner may make has the effect `P`; from the other port it is dropped and counted. -/
def OwnerEffect (i : Instr) (h : HostAccess) (s : State) (P : State → Prop) : Prop :=
  (portQuiet s h = false → exec i s = .next s)
  ∧ (portQuiet s h = true → ownsSem s h = false → Happens i s fun s' => PortOnly s s' h.port fun q =>
      q = { portAt s h.port with refused := (portAt s h.port).refused + 1 })
  ∧ (portQuiet s h = true → ownsSem s h = true → Happens i s P)

/-- A write that only the semaphore's owner may make, and that R387 does not count, has the effect `P`. -/
def OwnerOnly (i : Instr) (h : HostAccess) (s : State) (P : State → Prop) : Prop :=
  (portQuiet s h = false ∨ ownsSem s h = false → exec i s = .next s) ∧ (portQuiet s h = true → ownsSem s h = true → Happens i s P)

/-- A write that only the semaphore's owner, or Zhevwell under its policy, may make has the effect `P`. -/
def OwnerOrZhevwell (i : Instr) (h : HostAccess) (s : State) (P : State → Prop) : Prop :=
  (byZhevwell h = false → OwnerOnly i h s P) ∧ (byZhevwell h = true → Happens i s P)

/-- A write of a register of a partition's function has the effect `P` where the function answers and the access may be made. -/
def FunctionWrite (i : Instr) (h : HostAccess) (p : Nat) (s : State) (P : State → Prop) : Prop :=
  (vfMay s h p = false → exec i s = .next s) ∧ (vfMay s h p = true → Happens i s P)

/-- Only the partition `p` has changed, to `x`. -/
def PartOnly (s s' : State) (p : Nat) (x : Partition) : Prop :=
  { s' with parts := s.parts } = s ∧ partAt s' p = x ∧ ∀ q, q ≠ p → partAt s' q = partAt s q

/-- The registers of a function that hold what is written to them, with what the write does to the partition. -/
def functionRegister (r : RegPlace) (v : Word) : Option (Nat × (Partition → Partition)) :=
  match r with
  | .trec p q => if q < 64 then some (p, fun x => { x with queues := mset x.queues q { queueOf x q with trec := v } }) else none
  | .tctr p q => if q < 64 then some (p, fun x =>
      { x with queues := mset x.queues q { queueOf x q with tctr := if (queueOf x q).trec = 0 then v else (queueOf x q).tctr } }) else none
  | .ttgt p q => if q < 64 then some (p, fun x =>
      { x with queues := mset x.queues q { queueOf x q with ttgt := if (queueOf x q).trec = 0 then v else (queueOf x q).ttgt } }) else none
  | .trapTable p n 0 => if n < 16 then some (p, fun x => { x with traps := mset x.traps n { trapAt x n with scode := v } }) else none
  | .trapTable p n 1 => if n < 16 then some (p, fun x => { x with traps := mset x.traps n { trapAt x n with hoff := v } }) else none
  | .trapTable p n 2 => if n < 16 then some (p, fun x => { x with traps := mset x.traps n { trapAt x n with handled := v } }) else none
  | .trapTable p n 3 => if n < 16 then some (p, fun x => { x with traps := mset x.traps n { trapAt x n with valid := v &&& 1 } }) else none
  | .ptroot p => some (p, fun x => { x with ptroot := BitVec.ofNat 64 (v.toNat % 2 + v.toNat % 2 ^ 52 / 256 * 256) })
  | .msrc p => some (p, fun x => { x with msrc := v })
  | .mdst p => some (p, fun x => { x with mdst := v })
  | .gsel p => some (p, fun x => { x with gsel := v })
  | .debugMode p => some (p, fun x => { x with lstep := v.getLsbD 2, brkarm := v.getLsbD 3 })
  | .dstrand p => some (p, fun x => { x with dstrand := v.setWidth 36 })
  | _ => none

/-- The damper's registers that a function's host or the semaphore's holder writes. -/
def damperRegister (r : RegPlace) (v : Word) : Option (Nat × (Partition → Partition)) :=
  match r with
  | .dpbase p => some (p, fun x => { x with dpbase := v })
  | .dplen p => some (p, fun x => { x with dplen := v.setWidth 11 })
  | .dpswap p => some (p, fun x => { x with dpswap := v })
  | .dpquant p => some (p, fun x => { x with dpquant := v })
  | _ => none

/-- The package registers that only the semaphore's owner writes. -/
def packageRegister (r : RegPlace) (v : Word) : Option (State → State) :=
  match r with
  | .recordWord p w => if p < 16 ∧ w < 16 then some fun s => modPart s p fun x => { x with staged := mset x.staged w v } else none
  | .fwaddr => some fun s => { s with fw := { s.fw with fwaddr := v } }
  | .fwlen => some fun s => { s with fw := { s.fw with fwlen := v.setWidth 32 } }
  | .groupOwner g => if g < 65536 then some fun s => { s with groups := mset s.groups g { groupAt s g with owner := v.toNat % 32 } } else none
  | .groupRanks g => if g < 65536 then some fun s => { s with groups := mset s.groups g { groupAt s g with ranks := v.toNat % 65536 } } else none
  | .groupRank g => if g < 65536 then some fun s => { s with groups := mset s.groups g { groupAt s g with rank := v.toNat % 65536 } } else none
  | .groupStraits g => if g < 65536 then some fun s => { s with groups := mset s.groups g { groupAt s g with straits := v.setWidth 18 } } else none
  | .policyKey p => if p < 16 then some fun s => { s with flash := { s.flash with policyKeys := mset s.flash.policyKeys p v } } else none
  | .cxlRole n => if n < 4 then some fun s => { s with flash := { s.flash with roles := mset s.flash.roles n (v.toNat % 2) } } else none
  | _ => none

end Sys2Proof.Machine

open Sys2Proof Sys2Proof.Machine

/-- R97, R98, R100, R103, R104: every arithmetic instruction of the table, when it is ready, retires with its result in
s[d], and changes nothing else. -/
def Obligations.ScalarArithmetic : Prop :=
∀ i rs d v, scalarResult i = some (rs, d, v) → ∀ s c l t, ScalarReady s c l t rs d.toNat → WritesScalar i s c l t d (v t.sc)

/-- R101: quotients round toward zero and remainders take the sign of the dividend; the two edge cases have fixed
results, and none traps. -/
def Obligations.DivisionResults : Prop :=
∀ s c l t (d a b : BitVec 7), ScalarReady s c l t [a.toNat, b.toNat] d.toNat →
    let x := sget t.sc a.toNat
    let y := sget t.sc b.toNat
    (y = 0 → WritesScalar (.sdivI64 d a b) s c l t d 0xFFFFFFFFFFFFFFFF ∧ WritesScalar (.sdivN64 d a b) s c l t d 0xFFFFFFFFFFFFFFFF
      ∧ WritesScalar (.sremI64 d a b) s c l t d x ∧ WritesScalar (.sremN64 d a b) s c l t d x)
    ∧ (x.toInt = -2 ^ 63 ∧ y.toInt = -1 →
      WritesScalar (.sdivI64 d a b) s c l t d (BitVec.ofInt 64 (-2 ^ 63)) ∧ WritesScalar (.sremI64 d a b) s c l t d 0)
    ∧ (y ≠ 0 ∧ ¬ (x.toInt = -2 ^ 63 ∧ y.toInt = -1) → ∃ q r : Word,
      WritesScalar (.sdivI64 d a b) s c l t d q ∧ WritesScalar (.sremI64 d a b) s c l t d r
      ∧ q.toInt = Int.tdiv x.toInt y.toInt ∧ x.toInt = q.toInt * y.toInt + r.toInt
      ∧ (r.toInt = 0 ∨ r.toInt.sign = x.toInt.sign))
    ∧ (y ≠ 0 → ∃ q r : Word, WritesScalar (.sdivN64 d a b) s c l t d q ∧ WritesScalar (.sremN64 d a b) s c l t d r
      ∧ q.toNat = x.toNat / y.toNat ∧ x.toNat = q.toNat * y.toNat + r.toNat ∧ r.toNat < y.toNat)

/-- R102: the count is the low 6 bits of s[b] or of the immediate; zeros or copies of bit 63 come in, and a word whose
immediate has a bit above its count is no instruction.
R45, R104: `scmp` writes 1 where its condition holds and 0 where it does not; a code that names no condition takes
the reserved-encoding trap with cause 0x03. -/
def Obligations.ShiftsAndCompares : Prop :=
  ((∀ s c l t (d a b : BitVec 7), ScalarReady s c l t [a.toNat, b.toNat] d.toNat →
    let x := sget t.sc a.toNat
    let n := ((sget t.sc b.toNat).setWidth 6).toNat
    ∃ u v w : Word, WritesScalar (.sshl d a b) s c l t d u ∧ WritesScalar (.sshr d a b) s c l t d v ∧ WritesScalar (.ssra d a b) s c l t d w
      ∧ ∀ k, k < 64 → (u.getLsbD k = (decide (n ≤ k) && x.getLsbD (k - n))) ∧ (v.getLsbD k = (decide (k + n < 64) && x.getLsbD (k + n)))
        ∧ (w.getLsbD k = if k + n < 64 then x.getLsbD (k + n) else x.getLsbD 63))
  ∧ (∀ s c l t (d a : BitVec 7) (i : BitVec 6), ScalarReady s c l t [a.toNat] d.toNat →
    let x := sget t.sc a.toNat
    ∃ u v w : Word, WritesScalar (.sshlImm d a i) s c l t d u ∧ WritesScalar (.sshrImm d a i) s c l t d v ∧ WritesScalar (.ssraImm d a i) s c l t d w
      ∧ ∀ k, k < 64 → (u.getLsbD k = (decide (i.toNat ≤ k) && x.getLsbD (k - i.toNat)))
        ∧ (v.getLsbD k = (decide (k + i.toNat < 64) && x.getLsbD (k + i.toNat)))
        ∧ (w.getLsbD k = if k + i.toNat < 64 then x.getLsbD (k + i.toNat) else x.getLsbD 63))
  ∧ (∀ (o : BitVec 6) (d a : BitVec 7) (i : BitVec 12), o.toNat = 0x07 ∨ o.toNat = 0x08 ∨ o.toNat = 0x09 → 64 ≤ i.toNat →
    decodeScalar (o ++ d ++ a ++ i) = .error .reservedField))
  ∧ (∀ s c l t (d a b : BitVec 7) (k : BitVec 4),
    (ScalarReady s c l t [a.toNat, b.toNat] d.toNat → k.toNat ≤ 5 →
      (Condition k.toNat (sget t.sc a.toNat) (sget t.sc b.toNat) → WritesScalar (.scmp d a b k) s c l t d 1)
      ∧ (¬ Condition k.toNat (sget t.sc a.toNat) (sget t.sc b.toNat) → WritesScalar (.scmp d a b k) s c l t d 0))
    ∧ (s.agent = .scalar c l → strandAt s c l = some t → 5 < k.toNat → Traps (.scmp d a b k) s c l t 0x02 0x03))

/-- R45, R106, R114: a branch whose condition fails steps to the next instruction; one whose condition holds jumps to its
address plus 4 times its offset, or demotes; `sj` always jumps so.
R107, R108, R377: calls write ln and count RDEPTH up, returns count it down, and each trap comes before any effect, the
return-stack test first. An `sret` of a trap level is a statement of its own. -/
def Obligations.BranchesCallsReturns : Prop :=
  ((∀ i k a b o, branchOf i = some (k, a, b, o) → ∀ s c l t, ScalarReady s c l t [a.toNat, b.toNat] 0 →
    (¬ Condition k (sget t.sc a.toNat) (sget t.sc b.toNat) → RetiresWith i s c l t { t.sc with spc := t.sc.spc + 4 })
    ∧ (Condition k (sget t.sc a.toNat) (sget t.sc b.toNat) → JumpTaken i s c l t o.toInt))
  ∧ (∀ o s c l t, ScalarReady s c l t [] 0 → JumpTaken (.sj o) s c l t o.toInt))
  ∧ ((∀ o s c l t, ScalarReady s c l t [] 1 →
    (t.sc.rdepth.toNat < 65535 → ∃ y, Called t.sc y (wordsFrom t.sc.spc o.toInt) ∧ RetiresWith (.scall o) s c l t y)
    ∧ (t.sc.rdepth.toNat = 65535 → Traps (.scall o) s c l t 0x0A 0))
  ∧ (∀ (a : BitVec 7) s c l t, ScalarReady s c l t [a.toNat] 1 →
    (t.sc.rdepth.toNat < 65535 → JumpTarget (sget t.sc a.toNat) →
      ∃ y, Called t.sc y (sget t.sc a.toNat) ∧ RetiresWith (.scallr a) s c l t y)
    ∧ (t.sc.rdepth.toNat = 65535 → Traps (.scallr a) s c l t 0x0A 0)
    ∧ (t.sc.rdepth.toNat < 65535 → ¬ JumpTarget (sget t.sc a.toNat) → Traps (.scallr a) s c l t 0x01 0))
  ∧ (∀ s c l t, ScalarReady s c l t [1] 0 →
    (0 < t.sc.rdepth.toNat → JumpTarget (sget t.sc 1) → (t.sc.tdepth = false ∨ t.sc.entryd.toNat < t.sc.rdepth.toNat) →
      RetiresWith .sret s c l t { t.sc with rdepth := t.sc.rdepth - 1, spc := sget t.sc 1 })
    ∧ (t.sc.rdepth.toNat = 0 → Traps .sret s c l t 0x0B 0)
    ∧ (0 < t.sc.rdepth.toNat → ¬ JumpTarget (sget t.sc 1) → Traps .sret s c l t 0x01 0))
  ∧ (∀ (a : BitVec 7) s c l t, ScalarReady s c l t [a.toNat] 0 →
    (JumpTarget (sget t.sc a.toNat) → RetiresWith (.sjr a) s c l t { t.sc with spc := sget t.sc a.toNat })
    ∧ (¬ JumpTarget (sget t.sc a.toNat) → Traps (.sjr a) s c l t 0x01 0)))

/-- R377: an `sret` that leaves RDEPTH below ENTRYD ends the trap level: it jumps to ln, and ln becomes TLN. -/
def Obligations.TrapHandlerReturn : Prop :=
∀ s c l t, ScalarReady s c l t [1] 0 → 0 < t.sc.rdepth.toNat → JumpTarget (sget t.sc 1) → t.sc.tdepth = true →
    t.sc.rdepth.toNat ≤ t.sc.entryd.toNat →
    ∃ y, RetiresWith .sret s c l t y ∧ y.spc = sget t.sc 1 ∧ y.tdepth = false ∧ y.rdepth.toNat = t.sc.rdepth.toNat - 1
      ∧ (∀ r, sget y r = if r = 1 then t.sc.tln else sget t.sc r)
      ∧ { y with sregs := t.sc.sregs, spoison := t.sc.spoison, spc := t.sc.spc, tdepth := t.sc.tdepth, rdepth := t.sc.rdepth } = t.sc

/-- R111 to R115, R31: pushes, `pqnext` and `syield`: what each does to the path stack, EXEC, SPC and DEMOTE, and the
traps of a full stack and of a pop that finds no path with lanes.
Where the spec leaves a point open it rests on the model's own choices: DEDUCED, log 102.
R31, R116: a `pqload` of a legal image replaces the path stack, and its traps leave it alone: a misaligned address, a stack that is
not empty, a COUNT above 16 or a reserved bit of the header or of an entry. -/
def Obligations.PathStack : Prop :=
  ((∀ (a : BitVec 7) (o : BitVec 12) s c l t, ScalarReady s c l t [a.toNat] 0 →
    let m := sget t.sc a.toNat &&& t.sc.exec
    (m = 0 → RetiresWith (.pqpush a o) s c l t { t.sc with spc := t.sc.spc + 4 })
    ∧ (m ≠ 0 → t.sc.path.length < 16 → RetiresWith (.pqpush a o) s c l t
        { t.sc with path := t.sc.path ++ [{ mask := m, addr := wordsFrom t.sc.spc o.toInt, join := false }], spc := t.sc.spc + 4 })
    ∧ (m ≠ 0 → 16 ≤ t.sc.path.length → Traps (.pqpush a o) s c l t 0x08 0))
  ∧ (∀ (o : BitVec 12) s c l t, ScalarReady s c l t [] 0 →
    (t.sc.path.length < 16 → RetiresWith (.pqjoin o) s c l t
        { t.sc with path := t.sc.path ++ [{ mask := t.sc.exec, addr := wordsFrom t.sc.spc o.toInt, join := true }], spc := t.sc.spc + 4 })
    ∧ (16 ≤ t.sc.path.length → Traps (.pqjoin o) s c l t 0x08 0))
  ∧ (∀ s c l t, ScalarReady s c l t [] 0 →
    (∀ y, Pops t.compat t.sc y → RetiresWith .pqnext s c l t { y with demote := false })
    ∧ ((∀ e ∈ t.sc.path, e.empty) → Traps .pqnext s c l t 0x09 0))
  ∧ (∀ s c l t, ScalarReady s c l t [] 0 →
    (∀ y, Demotes t.compat t.sc y (t.sc.spc + 4) → ∃ s' t', exec .syield s = .next s' ∧ OnlyStrand s s' c l
        ∧ strandAt s' c l = some t' ∧ OnlyScalar { t with issued := t'.issued } t' ∧ t'.sc = { y with seq := y.seq + 1 }
        ∧ t'.issued.head? = some ((coreOf s c).cycle + 1) ∧ t'.issued.tail = t.issued.tail)
    ∧ ((∀ y, ¬ Demotes t.compat t.sc y (t.sc.spc + 4)) → Traps .syield s c l t 0x09 0)))
  ∧ (∀ (a : BitVec 7) s c l t, MemReady s c l t [a.toNat] 0 → (sget t.sc a.toNat).toNat % 16 ≠ 0 →
    Faults (.pqload a) s c l t 0x10 (sget t.sc a.toNat) ∧ Faults (.pqsave a) s c l t 0x10 (sget t.sc a.toNat))
  ∧ (∀ (a : BitVec 7) s c l t, MemReady s c l t [a.toNat] 0 → (sget t.sc a.toNat).toNat % 16 = 0 →
    let addr := sget t.sc a.toNat
    (t.sc.path ≠ [] → Traps (.pqload a) s c l t 0x08 0)
    ∧ (∀ hd n locs, t.sc.path = [] → readFault s c t addr 16 false = .ok hd → readWait s c t hd = none →
        leNat (hd.map (seenByte s c t)) = n → 1 ≤ n → n ≤ 16 → readFault s c t (addr + 16) (16 * n) false = .ok locs → readWait s c t locs = none →
        (∃ e b, e < n ∧ (b = 1 ∨ (57 ≤ b ∧ b < 64)) ∧ (leNat (((locs.map (seenByte s c t)).drop (16 * e)).take 8)).testBit b = true) →
        Traps (.pqload a) s c l t 0x03 0)
    ∧ (∀ hd n locs p, t.sc.path = [] → readFault s c t addr 16 false = .ok hd → readWait s c t hd = none →
        leNat (hd.map (seenByte s c t)) = n → 1 ≤ n → n ≤ 16 → readFault s c t (addr + 16) (16 * n) false = .ok locs → readWait s c t locs = none →
        readEntries n (locs.map (seenByte s c t)) = some p → RetiresLike (.pqload a) s c l t { t.sc with path := p, spc := t.sc.spc + 4 })
    ∧ (∀ hd, t.sc.path = [] → readFault s c t addr 16 false = .ok hd → readWait s c t hd = none →
        leNat (hd.map (seenByte s c t)) = 0 → RetiresLike (.pqload a) s c l t { t.sc with spc := t.sc.spc + 4 })
    ∧ (∀ hd, t.sc.path = [] → readFault s c t addr 16 false = .ok hd → readWait s c t hd = none →
        17 ≤ leNat (hd.map (seenByte s c t)) → Traps (.pqload a) s c l t 0x03 0))

/-- R110, R117, R131, R134: `sexec` narrows EXEC, `lk` sets a constant from the low half of a register, `stime` reads
package time, and `nop` has no effect.
R132, R187, R377: `srd` reads, and `swr` writes, each system register that its table lists; any other number takes
the reserved-encoding trap with cause 0x03.
R288: `sinfo` writes the summary of a live handle, and 0 for any other.
Where the spec leaves a point open it rests on the model's own choices: DESIGN CHOICE, log 147. -/
def Obligations.ControlAndSystemRegisters : Prop :=
  ((∀ (a : BitVec 7) s c l t, ScalarReady s c l t [a.toNat] 0 → RetiresWith (.sexec a) s c l t
    { t.sc with exec := if t.compat then t.sc.exec &&& sget t.sc a.toNat &&& 0xFFFFFFFF else t.sc.exec &&& sget t.sc a.toNat,
                spc := t.sc.spc + 4 })
  ∧ (∀ (k : BitVec 2) (a : BitVec 7) s c l t, ScalarReady s c l t [a.toNat] 0 → ∃ y, RetiresWith (.lk k a) s c l t y
    ∧ (∀ n, mgetD y.ks n 0 = if n = k.toNat then (sget t.sc a.toNat).setWidth 32 else mgetD t.sc.ks n 0)
    ∧ { y with ks := t.sc.ks } = { t.sc with spc := t.sc.spc + 4 })
  ∧ (∀ (d : BitVec 7) s c l t, ScalarReady s c l t [] d.toNat → WritesScalar (.stime d) s c l t d (BitVec.ofNat 64 s.now))
  ∧ (∀ s c l t, ScalarReady s c l t [] 0 → RetiresWith .nop s c l t { t.sc with spc := t.sc.spc + 4 }))
  ∧ ((∀ (d : BitVec 7) (n : BitVec 12) s c l t, s.agent = .scalar c l → strandAt s c l = some t →
    (n.toNat ∉ readable → Traps (.srd d n) s c l t 0x02 0x03)
    ∧ (n.toNat ∈ readable → ScalarReady s c l t [] d.toNat → ∃ v, WritesScalar (.srd d n) s c l t d v
      ∧ (n.toNat = 0x000 → v = if t.compat then t.sc.exec &&& 0xFFFFFFFF else t.sc.exec)
      ∧ (n.toNat = 0x001 → v = satfWord t.sc)
      ∧ (n.toNat = 0x002 → v = strandStatus t)
      ∧ (n.toNat = 0x003 → v = t.sc.mfull.setWidth 64)
      ∧ (n.toNat = 0x004 → v = (if t.sc.tdepth then 1 else 0) ||| ((t.sc.entryd.setWidth 64) <<< (16 : Nat)))
      ∧ (n.toNat = 0x005 → v = t.sc.tln)
      ∧ (n.toNat = 0x010 → v = strandPosition s t)
      ∧ (n.toNat = 0x020 → v = (coreOf s c).wakeBits.setWidth 64 ||| ((coreOf s c).wakes.setWidth 64 <<< (32 : Nat)))))
  ∧ (∀ (a : BitVec 7) (n : BitVec 12) s c l t, s.agent = .scalar c l → strandAt s c l = some t →
    let v := sget t.sc a.toNat
    (n.toNat ≠ 0x000 ∧ n.toNat ≠ 0x001 ∧ n.toNat ≠ 0x005 → Traps (.swr a n) s c l t 0x02 0x03)
    ∧ (ScalarReady s c l t [a.toNat] 0 →
      (n.toNat = 0x000 → RetiresWith (.swr a n) s c l t { t.sc with exec := if t.compat then v &&& 0xFFFFFFFF else v, spc := t.sc.spc + 4 })
      ∧ (n.toNat = 0x001 → RetiresWith (.swr a n) s c l t { t.sc with sticky := t.sc.sticky &&& ~~~(v.setWidth 7), spc := t.sc.spc + 4 })
      ∧ (n.toNat = 0x005 → RetiresWith (.swr a n) s c l t { t.sc with tln := v, spc := t.sc.spc + 4 }))))
  ∧ (∀ (d a : BitVec 7) s c l t g, ScalarReady s c l t [a.toNat] d.toNat → gridAt s t.part t.grid = some g →
    (liveSlot g (sget t.sc a.toNat) = none → WritesScalar (.sinfo d a) s c l t d 0)
    ∧ (∀ k, liveSlot g (sget t.sc a.toNat) = some k → ∃ v, WritesScalar (.sinfo d a) s c l t d v ∧ v.getLsbD 0 = true
        ∧ v.getLsbD 1 = (sliceAt g k).ready ∧ v.getLsbD 2 = (sliceAt g k).width32 ∧ v.extractLsb' 16 16 = (sliceAt g k).tag
        ∧ v.extractLsb' 32 16 = (sliceAt g k).nbytes ∧ v.extractLsb' 48 11 = (sliceAt g k).nframes))

/-- R20 to R22, R30, R105: a read of a full mailbox writes s[d] and clears it with its full bit; one of an empty mailbox waits while a clause may
still write it, and else takes the mailbox-underflow trap.
R12, R13, R118, R120: `lrun` queues a clause with the captured EXEC and constants while the queue has a place, and
waits while it has none; `lwait` retires once every clause has issued and the named flags are clear, and waits till then.
Where the spec leaves a point open it rests on the model's own choices: DESIGN CHOICE, log 147. -/
def Obligations.MailboxesAndClauses : Prop :=
  (∀ (d : BitVec 7) (m : BitVec 3) s c l t, ScalarReady s c l t [] d.toNat →
    (t.sc.mfull.getLsbD m.toNat = true → t.sc.mpoison.getLsbD m.toNat = false → ∃ x w y, RetiresWith (.smovMailbox d m) s c l t y
      ∧ WritesReg { t.sc with mfull := x, mdata := w } y d.toNat (mgetD t.sc.mdata m.toNat 0) (t.sc.spc + 4)
      ∧ (∀ k, x.getLsbD k = (t.sc.mfull.getLsbD k && decide (k ≠ m.toNat)))
      ∧ ∀ k, mgetD w k 0 = if k = m.toNat then 0 else mgetD t.sc.mdata k 0)
    ∧ (t.sc.mfull.getLsbD m.toNat = true → t.sc.mpoison.getLsbD m.toNat = true →
      ∃ s' t', exec (.smovMailbox d m) s = .next s' ∧ strandAt s' c l = some t' ∧ t'.stopped = true ∧ t'.sc = t.sc
        ∧ ∃ h, t'.traps = t.traps ++ [h] ∧ h.record = scalarRecord 0x06 0 t.sc.spc)
    ∧ (t.sc.mfull.getLsbD m.toNat = false → MayWriteMailbox t m.toNat →
      ∃ s', exec (.smovMailbox d m) s = .next s' ∧ OnlyStrand s s' c l ∧ strandAt s' c l = some { t with swait := .mailbox })
    ∧ (t.sc.mfull.getLsbD m.toNat = false → ¬ MayWriteMailbox t m.toNat → Traps (.smovMailbox d m) s c l t 0x07 m.toNat))
  ∧ ((∀ (n : BitVec 26) s c l t, ScalarReady s c l t [] 0 →
    (queueCount t < 8 → ∃ s' t', exec (.lrun n) s = .next s' ∧ OnlyStrand s s' c l ∧ strandAt s' c l = some t'
      ∧ t'.sc = { t.sc with spc := t.sc.spc + 4, seq := t.sc.seq + 1 }
      ∧ t'.st.current = t.st.current
      ∧ t'.st.queue = t.st.queue ++ [{ clause := n, exec := t.sc.exec, ks := t.sc.ks, seq := t.sc.seq, region := openId t, header := none, remat := false }]
      ∧ OnlyScalar { t with st := t'.st } t')
    ∧ (8 ≤ queueCount t → ∃ s', exec (.lrun n) s = .next s' ∧ OnlyStrand s s' c l ∧ strandAt s' c l = some { t with swait := .queueSlot }))
  ∧ (∀ (f : BitVec 12) s c l t, ScalarReady s c l t [] 0 →
    let free := t.st.queue = [] ∧ t.st.current = none ∧ ∀ n, n < 12 → f.getLsbD n = true → flagCount t n = 0
    (free → RetiresWith (.lwait f) s c l t { t.sc with spc := t.sc.spc + 4 })
    ∧ (¬ free → ∃ s', exec (.lwait f) s = .next s' ∧ OnlyStrand s s' c l ∧ strandAt s' c l = some { t with swait := .flags })))

/-- R109, R92: `exit` with an empty path stack and no pending saturation trap stops the scalar side, closes its region on
that side, and seals an open copy batch without a token; its two traps come first. A matrix trap that awaits delivery in the
strand goes to the block's report strand (R307). -/
def Obligations.ExitEndsStrand : Prop :=
∀ s c l t, ScalarReady s c l t [] 0 →
    (t.sc.path ≠ [] → Traps .exit s c l t 0x0C 0)
    ∧ (t.sc.path = [] → t.sc.trapPend = true → ∃ s' t' h, exec .exit s = .next s' ∧ OnlyStrand (endGraft s c l) s' c l ∧ strandAt s' c l = some t'
      ∧ t'.stopped = true ∧ t'.exited = t.exited ∧ t'.sc = t.sc ∧ t'.traps = t.traps ++ [h] ∧ h.kind = .saturation
      ∧ h.record = scalarRecord 0x0D t.sc.sticky.toNat t.sc.spc)
    ∧ (t.sc.path = [] → t.sc.trapPend = false → l < 64 → ∃ s' t', exec .exit s = .next s' ∧ s'.mem = s.mem ∧ strandAt s' c l = some t'
      ∧ ((∀ e ∈ residents s c, e.2.block = t.block → ∀ h ∈ e.2.traps, h.kind ≠ .matrix) → OnlyStrand s s' c l)
      ∧ t'.exited = true ∧ t'.sc = { t.sc with seq := t.sc.seq + 1 } ∧ t'.ln = t.ln ∧ t'.st = t.st
      ∧ t'.traps = t.traps.filter (fun h => h.kind != .matrix)
      ∧ (∀ r ∈ t'.regions, r.sclose ≠ none)
      ∧ (t.st.queue = [] → t.st.current = none → ∀ r ∈ t'.regions, r.close ≠ none)
      ∧ (∀ b ∈ t'.batches, b.sealed = false → b.copies = [])
      ∧ ∀ b ∈ t'.batches, b ∉ t.batches → b.reg = 0 ∧ b.sealed = true)

/-- R134, R99, R381: `trap` raises the software trap with its cause, and `brk` the breakpoint trap, each resuming at the next
instruction; with breakpoints armed on its grid, `brk` retires and the strand halts.
Where the spec leaves a point open it rests on the model's own choices: DESIGN CHOICE, log 122. -/
def Obligations.SoftwareTraps : Prop :=
∀ (n : BitVec 12) s c l t, s.agent = .scalar c l → strandAt s c l = some t →
    TrapsAfter (.trap n) s c l t 0x0E n.toNat
    ∧ (¬ ((partAt s t.part).brkarm = true ∧ (partAt s t.part).dgrid.toNat = t.grid) → TrapsAfter (.brk n) s c l t 0x0F n.toNat)
    ∧ ((partAt s t.part).brkarm = true → (partAt s t.part).dgrid.toNat = t.grid →
      ∃ s' t', exec (.brk n) s = .next s' ∧ OnlyStrand s s' c l ∧ strandAt s' c l = some t' ∧ t'.halted = true
        ∧ OnlyScalar { t with halted := true } t' ∧ t'.sc = { t.sc with spc := t.sc.spc + 4, seq := t.sc.seq + 1 })

/-- R46, R235, R253, R254: a load whose access has no fault and nothing to wait for leaves its register pending on an
operation that holds the locations of its bytes, and steps on; it writes no register and no memory.
Where the spec leaves a point open it rests on the model's own choices: DEDUCED, log 108. -/
def Obligations.ScalarLoads : Prop :=
∀ (d a : BitVec 7) (o : BitVec 6) (z h k : BitVec 3) s c l t locs, z.toNat ≠ 7 → MemReady s c l t [a.toNat] d.toNat →
    readFault s c t (accessAddr t.sc a o z) (accessBytes z) true = .ok locs → outstanding s c < 1024 →
    (h.toNat ≤ 5 → ∃ s', exec (.sld d a o z h) s = .next s' ∧ LoadIssued s s' c l t d.toNat (accessAddr t.sc a o z) locs (decide (z.toNat % 2 = 1)) none)
    ∧ (k.toNat ≤ 4 → ∃ s', exec (.sldAcquire d a o z k) s = .next s' ∧ LoadIssued s s' c l t d.toNat (accessAddr t.sc a o z) locs (decide (z.toNat % 2 = 1)) (some k))

/-- R116, R202, R234, R253: a store, a store release whose release has ended, and `pqsave`, when the access has no fault and
nothing to wait for: where their bytes go, and what stays.
R283: a `mark` stores its 16 bytes at sp, and fp and sp move over them.
Where the spec leaves a point open it rests on the model's own choices: DEDUCED, log 9; DESIGN CHOICE, log 125. -/
def Obligations.ScalarStores : Prop :=
(∀ (d a : BitVec 7) (o : BitVec 6) (z h k : BitVec 3) s c l t locs, z.toNat % 2 = 0 → MemReady s c l t [d.toNat, a.toNat] 0 →
    let addr := accessAddr t.sc a o z
    writeFault s c t addr (accessBytes z) true = .ok locs → StoreFree (keepFor s c t addr (accessBytes z)) c t locs →
    (h.toNat ≤ 3 → StoresScalar (.sst d a o z h) s c l t { t.sc with spc := t.sc.spc + 4 } locs (leBytes (accessBytes z) (sget t.sc d.toNat).toNat))
    ∧ (k.toNat ≤ 4 → ReleaseEnded s c l t k →
      StoresScalar (.sstRelease d a o z k) s c l t { t.sc with spc := t.sc.spc + 4 } locs (leBytes (accessBytes z) (sget t.sc d.toNat).toNat)))
  ∧ (∀ (a : BitVec 7) s c l t locs, MemReady s c l t [a.toNat] 0 →
    let addr := sget t.sc a.toNat
    let n := 16 * (t.sc.path.length + 1)
    addr.toNat % 16 = 0 → writeFault s c t addr n false = .ok locs → StoreFree (keepFor s c t addr n) c t locs →
    StoresScalar (.pqsave a) s c l t { t.sc with path := [], spc := t.sc.spc + 4 } locs
      (leBytes 16 t.sc.path.length ++ t.sc.path.flatMap entryBytes))
  ∧ (∀ (g : BitVec 16) s c l t locs, MemReady s c l t [2, 3] 2 → scalarReserveShort s c t [2, 3] = false →
    let sp := sget t.sc 2
    let fp := sget t.sc 3
    sp.toNat % 16 = 0 → fp.toNat % 16 = 0 → writeFault s c t sp 16 false = .ok locs → StoreFree (keepFor s c t sp 16) c t locs →
    ∃ y, StoresScalar (.mark g) s c l t y locs
        (leBytes 8 (18 + g.toNat * 2 ^ 16 + (fp - sp).toNat % 2 ^ 32 * 2 ^ 32) ++ leBytes 8 (t.sc.spc + 8).toNat)
      ∧ (∀ r, sget y r = if r = 2 then sp + 16 else if r = 3 then sp else sget t.sc r) ∧ y.spc = t.sc.spc + 4
      ∧ { y with sregs := t.sc.sregs, spoison := t.sc.spoison, spc := t.sc.spc } = t.sc)

/-- R233 to R235, R264: a fence whose release has ended and whose acquire may go ahead retires; one with an acquire at `.hth`
or wider flips the generation and ends the window leases. A kind or a scope that names none takes the reserved-encoding
trap with cause 0x03.
R234 steps 1 and 2, R210: the first step of a release at `.hth` or wider, once earlier clauses and operations are done and
no window is dirty: the head is taken when the open region has issued an effect, and the instruction waits.
Where the spec leaves a point open it rests on the model's own choices: DEDUCED, log 116. -/
def Obligations.FencesAndReleases : Prop :=
  (∀ (k : BitVec 2) (scope : BitVec 3) s c l t,
    ((k.toNat = 0 ∨ 4 < scope.toNat) → s.agent = .scalar c l → strandAt s c l = some t → Traps (.fence k scope) s c l t 0x02 0x03)
    ∧ (k.toNat ≠ 0 → scope.toNat ≤ 4 → MemReady s c l t [] 0 → (k.toNat ≠ 1 → ReleaseEnded s c l t scope) → (k.toNat = 1 → quiet t = true) →
      (k.toNat ≠ 2 → AcquireFree s c scope) →
      ∃ s' t', exec (.fence k scope) s = .next s' ∧ NoBytes s s' c l ∧ strandAt s' c l = some t' ∧ Advanced t t'
        ∧ (k.toNat ≠ 2 → Acquired s s' c t.block scope)
        ∧ (k.toNat = 2 → (coreOf s' c).gen = (coreOf s c).gen)))
  ∧ (∀ (scope : BitVec 3) s c l t, 2 ≤ scope.toNat → scope.toNat ≤ 4 → MemReady s c l t [] 0 → t.sphase = .idle → quiet t = true → headRoom t = true →
    (∀ b, blockAt s t.block = some b → dirtyChunks b none = []) →
    ∃ s' t', exec (.fence 2 scope) s = .next s' ∧ NoBytes s s' c l ∧ strandAt s' c l = some t' ∧ t'.sc = t.sc
      ∧ t'.sphase = .releasing ∧ t'.swait = .release
      ∧ (∀ r, openRegion t = some r → r.effect = true → ∃ n, t'.regions.getLast? = some n ∧ n.explicit = false ∧ n.close = none
          ∧ n.head = t.sc ∧ ∀ q ∈ t'.regions, q.id ≠ n.id → q.close ≠ none)
      ∧ ((∀ r, openRegion t = some r → r.effect = false) → t'.regions = t.regions))

/-- R266: a `cadd` whose release has ended: a counter of the own area takes the sum at once, saturated, with the overflow trap
held; one of a gang member waits in the hearth write buffer; one at a home is a held effect with a pending add.
R267, R268, R294: `cread` writes the counter's value; `cwait` and `meet` retire once the value has reached their target,
with an acquire, and a `cwait` for 0 at once.
Where the spec leaves a point open it rests on the model's own choices: DEDUCED, log 61. -/
def Obligations.Counters : Prop :=
  (∀ (a b : BitVec 7) (scope : BitVec 3) s c l t w, scope.toNat ≤ 4 → MemReady s c l t [a.toNat, b.toNat] 0 →
    let addr := sget t.sc a.toNat
    let amt := sget t.sc b.toNat
    counterAt s c t addr .write = .ok w → ReleaseEnded (keepFor s c t addr 8) c l t scope → (openRegion t).isSome →
    (∀ off, w = .own off → CounterFree s c t addr w → storeShort (keepFor s c t addr 8) c t (openId t) (counterLocs t w) = none →
      (blockAt s t.block).isSome →
      ∃ s' t', exec (.cadd a b scope) s = .next s' ∧ s'.mem = s.mem ∧ s'.effects = s.effects ∧ strandAt s' c l = some t'
        ∧ t'.sc = { t.sc with spc := t.sc.spc + 4, seq := t.sc.seq + 1 }
        ∧ areaWord s' t.block off = counterSum (areaWord s t.block off) amt
        ∧ (∀ x y o, blockAt s t.block = some x → blockAt s' t.block = some y → o < off ∨ off + 8 ≤ o → memByte y.scratch o = memByte x.scratch o)
        ∧ (2 ^ 64 ≤ (areaWord s t.block off).toNat + amt.toNat → ∃ h, t'.traps = t.traps ++ [h] ∧ h.record.code = 0x17 ∧ h.kind = .counter ∧ h.resume = t.sc.spc + 4)
        ∧ ((areaWord s t.block off).toNat + amt.toNat < 2 ^ 64 → t'.traps = t.traps))
    ∧ (∀ m off, w = .member m off → CounterFree s c t addr w → hwbUsed s c < 64 →
      ∃ s' t' h, exec (.cadd a b scope) s = .next s' ∧ NoBytes s s' c l ∧ strandAt s' c l = some t' ∧ Advanced t t'
        ∧ (coreOf s' c).hwb = (coreOf s c).hwb ++ [h] ∧ h.block = m ∧ h.off = off ∧ h.add = some amt ∧ h.owner = openId t)
    ∧ (∀ pa, w = .home pa → (coreOf s c).adds.length < 256 → outstanding s c < 1024 →
      ∃ s' t' e, exec (.cadd a b scope) s = .next s' ∧ s'.mem = s.mem ∧ s'.blocks = s.blocks ∧ strandAt s' c l = some t' ∧ Advanced t t'
        ∧ s'.effects = s.effects ++ [e] ∧ e.kind = .add pa amt ∧ e.home = homeOf s pa ∧ e.stage = .flight ∧ e.region = openId t
        ∧ ∃ p, (coreOf s' c).adds = (coreOf s c).adds ++ [p] ∧ p.addr = pa ∧ p.amount = amt ∧ p.effect = e.id))
  ∧ ((∀ (d a : BitVec 7) s c l t w, MemReady s c l t [a.toNat] d.toNat → counterAt s c t (sget t.sc a.toNat) .read = .ok w →
    CounterRead s t w →
    ∃ s' t' y, exec (.cread d a) s = .next s' ∧ NoBytes s s' c l ∧ strandAt s' c l = some t' ∧ t'.sc = { y with seq := y.seq + 1 }
      ∧ t'.ln = t.ln ∧ t'.traps = t.traps
      ∧ WritesReg t.sc y d.toNat (counterValue s c (match w with | .own _ => 1 | _ => 3) w t.block) (t.sc.spc + 4))
  ∧ (∀ (a b : BitVec 7) (scope : BitVec 3) s c l t w, scope.toNat ≤ 4 → MemReady s c l t [a.toNat, b.toNat] 0 →
    counterAt s c t (sget t.sc a.toNat) .read = .ok w → t.sc.trapPend = false → AcquireFree s c scope →
    (sget t.sc b.toNat = 0 ∨ (CounterFree s c t (sget t.sc a.toNat) w ∧ t.sphase = .headed
      ∧ (sget t.sc b.toNat).toNat ≤ (counterValue s c scope w t.block).toNat)) →
    ∃ s' t', exec (.cwait a b scope) s = .next s' ∧ NoBytes s s' c l ∧ strandAt s' c l = some t' ∧ Advanced t t' ∧ Acquired s s' c t.block scope
      ∧ ∀ x ∈ s'.watches, ¬ (x.core = c ∧ x.slot = l))
  ∧ (∀ (a : BitVec 7) (n : BitVec 4) s c l t x, MemReady s c l t [a.toNat] 0 → blockAt s t.block = some x → 128 ≤ x.area →
    t.sc.trapPend = false → (sget t.sc a.toNat).toNat ≤ (areaWord s t.block (8 * n.toNat)).toNat →
    ∃ s' t', exec (.meet a n) s = .next s' ∧ NoBytes s s' c l ∧ strandAt s' c l = some t' ∧ Advanced t t'))

/-- R109, R269, R271: a copy whose arguments are in range and whose queue has a place enters the open batch with its addresses,
size, strides and counter; out-of-range arguments take the copy-format trap; `cseal` seals the batch and leaves its
register pending on the token.
Where the spec leaves a point open it rests on the model's own choices: DEDUCED, log 88. -/
def Obligations.CopyIssue : Prop :=
(∀ (d a b : BitVec 7) s c l t, b.toNat + 3 ≤ 128 → MemReady s c l t [d.toNat, a.toNat, b.toNat, b.toNat + 1, b.toNat + 2] 0 →
    let g (i : Nat) : Word := sget t.sc (b.toNat + i)
    let q : CopyArgs := { src := sget t.sc a.toNat, dst := sget t.sc d.toNat, rowb := (g 0).toNat, rows := 1, sstr := 0, dstr := 0, ctr := g 1, amt := g 2 }
    (copyArgsOk q = true → copyQueue s t < 32 → ∃ s', exec (.cpy d a b) s = .next s' ∧ CopyIssued s s' c l t q)
    ∧ (copyArgsOk q = false → Traps (.cpy d a b) s c l t 0x18 0))
  ∧ (∀ (d a b : BitVec 7) s c l t, b.toNat + 6 ≤ 128 → MemReady s c l t [d.toNat, a.toNat, b.toNat, b.toNat + 1, b.toNat + 2, b.toNat + 3, b.toNat + 4, b.toNat + 5] 0 →
    let g (i : Nat) : Word := sget t.sc (b.toNat + i)
    let q : CopyArgs := { src := sget t.sc a.toNat, dst := sget t.sc d.toNat, rowb := (g 0).toNat, rows := (g 1).toNat, sstr := g 2, dstr := g 3, ctr := g 4, amt := g 5 }
    (rowsOk q = true → copyArgsOk q = true → copyQueue s t < 32 → ∃ s', exec (.cpy2d d a b) s = .next s' ∧ CopyIssued s s' c l t q)
    ∧ (rowsOk q = false ∨ copyArgsOk q = false → Traps (.cpy2d d a b) s c l t 0x18 0))
  ∧ (∀ (d : BitVec 7) s c l t, ScalarReady s c l t [] d.toNat →
    (∃ b ∈ t.batches, b.sealed = false) → (∀ b ∈ t.batches, b.sealed = false → b.copies ≠ []) → (∀ b ∈ t.batches, b.number ≠ t.nextBatch) →
    ∃ s' t' n, exec (.cseal d) s = .next s' ∧ OnlyStrand s s' c l ∧ strandAt s' c l = some t'
      ∧ t'.sc = { t.sc with spc := t.sc.spc + 4, seq := t.sc.seq + 1 }
      ∧ (∀ b ∈ t'.batches, b.sealed = true) ∧ n ∈ t'.batches ∧ n.number = t.nextBatch ∧ n.reg = d.toNat ∧ n.token = none
      ∧ (∃ b ∈ t.batches, b.sealed = false ∧ n.copies = b.copies)
      ∧ (d.toNat ≠ 0 → t'.tpend = t.tpend ++ [(d.toNat, t.nextBatch)]))

/-- R237, R240, R272, R273: mapping a window takes the lowest free number and writes it to s[d]; unmapping, flushing and
invalidating a mapped window, with the write-back of its dirty words; a number that names none takes the window fault. -/
def Obligations.Windows : Prop :=
(∀ (d a b : BitVec 7) (m : BitVec 2) s c l t x k, m.toNat ≠ 3 → b.toNat + 2 ≤ 128 →
    ScalarReady s c l t [a.toNat, b.toNat, b.toNat + 1] d.toNat → blockAt s t.block = some x →
    let g := sget t.sc a.toNat
    let sc := (sget t.sc b.toNat).toNat
    let n := (sget t.sc (b.toNat + 1)).toNat
    freeWindow x = some k → canonical g = true → windowOk x g.toNat sc n = true → 1 ≤ undoFree (coreOf s c) →
    ∃ y, RetiresLike (.wmap d a b m) s c l t y
      ∧ WritesReg t.sc y d.toNat (BitVec.ofNat 64 k) (t.sc.spc + 4)
      ∧ ∃ s' x', exec (.wmap d a b m) s = .next s' ∧ blockAt s' t.block = some x' ∧ x'.scratch = x.scratch
        ∧ (∀ j, mgetD x'.wins j WinDesc.reset = if j = k then
            { gbase := BitVec.ofNat 50 (g.toNat / 128), mode := m, valid := true, schunk := BitVec.ofNat 13 (sc / 128), nchunk := BitVec.ofNat 14 n }
            else mgetD x.wins j WinDesc.reset)
        ∧ ∀ j, sc / 128 ≤ j → j < sc / 128 + n → mgetD x'.chunks j Chunk.reset = Chunk.reset)
  ∧ (∀ (a : BitVec 7) s c l t, ScalarReady s c l t [a.toNat] 0 → namedWindow s t a = none →
    Traps (.wflush a) s c l t 0x14 0 ∧ Traps (.wunmap a) s c l t 0x14 0 ∧ Traps (.winval a) s c l t 0x14 0)
  ∧ (∀ (a : BitVec 7) s c l t x n w, MemReady s c l t [a.toNat] 0 → blockAt s t.block = some x → namedWindow s t a = some (n, w) →
    (openRegion t).isSome → (∀ v ch, DirtyChunk x n v ch → ∃ pa, chunkPhysical s c t.part v ch .write = .ok pa) →
    (dirtyChunks x (some n)).length ≤ undoFree (coreOf s c) → 1 ≤ undoFree (coreOf s c) →
    (∃ s' t', exec (.wflush a) s = .next s' ∧ WrittenBack s s' c t x n ∧ strandAt s' c l = some t'
      ∧ t'.sc = { t.sc with spc := t.sc.spc + 4, seq := t.sc.seq + 1 } ∧ t'.ln = t.ln ∧ t'.st = t.st ∧ t'.traps = t.traps
      ∧ (∀ k, k ≠ skey c l → mget s'.strands k = mget s.strands k)
      ∧ ∀ x', blockAt s' t.block = some x' → x'.wins = x.wins)
    ∧ (∃ s' t', exec (.wunmap a) s = .next s' ∧ WrittenBack s s' c t x n ∧ strandAt s' c l = some t'
      ∧ t'.sc = { t.sc with spc := t.sc.spc + 4, seq := t.sc.seq + 1 } ∧ t'.ln = t.ln ∧ t'.st = t.st ∧ t'.traps = t.traps
      ∧ (∀ k, k ≠ skey c l → mget s'.strands k = mget s.strands k)
      ∧ ∀ x', blockAt s' t.block = some x' → ∀ j, mgetD x'.wins j WinDesc.reset =
          { mgetD x.wins j WinDesc.reset with valid := decide (j ≠ n) && (mgetD x.wins j WinDesc.reset).valid }))
  ∧ (∀ (a : BitVec 7) s c l t x n w, ScalarReady s c l t [a.toNat] 0 → blockAt s t.block = some x → namedWindow s t a = some (n, w) →
    (dirtyChunks x (some n) = [] → (∀ o ∈ t.ops, o.acquire = none) → 1 ≤ undoFree (coreOf s c) →
      RetiresLike (.wflush a) s c l t { t.sc with spc := t.sc.spc + 4 }
      ∧ (RetiresLike (.wunmap a) s c l t { t.sc with spc := t.sc.spc + 4 }
        ∧ ∃ s' x', exec (.wunmap a) s = .next s' ∧ blockAt s' t.block = some x' ∧ x'.scratch = x.scratch
          ∧ ∀ j, (mgetD x'.wins j WinDesc.reset).valid = (decide (j ≠ n) && (mgetD x.wins j WinDesc.reset).valid)))
    ∧ (x.chunks.length ≤ undoFree (coreOf s c) → RetiresLike (.winval a) s c l t { t.sc with spc := t.sc.spc + 4 }
        ∧ ∃ s' x', exec (.winval a) s = .next s' ∧ blockAt s' t.block = some x' ∧ x'.scratch = x.scratch
          ∧ ∀ j ch, mget x.chunks j = some ch → w.schunk.toNat ≤ j → j < w.schunk.toNat + w.nchunk.toNat →
            ∃ ch', mget x'.chunks j = some ch' ∧ ch'.wvalid = ch'.wdirty ∧ ch'.lease = 0
              ∧ ∃ e ∈ x.chunks, e.1 = j ∧ ch'.wdirty = e.2.wdirty))

/-- R30, R119, R122 to R124, R198: a `region` with a legal recipe checkpoints the scalar side, opens a new region with its
recipe, and leaves every older one closed on the scalar side; with four unreleased regions it waits; a recipe that breaks R123, one with a
range beyond the allocation, and one whose record or REMAT header lies outside its section trap.
Where the spec leaves a point open it rests on the model's own choices: DEDUCED, log 20; DEDUCED, log 103. -/
def Obligations.RegionHead : Prop :=
∀ (o : BitVec 26) s c l t, ScalarReady s c l t [] 0 →
    let resumed : Bool := (openRegion t).any fun r => r.resumed && !r.explicit
    (resumed = false → t.regions.length < 4 → recipeOwned s c t o = false → ∀ r, recipeOf s c t o = .ok r →
      ∃ s' t' old n, exec (.region o) s = .next s' ∧ OnlyCore s s' c l ∧ strandAt s' c l = some t'
        ∧ t'.sc = { t.sc with spc := t.sc.spc + 4, seq := t.sc.seq + 1 } ∧ t'.ln = t.ln ∧ t'.st = t.st
        ∧ t'.recipe = some r ∧ t'.serial = t.serial + 1 ∧ t'.regions = old ++ [n]
        ∧ n.explicit = true ∧ n.head = t.sc ∧ n.recipe = some r ∧ n.sclose = none ∧ n.close = none ∧ n.opened = s.now ∧ n.serial = t.serial + 1
        ∧ (∀ q ∈ old, q.sclose ≠ none) ∧ old.map (·.id) = t.regions.map (·.id)
        ∧ (t.st.queue = [] → t.st.current = none → (∀ q ∈ old, q.close ≠ none) ∧ n.laneHead = some t.ln))
    ∧ (resumed = true → recipeOwned s c t o = false → ∀ r, recipeOf s c t o = .ok r →
      ∃ s' t', exec (.region o) s = .next s' ∧ OnlyStrand s s' c l ∧ strandAt s' c l = some t'
        ∧ t'.sc = { t.sc with spc := t.sc.spc + 4, seq := t.sc.seq + 1 } ∧ t'.ln = t.ln ∧ t'.st = t.st ∧ t'.recipe = some r
        ∧ t'.regions.map (·.id) = t.regions.map (·.id) ∧ ∃ n, openRegion t' = some n ∧ n.id = openId t ∧ n.explicit = true ∧ n.recipe = some r)
    ∧ (resumed = false → 4 ≤ t.regions.length →
      ∃ s', exec (.region o) s = .next s' ∧ OnlyStrand s s' c l ∧ strandAt s' c l = some { t with swait := .region })
    ∧ (resumed = true ∨ t.regions.length < 4 → recipeOwned s c t o = false →
      (∀ head ws, RecipeAt s c t o head ws →
        (RecipeBroken head ws → Traps (.region o) s c l t 0x02 0x03)
        ∧ (¬ RecipeBroken head ws → (∃ w ∈ ws, 32 * t.vblk ≤ bits w 19 10) → Traps (.region o) s c l t 0x05 0)
        ∧ (¬ RecipeBroken head ws → (∀ w ∈ ws, bits w 19 10 < 32 * t.vblk) → head.testBit 156 = true →
            fetchLane s c t (bits head 185 160) = .error 0x01 → Traps (.region o) s c l t 0x01 0)
        ∧ (¬ RecipeBroken head ws → (∀ w ∈ ws, bits w 19 10 < 32 * t.vblk) → (head.testBit 156 = true → ∃ bs, fetchLane s c t (bits head 185 160) = .ok bs) →
            ∃ r, recipeOf s c t o = .ok r ∧ r.slive = BitVec.ofNat 128 head ∧ r.plive = BitVec.ofNat 24 (bits head 151 128)
              ∧ r.ilive = BitVec.ofNat 4 (bits head 155 152) ∧ r.remv = head.testBit 156 ∧ r.remat = BitVec.ofNat 26 (bits head 185 160)
              ∧ r.ranges = ws.map fun w => (bits w 9 0, bits w 19 10)))
      ∧ (∀ r, recordOf s t.part t.grid = some r → inSection r.scode r.ssize (t.sc.spc + BitVec.ofInt 64 (4 * o.toInt)) 32 = false →
          Traps (.region o) s c l t 0x01 0))

/-- R210 step 1, R127, R287, R290, R293: an instruction that performs like an atomic first closes the strand's regions, once the
clauses queued before it have issued, and waits; until then it waits without closing them.
R287: an `sfree` that performs frees a ready slice, and every other slice stays. -/
def Obligations.AtomicsClose : Prop :=
(∀ i rs s c l t, ((∃ a : BitVec 7, (i = .sfree a ∨ i = .mrun a) ∧ rs = [a.toNat]) ∨ (i = .mrel ∧ rs = [])) → MemReady s c l t rs 0 →
    t.sphase = .idle →
    (t.st.queue = [] → t.st.current = none → ∃ s' t', exec i s = .next s' ∧ OnlyStrand s s' c l ∧ strandAt s' c l = some t'
      ∧ t'.sphase = .closing ∧ t'.swait = .clearing ∧ t'.sc = t.sc ∧ (∀ r ∈ t'.regions, r.close ≠ none)
      ∧ t'.regions.map (·.id) = t.regions.map (·.id))
    ∧ ((t.st.queue ≠ [] ∨ t.st.current ≠ none) → ∃ s', exec i s = .next s' ∧ OnlyStrand s s' c l ∧ strandAt s' c l = some { t with swait := .clearing }))
  ∧ (∀ (a : BitVec 7) s c l t g k, Performing s c l t [a.toNat] 0 → gridAt s t.part t.grid = some g → liveSlot g (sget t.sc a.toNat) = some k →
    (sliceAt g k).ready = true →
    ∃ s' z, exec (.sfree a) s = .next s' ∧ NoBytes s s' c l ∧ Performed s' c l t { t.sc with spc := t.sc.spc + 4 }
      ∧ gridAt s' t.part t.grid = some z ∧ (sliceAt z k).valid = false ∧ (sliceAt z k).gen = (sliceAt g k).gen + 1
      ∧ ∀ j, j ≠ k → sliceAt z j = sliceAt g j)

/-- R127, R128, R210: an `iqloop` that performs gives the items in order to the finished lanes, takes the lanes left without an
item out of EXEC, and puts the number of active lanes into its mailbox; while its grid has items that its core does not hold, the lanes
beyond those that it has served wait, with EXEC as it was.
R129, R130, R321: a `glaunch` that performs writes its status to s[d], the first failure of the list, and queues the record
when there is none.
Where the spec leaves a point open it rests on the model's own choices: DEDUCED, log 23; DEDUCED, log 116. -/
def Obligations.LaunchesAndItems : Prop :=
  (∀ (p : BitVec 5) (v : BitVec 10) (m : BitVec 3) s c l t, p.toNat ≠ 0 → p.toNat ≤ 23 → v.toNat < 32 * t.vblk → v.toNat ≤ 767 →
    (∀ e ∈ t.vpend, e.1 ≠ v.toNat) → Performing s c l t [] 0 → t.sc.mfull.getLsbD m.toNat = false →
    let done := finishedLanes t p.toNat
    let items := heldItems s c t
    let n := min done.length items.length
    let core' : Core := { coreOf s c with items := if (coreOf s c).itemGrid = some (t.part, t.grid) then items.drop n else (coreOf s c).items }
    (items.length < done.length → itemsRemain (putCore s c core') t.part t.grid = true →
      ∃ s' t', exec (.iqloop p v m) s = .next s' ∧ NoBytes s s' c l ∧ strandAt s' c l = some t' ∧ t'.swait = .items ∧ t'.sc = t.sc
        ∧ (∀ k, k < 64 → hasLane (mgetD t'.ln.preds p.toNat 0) k = (hasLane (mgetD t.ln.preds p.toNat 0) k && !(done.take n).contains k))
        ∧ (∀ i, i < n → mgetD t'.ln.vregs (64 * v.toNat + done.getD i 0) 0 = items.getD i 0) ∧ (coreOf s' c).items = core'.items)
    ∧ ((done.length ≤ items.length ∨ itemsRemain (putCore s c core') t.part t.grid = false) →
    ∃ s' t' y, exec (.iqloop p v m) s = .next s' ∧ NoBytes s s' c l ∧ strandAt s' c l = some t' ∧ Performed s' c l t y
      ∧ (∀ r, sget y r = sget t.sc r) ∧ y.spc = t.sc.spc + 4
      ∧ (∀ k, k < 64 → hasLane y.exec k = (hasLane t.sc.exec k && !(done.drop n).contains k))
      ∧ y.mfull.getLsbD m.toNat = true ∧ mgetD y.mdata m.toNat 0 = BitVec.ofNat 64 ((List.range 64).filter (hasLane y.exec)).length
      ∧ (∀ k, k < 64 → hasLane (mgetD t'.ln.preds p.toNat 0) k = (hasLane (mgetD t.ln.preds p.toNat 0) k && !(done.take n).contains k))
      ∧ (∀ i, i < n → mgetD t'.ln.vregs (64 * v.toNat + done.getD i 0) 0 = items.getD i 0)
      ∧ (∀ q, (∀ i, i < n → q ≠ 64 * v.toNat + done.getD i 0) → mgetD t'.ln.vregs q 0 = mgetD t.ln.vregs q 0)
      ∧ (coreOf s' c).items = core'.items))
  ∧ (∀ (d a : BitVec 7) s c l t, Performing s c l t [a.toNat] d.toNat → releaseDone s c l t = true →
    launchWait s c t (sget t.sc a.toNat) = none →
    ∀ code n, launchChecks s c t (sget t.sc a.toNat) = .ok (code, n) →
    (code = 0 → outranked s t.part (parseRecord n).queue (4 + c) = false) →
    ∃ s' y, exec (.glaunch d a) s = .next s' ∧ NoBytes s s' c l ∧ Performed s' c l t y
      ∧ WritesReg t.sc y d.toNat (BitVec.ofNat 64 (code + if code = 0 then (t.depth + 1) * 2 ^ 8 else 0)) (t.sc.spc + 4)
      ∧ (t.number ≠ 0 → code = 5) ∧ (t.number = 0 → 10 ≤ t.depth → code = 1)
      ∧ (t.number = 0 → t.depth < 10 → (sget t.sc a.toNat).toNat % 256 ≠ 0 → code = 4)
      ∧ (code = 0 → ∃ e, (queueOf (partAt s' t.part) (parseRecord n).queue).records
            = (queueOf (partAt s t.part) (parseRecord n).queue).records ++ [e]
          ∧ e.depth = t.depth + 1 ∧ e.parent = t.grid ∧ e.arrived = s.now ∧ e.record = { parseRecord n with parent := t.grid })
      ∧ (code ≠ 0 → ∀ q, queueOf (partAt s' t.part) q = queueOf (partAt s t.part) q))

/-- R274, R417: a `claim` that performs moves the home of every frame of its range to the slice that the core's hearth claims, and every
other frame keeps its home; while an earlier move or claim names one of its frames, or an effect is pending at the home of one, it waits
with its frames registered.
R275: an `xcoll` that performs writes its status to s[d]: 4 when the partition has no channel, 1 when the queue of its channel is full, 2 for a
malformed descriptor, 3 for a stale attempt, 4 for a group of another owner, and 0 else; with 0 the descriptor stands last in its channel, and
with any other status no channel changes.
Where the spec leaves a point open it rests on the model's own choices: DESIGN CHOICE, log 17; DESIGN CHOICE, log 24; DEDUCED, log 25; DEDUCED, log 116;
DEDUCED, log 134. -/
def Obligations.ClaimsAndCollectives : Prop :=
  (∀ (a b : BitVec 7) s c l t frames, Performing s c l t [a.toNat, b.toNat] 0 →
    let base := sget t.sc a.toNat
    let len := (sget t.sc b.toNat).toNat
    (mget s.claims (skey c l) = none → base.toNat % 65536 = 0 → len % 65536 = 0 → claimFrames s c t.part base (len / 65536) = .ok frames →
      (frameBusy s frames = false → movedBefore s s.nextId frames = false → claimedBefore s s.nextId frames = false → HomesMove (.claim a b) s c l t frames)
      ∧ (frameBusy s frames = true ∨ movedBefore s s.nextId frames = true ∨ claimedBefore s s.nextId frames = true →
        ∃ s' t', exec (.claim a b) s = .next s' ∧ NoBytes s s' c l ∧ strandAt s' c l = some t' ∧ t'.sc = t.sc ∧ t'.swait = .clearing
          ∧ s'.homeMap = s.homeMap ∧ mget s'.claims (skey c l) = some { order := s.nextId, frames := frames }))
    ∧ (∀ m, mget s.claims (skey c l) = some m → frameBusy s m.frames = false → movedBefore s m.order m.frames = false →
        claimedBefore s m.order m.frames = false → HomesMove (.claim a b) s c l t m.frames)
    ∧ (mget s.claims (skey c l) = none → base.toNat % 65536 ≠ 0 ∨ len % 65536 ≠ 0 → Faults (.claim a b) s c l t 0x10 base))
  ∧ (∀ (d a : BitVec 7) s c l t locs, Performing s c l t [a.toNat] d.toNat → releaseDone s c l t = true →
    (sget t.sc a.toNat).toNat % 64 = 0 → readFault s c t (sget t.sc a.toNat) 64 false = .ok locs →
    copyWait s t locs = none → homePoisoned s locs = false →
    let n := leNat (locs.map fun x => if isScratch x then seenByte s c t x else homeByte s x)
    let g := groupAt s (bits n 31 16)
    ∃ s' y, ∃ code : Nat, exec (.xcoll d a) s = .next s' ∧ NoBytes s s' c l ∧ Performed s' c l t y
      ∧ WritesReg t.sc y d.toNat (BitVec.ofNat 64 code) (t.sc.spc + 4)
      ∧ (code ≠ 0 → s'.channels = s.channels)
      ∧ (channelFor s (partAt s t.part) = none → code = 4)
      ∧ ∀ k, channelFor s (partAt s t.part) = some k →
        let full := Config.channelRoom < (mgetD s.channels k Channel.reset).descs.length
        (full → code = 1)
        ∧ (¬ full → ¬ DescLegal n g.ranks → code = 2)
        ∧ (¬ full → DescLegal n g.ranks → bits n 63 32 < g.attempt.toNat → code = 3)
        ∧ (¬ full → DescLegal n g.ranks → g.attempt.toNat ≤ bits n 63 32 → g.owner ≠ t.part → code = 4)
        ∧ (¬ full → DescLegal n g.ranks → g.attempt.toNat ≤ bits n 63 32 → g.owner = t.part →
            code = 0 ∧ (∀ j, j ≠ k → mgetD s'.channels j Channel.reset = mgetD s.channels j Channel.reset)
            ∧ ∃ old e, (mgetD s'.channels k Channel.reset).descs = old ++ [e]
              ∧ old.map (fun x => { x with raised := [] }) = (mgetD s.channels k Channel.reset).descs.map (fun x => { x with raised := [] })
              ∧ e.id = s.nextId ∧ e.part = t.part ∧ e.grid = t.grid ∧ e.op.toNat = bits n 7 0 ∧ e.dtype.toNat = bits n 11 8
              ∧ e.group = bits n 31 16 ∧ e.attempt.toNat = bits n 63 32 ∧ e.src.toNat = bits n 127 64 ∧ e.dst.toNat = bits n 191 128
              ∧ e.count = bits n 255 192 ∧ e.ctr.toNat = bits n 319 256 ∧ e.amt.toNat = bits n 383 320 ∧ e.root = bits n 399 384
              ∧ e.doneN = 0 ∧ e.aborted = false))

/-- R284: a `cut` that performs leaves the frames above the mark in a slot that is valid and not yet ready, with the scalar registers of
its top frame, its CUTD and its RESUME in the copy; it writes the slot's handle to s[d], and the strand goes on at the mark's RESUME with
the mark on top of the stack.
R285: a `graft` of a ready slice whose checks pass writes the slice's frames at sp, linked to the frame below and with the address after
it, restores the top frame's scalar and lane registers and EXEC, and goes on at its RESUME; s[b] goes to the register that the frame
names.
Where the spec leaves a point open it rests on the model's own choices: DEDUCED, log 26; DEDUCED, log 116; DESIGN CHOICE, log 151. -/
def Obligations.SliceInstructions : Prop :=
  (∀ (d : BitVec 7) (g : BitVec 16) s c l t x w k top img locs, d.toNat ≠ 0 → Performing s c l t [2, 3] d.toNat → t.vpend = [] →
    gridAt s t.part t.grid = some x → t.sc.path = [] → (sget t.sc 2).toNat % 16 = 0 → (sget t.sc 3).toNat % 16 = 0 →
    walkStack s c t g.toNat 4200 (sget t.sc 3) [] = .ok w → cutChecks x t w = .ok (some (k, top)) →
    let n := (sget t.sc 2 - (w.base + 16)).toNat
    viewBytes s c t (w.base + 16) n = .ok img → poolLocs s c t x k 64 n .write = .ok locs →
    FrameSound t top →
    ∃ s' y z, exec (.cut d g) s = .next s' ∧ s'.mem = s.mem ∧ s'.blocks = s.blocks ∧ Performed s' c l t y
      ∧ (∀ r, sget y r = if r = 1 then w.resume else if r = 2 then w.base + 16 else if r = 3 then w.base
          else if r = d.toNat then handleOf k (sliceAt x k).gen t.grid else sget t.sc r)
      ∧ y.spc = canonPc w.resume.toNat ∧ y.exec = t.sc.exec
      ∧ y.rdepth = t.sc.rdepth - BitVec.ofNat 16 (w.lifted.filter fun h => h.kind == 1).length
      ∧ gridAt s' t.part t.grid = some z ∧ (sliceAt z k).valid = true ∧ (sliceAt z k).ready = false ∧ (sliceAt z k).tag = g
      ∧ (sliceAt z k).exec = t.sc.exec ∧ (sliceAt z k).gen = (sliceAt x k).gen
      ∧ ∃ new bs, s'.effects = s.effects ++ new ∧ bs.length = img.length
        ∧ (∀ e ∈ new, e.stage = .flight ∧ e.slice = some (t.part, t.grid, k) ∧ e.ownClose.isSome)
        ∧ (∀ p v, (∃ e ∈ new, ∃ b, e.kind = .write b ∧ mget b p = some v) ↔ lastAt (locs.zip bs) p = some v)
        ∧ let off := (sget t.sc 3 - (w.base + 16)).toNat
          (sliceAt z k).topoff.toNat = off % 2 ^ 16 ∧ leNat ((bs.drop 4).take 4) = 0 ∧ leNat ((bs.drop (off + 2)).take 1) % 2 ^ 7 = d.toNat
          ∧ leNat ((bs.drop (off + 32)).take 8) = (t.sc.spc + 4).toNat
          ∧ ∀ r j, (maskRegs top.smask)[j]? = some r → leNat ((bs.drop (off + 48 + 8 * j)).take 8) = (sget t.sc r).toNat)
  ∧ (∀ (a b : BitVec 7) s c l t g k img h dst, MemReady s c l t [a.toNat, b.toNat, 2, 3] 0 → t.st.queue = [] → t.st.current = none → t.vpend = [] →
    gridAt s t.part t.grid = some g → (t.grafting = some k ∨ (t.grafting = none ∧ liveSlot g (sget t.sc a.toNat) = some k)) → (sliceAt g k).ready = true →
    let u := Referenced s c l t k
    graftRead u c t g k = .ok (img, h, dst) → hostOwned u (graftLocs u c t g k) = false → loadOrder t true dst = false → storeNeeds u c t (openId t) dst = none →
    laneUnits u c + (graftLanes t h).length ≤ 4096 → (openRegion t).isSome →
    (∀ r ∈ h.cutd :: 2 :: 3 :: maskRegs h.smask, loadPending t r = false ∧ ∀ e ∈ t.tpend, e.1 ≠ r) →
    scalarReserveShort u c t (h.cutd :: 2 :: 3 :: maskRegs h.smask) = false →
    ∃ s' t', exec (.graft a b) s = .next s' ∧ s'.mem = s.mem ∧ strandAt s' c l = some t' ∧ t'.grafting = none ∧ t'.swait = .none
      ∧ t'.sc.seq = t.sc.seq + 1 ∧ t'.sc.spc = canonPc h.resume.toNat
      ∧ t'.sc.rdepth = t.sc.rdepth + (sliceAt g k).nframes.setWidth 16
      ∧ sget t'.sc 2 = sget t.sc 2 + BitVec.ofNat 64 img.length ∧ sget t'.sc 3 = sget t.sc 2 + BitVec.ofNat 64 (sliceAt g k).topoff.toNat
      ∧ (h.cutd ≠ 0 → h.cutd ≠ 2 → h.cutd ≠ 3 → sget t'.sc h.cutd = sget t.sc b.toNat)
      ∧ (∀ r, r ≠ 2 → r ≠ 3 → r ≠ h.cutd → h.smask.testBit r = false → sget t'.sc r = sget t.sc r)
      ∧ let off := (sliceAt g k).topoff.toNat
        let width := if t.compat then 32 else 64
        let saved (o n : Nat) : Nat := leNat ((img.drop (off + o)).take n)
        (∀ r j, (maskRegs h.smask)[j]? = some r → r ≠ h.cutd → sget t'.sc r = BitVec.ofNat 64 (saved (48 + 8 * j) 8))
      ∧ (t.compat = false → t'.sc.exec = (sliceAt g k).exec)
      ∧ (∀ j q, j < h.lcount → q < width → mgetD t'.ln.vregs (64 * (h.lfirst + j) + q) 0
          = BitVec.ofNat 32 (saved ((48 + 8 * (maskRegs h.smask).length + 15) / 16 * 16 + 4 * (width * j + q)) 4))
      ∧ (∃ bs, BytesDepart s s' c t dst bs ∧ bs.length = img.length
        ∧ (off % 16 = 0 → leNat ((bs.drop 4).take 4) = (sget t.sc 3 - sget t.sc 2).toNat % 2 ^ 32
          ∧ leNat ((bs.drop 8).take 8) = (t.sc.spc + 4).toNat ∧ leNat ((bs.drop (off + 32)).take 8) = 0
          ∧ ∀ i, 16 ≤ i → i < off ∨ off + 40 ≤ i → bs.getD i 0 = img.getD i 0))
      ∧ ∃ z, gridAt s' t.part t.grid = some z ∧ (sliceAt z k).refs = if t.grafting.isSome then (sliceAt g k).refs - 1 else (sliceAt g k).refs)

/-- R289, R290, R293: `mres` writes 1 when the block holds the griddle afterwards and 0 when another does; `mrel` gives an idle
griddle up; `mrun` starts the stream at s[a] with a segment open.
Where the spec leaves a point open it rests on the model's own choices: DEDUCED, log 86; DEDUCED, log 120. -/
def Obligations.GriddleControl : Prop :=
(∀ (d : BitVec 7) s c l t, ScalarReady s c l t [] d.toNat → let g := (coreOf s c).griddle
    ((g.held = false ∨ g.holder = t.block) → ∃ y, RetiresLike (.mres d) s c l t y ∧ WritesReg t.sc y d.toNat 1 (t.sc.spc + 4)
      ∧ ∃ s', exec (.mres d) s = .next s' ∧ heldBy s' c t.block = true
        ∧ (g.held = false → (coreOf s' c).griddle = { Griddle.reset with held := true, holder := t.block }))
    ∧ (g.held = true → g.holder ≠ t.block → WritesScalar (.mres d) s c l t d 0))
  ∧ (∀ s c l t, Performing s c l t [] 0 →
    (heldBy s c t.block = true → (coreOf s c).griddle.run = false → liveSegs (coreOf s c).griddle = 0 →
      ∃ s', exec .mrel s = .next s' ∧ NoBytes s s' c l ∧ Performed s' c l t { t.sc with spc := t.sc.spc + 4 } ∧ (coreOf s' c).griddle = Griddle.reset)
    ∧ (heldBy s c t.block = false → Traps .mrel s c l t 0x20 0))
  ∧ (∀ (a : BitVec 7) s c l t, Performing s c l t [a.toNat] 0 → let g := (coreOf s c).griddle
    (heldBy s c t.block = true → g.run = false → liveSegs g < 16 →
      ∃ s' x, exec (.mrun a) s = .next s' ∧ NoBytes s s' c l ∧ Performed s' c l t { t.sc with spc := t.sc.spc + 4 }
        ∧ (coreOf s' c).griddle = { g with run := true, next := (sget t.sc a.toNat).toNat % 2 ^ 26, latch := none, waiting := none, segs := g.segs ++ [x] }
        ∧ x.close = none ∧ x.opened = s.now ∧ x.rewind = (sget t.sc a.toNat).toNat % 2 ^ 26)
    ∧ ((heldBy s c t.block = false ∨ g.run = true) → Traps (.mrun a) s c l t 0x20 0))

/-- R25, R35, R51, R136: what a source of a lane instruction delivers: a register, a pair, the register that an index register names,
a captured constant, or an inline constant in every element; and how a modifier acts on each element. -/
def Obligations.LaneOperandValues : Prop :=
(∀ (x : LaneCtx) (f : LaneFields) (k ty l : Nat), k < 3 → modOf f k = 0 →
    let v := fieldOf f k
    let reg (r : Nat) : Nat := (mgetD x.t.ln.vregs (64 * r + l) 0).toNat
    let const (n : Nat) : Nat := (mgetD x.run.entry.ks n 0).toNat
    let wide := typeWidth ty = 64
    (v < 768 → ¬ wide → operand x f k ty l = reg v)
    ∧ (v < 768 → wide → operand x f k ty l = reg v + 2 ^ 32 * reg (v + 1))
    ∧ (768 ≤ v → v < 772 → ¬ wide → operand x f k ty l = const (v - 768))
    ∧ (768 ≤ v → v < 772 → wide → operand x f k ty l = const (v - 768) + 2 ^ 32 * const (v - 767))
    ∧ (772 ≤ v → v < 776 → ¬ wide → operand x f k ty l = reg ((mgetD x.t.ln.ibase (64 * (v - 772) + l) 0).toNat + f.imm.toNat % 256))
    ∧ (784 ≤ v → v < 848 → typeFloat ty = none → ∀ j, j < typeCount ty → elemOf ty (operand x f k ty l) j = (v - 784) % 2 ^ typeWidth ty)
    ∧ (848 ≤ v → v < 862 → ty = 8 → operand x f k ty l = floatConsts.getD (v - 848) 0)
    ∧ (848 ≤ v → v < 862 → typeFloat ty = none → ∀ j, j < typeCount ty →
        elemOf ty (operand x f k ty l) j = floatConsts.getD (v - 848) 0 % 2 ^ typeWidth ty)
    ∧ (∀ fmt j, typeFloat ty = some fmt → j < typeCount ty →
      let e := elemOf ty (operand x f k ty l) j
      (784 ≤ v → v < 848 → e = (fmt.encode false true (Sys2Proof.Num.ofInt ((v - 784 : Nat) : Int))).1)
      ∧ (848 ≤ v → v < 862 → v ≠ 857 → ty ≠ 8 → e = (fmt.encode false true (fp32.decode (floatConsts.getD (v - 848) 0))).1)
      ∧ (v = 785 ∨ v = 849 → e = fmt.bias * 2 ^ fmt.m) ∧ (v = 848 → e = (fmt.bias - 1) * 2 ^ fmt.m) ∧ (v = 786 ∨ v = 850 → e = (fmt.bias + 1) * 2 ^ fmt.m)
      ∧ (v = 857 → e = if fmt.hasInf then (2 ^ fmt.e - 1) * 2 ^ fmt.m else fmt.top) ∧ (v = 858 → e = fmt.top)
      ∧ (v = 860 → e = fmt.qnan) ∧ (v = 861 → e = 2 ^ (fmt.e + fmt.m))))
  ∧ (∀ (x : LaneCtx) (f : LaneFields) (k ty l j : Nat), j < typeCount ty → modOf f k ≠ 0 →
    let w := typeWidth ty
    let e := elemOf ty (rawOperand x f k ty l) j
    let y := elemOf ty (operand x f k ty l) j
    (typeFloat ty = none → (modOf f k = 1 → y = wrapNat w (-(sgn w e))) ∧ (modOf f k = 2 → y = wrapNat w (sgn w e).natAbs) ∧ (modOf f k = 3 → y = wrapNat w (-((sgn w e).natAbs : Int))))
    ∧ ((typeFloat ty).isSome → y % 2 ^ (w - 1) = e % 2 ^ (w - 1)
        ∧ (modOf f k = 1 → y.testBit (w - 1) = !e.testBit (w - 1)) ∧ (modOf f k = 2 → y.testBit (w - 1) = false) ∧ (modOf f k = 3 → y.testBit (w - 1) = true)))

/-- R139, R143, R144: every lane integer row writes in each active lane, element by element, the exact result of its operands,
wrapped or limited as CLAMP says, and raises the I8 sticky bit where a lane saturates to I8. -/
def Obligations.LaneIntegers : Prop :=
∀ i f n cl g, laneInteger i = some (f, n, cl, g) → ∀ s c l t r, LaneReady (integerUse f n cl) f s c l t r →
    let x := laneCtx c l t r f
    let ty := tyOf f
    let slot := laneSlot s t f
    let y (k j : Nat) : Int := g (asInt ty (operand x f 0 ty k) j) (asInt ty (operand x f 1 ty k) j) (asInt ty (operand x f 2 ty k) j)
    ∃ v, LaneWrites i f (typeWidth ty == 64) (slotFmt slot) s c l t r v (fun k => ∃ j, j < typeCount ty ∧ SaturatesI8 f slot (y k j))
      ∧ ∀ k ∈ x.lanes, ∀ j, j < typeCount ty → Limited f slot (typeSigned ty) (typeWidth ty) (y k j) (elemOf ty (v k) j)

/-- R145 to R148, R158, R174: the bitwise rows, shifts, counts, bit fields, selects, immediates, the move from a predicate and the lane
number write their value in each active lane, and nothing else. -/
def Obligations.LaneBits : Prop :=
∀ i f u wide P, laneBits i = some (f, u, wide, P) → ∀ s c l t r, LaneReady u f s c l t r →
    ∃ v, LaneWrites i f wide 0 s c l t r v (fun _ => False) ∧ ∀ k ∈ (laneCtx c l t r f).lanes, P (laneCtx c l t r f) k (v k)

/-- R36, R149 to R151: every float row writes in each active lane, element by element, its exact value scaled, rounded once and
clamped; and `vmov.f32` without SCALE passes its operand's bits on to the clamp.
Where the spec leaves a point open it rests on the model's own choices: DESIGN CHOICE, log 19.
R153, R154: `vfrnd` rounds the scaled value to an integer in its direction, `vffrac` takes what lies above the floor, both
clamped; `vfcls` writes the bit of its operand's class. -/
def Obligations.LaneFloats : Prop :=
  ((∀ i f n rz g, laneFloat i = some (f, n, rz, g) → ∀ s c l t r, LaneReady (floatUse n) f s c l t r →
    let x := laneCtx c l t r f
    let ty := tyOf f
    let slot := laneSlot s t f
    let p (k j : Nat) : Nat := (fmtOf f).result rz (Sys2Proof.Num.scale (g fun q => (fmtOf f).decode (elemOf ty (operand x f q ty k) j)) (scaleExp f))
    ∃ (v : Nat → Nat) (e : Nat → Nat → Nat), LaneWrites i f false (slotFmt slot) s c l t r v (fun k => ∃ j, j < typeCount ty ∧ SaturatesFloat f slot (fmtOf f) (p k j))
      ∧ ∀ k ∈ x.lanes, ∀ j, j < typeCount ty → elemOf ty (v k) j = e k j % 2 ^ typeWidth ty ∧ Clamped f slot (fmtOf f) (p k j) (e k j))
  ∧ (∀ f s c l t r, f.type = 8 → LaneReady { srcs := [0], mods := [0], clamp := true, scale := true } f s c l t r →
    let x := laneCtx c l t r f
    let slot := laneSlot s t f
    let p (k : Nat) : Nat := if f.scale = 0 then operand x f 0 8 k else fp32.result false (Sys2Proof.Num.scale (fp32.decode (operand x f 0 8 k)) (scaleExp f))
    ∃ v, LaneWrites (.vmov f) f false (slotFmt slot) s c l t r v (fun k => SaturatesFloat f slot fp32 (p k))
      ∧ ∀ k ∈ x.lanes, Clamped f slot fp32 (p k) (v k)))
  ∧ ((∀ f s c l t r, LaneReady (floatUse 1) f s c l t r → f.func.toNat ≤ 3 →
    let x := laneCtx c l t r f
    let ty := tyOf f
    let slot := laneSlot s t f
    let y (k j : Nat) : Sys2Proof.Num := Sys2Proof.Num.scale ((fmtOf f).decode (elemOf ty (operand x f 0 ty k) j)) (scaleExp f)
    ∃ (v : Nat → Nat) (p e : Nat → Nat → Nat), LaneWrites (.vfrnd f) f false (slotFmt slot) s c l t r v (fun k => ∃ j, j < typeCount ty ∧ SaturatesFloat f slot (fmtOf f) (p k j))
      ∧ ∀ k ∈ x.lanes, ∀ j, j < typeCount ty → elemOf ty (v k) j = e k j % 2 ^ typeWidth ty ∧ Clamped f slot (fmtOf f) (p k j) (e k j)
        ∧ ((∀ sg n d, y k j ≠ .fin sg n d) → p k j = (fmtOf f).result false (y k j))
        ∧ (∀ sg n d, y k j = .fin sg n d → ∃ m, Integral f.func.toNat sg n d m
            ∧ p k j = (fmtOf f).result (f.func = 1 || (f.func = 2 && !sg) || (f.func = 3 && sg)) (.fin sg m 1)))
  ∧ (∀ f s c l t r, LaneReady (floatUse 1) f s c l t r → f.type = 8 →
    let x := laneCtx c l t r f
    let slot := laneSlot s t f
    let y (k : Nat) : Sys2Proof.Num := Sys2Proof.Num.scale (fp32.decode (operand x f 0 8 k)) (scaleExp f)
    ∃ (v p : Nat → Nat), LaneWrites (.vffrac f) f false (slotFmt slot) s c l t r v (fun k => SaturatesFloat f slot fp32 (p k))
      ∧ ∀ k ∈ x.lanes, Clamped f slot fp32 (p k) (v k)
        ∧ ((∀ sg n d, y k ≠ .fin sg n d) → p k = 0x7FC00000)
        ∧ (∀ sg n d, y k = .fin sg n d → ∃ part q, part < d ∧ (sg = false → n = q * d + part) ∧ (sg = true → n + part = q * d)
            ∧ p k = if fp32.result false (.fin false part d) = 0x3F800000 then 0x3F7FFFFF else fp32.result false (.fin false part d)))
  ∧ (∀ f s c l t r, LaneReady { srcs := [0] } f s c l t r →
    let x := laneCtx c l t r f
    let ty := tyOf f
    ∃ v, LaneWrites (.vfcls f) f false 0 s c l t r v (fun _ => False)
      ∧ ∀ k ∈ x.lanes, ∀ j, j < typeCount ty → elemOf ty (v k) j = 2 ^ classBit (fmtOf f).e (fmtOf f).m (elemOf ty (operand x f 0 ty k) j)))

/-- R27, R155 to R158: the compares and predicate instructions write their predicate in each active lane; p0 takes nothing. -/
def Obligations.LanePredicates : Prop :=
∀ i f u P, lanePredicate i = some (f, u, P) → ∀ s c l t r, LaneReady u f s c l t r →
    ∃ v, LaneSets i f f.vd.toNat s c l t r v ∧ ∀ k ∈ (laneCtx c l t r f).lanes, (v k = true ↔ P (laneCtx c l t r f) k)

/-- R159, R160: the dot products: an exact integer sum, limited as CLAMP says; or one group sum, scaled, rounded once and clamped. -/
def Obligations.LaneDotProducts : Prop :=
(∀ f s c l t r, f.type.toNat = 4 ∨ f.type.toNat = 5 → LaneReady { srcs := [0, 1, 2], mods := if f.type.toNat = 5 then [] else [2], clamp := true } f s c l t r →
    let x := laneCtx c l t r f
    let ty := f.type.toNat
    let slot := laneSlot s t f
    let y (k : Nat) : Int := asInt (if ty = 4 then 0 else 1) (operand x f 2 (if ty = 4 then 0 else 1) k) 0
      + ((asInt ty (operand x f 0 ty k) 0 * asInt ty (operand x f 1 ty k) 0 + asInt ty (operand x f 0 ty k) 1 * asInt ty (operand x f 1 ty k) 1)
      + (asInt ty (operand x f 0 ty k) 2 * asInt ty (operand x f 1 ty k) 2 + asInt ty (operand x f 0 ty k) 3 * asInt ty (operand x f 1 ty k) 3))
    ∃ v, LaneWrites (.vdot4 f) f false (slotFmt slot) s c l t r v (fun k => SaturatesI8 f slot (y k))
      ∧ ∀ k ∈ x.lanes, Limited f slot (ty = 4) 32 (y k) (v k))
  ∧ (∀ i f, (i = .vdot4 f ∧ (f.type.toNat = 11 ∨ f.type.toNat = 12)) ∨ i = .vfdot2 f → ∀ s c l t r,
    LaneReady { srcs := [0, 1, 2], mods := if i = .vfdot2 f then [0, 1, 2] else [2], clamp := true, scale := true } f s c l t r →
    let x := laneCtx c l t r f
    let ty := f.type.toNat
    let slot := laneSlot s t f
    let fmt := (typeFloat ty).getD f8a
    let term (k j : Nat) : Sys2Proof.Num := Sys2Proof.Num.mul (fmt.decode (elemOf ty (operand x f 0 ty k) j)) (fmt.decode (elemOf ty (operand x f 1 ty k) j))
    let sum (k : Nat) : Sys2Proof.Num := Sys2Proof.Num.gsum (((List.range (typeCount ty)).map (term k)) ++ [fp32.decode (operand x f 2 8 k)])
    let p (k : Nat) : Nat := fp32.result false (Sys2Proof.Num.scale (sum k) (scaleExp f))
    ∃ v, LaneWrites i f false (slotFmt slot) s c l t r v (fun k => SaturatesFloat f slot fp32 (p k)) ∧ ∀ k ∈ x.lanes, Clamped f slot fp32 (p k) (v k))

/-- R161 to R165: the conversions: the elements that they decode and encode with the slot's format and scale, and the bits of the
destination that stay; and the block scale of a value.
Where the spec leaves a point open it rests on the model's own choices: DEDUCED, log 28; DEDUCED, log 106. -/
def Obligations.LaneConversions : Prop :=
∀ f s c l t r,
    let x := laneCtx c l t r f
    let slot := laneSlot s t f
    let fmt := slotFmt slot
    let w := fmtWidth fmt
    let j := f.func.toNat / 2 % 8
    let q := f.func.toNat
    let count := 32 / w
    let scaleAt (k : Nat) : List Nat := if slotKind slot = 0 then [] else [k]
    let scale (n k : Nat) : Sys2Proof.Num := if slotKind slot = 0 then Sys2Proof.Num.ofInt 1 else scaleValue (slotKind slot) (rawOperand x f n (tyOf f) k)
    let old (k : Nat) : Nat := (mgetD t.ln.vregs (64 * regIn t f f.vd.toNat k + k) 0).toNat
    let from_ (n k : Nat) : Sys2Proof.Num := if tyOf f = 8 then fp32.decode (operand x f n 8 k) else Sys2Proof.Num.ofInt (asInt (tyOf f) (operand x f n (tyOf f) k) 0)
    let elem (v i : Nat) : Nat := v / 2 ^ (w * i) % 2 ^ w
    (LaneReady { srcs := 0 :: scaleAt 1, legal := j < count } f s c l t r →
      let e (k : Nat) := toType (tyOf f) slot (scaled (decodeElem slot (rawOperand x f 0 (tyOf f) k) j) (scale 1 k))
      LaneWrites (.vcvtDec f) f false 0 s c l t r (fun k => (e k).1) (fun k => (e k).2 = true))
    ∧ (LaneReady { srcs := 0 :: scaleAt 1, mods := if f.type = 1 then [] else [0], keeps := true, legal := fmt != 6 && j < count } f s c l t r →
      let e (k : Nat) := encodeElem slot (from_ 0 k) (scale 1 k)
      ∃ v, LaneWrites (.vcvtEnc f) f false fmt s c l t r v (fun k => (e k).2 = true)
        ∧ ∀ k ∈ x.lanes, ∀ i, i < count → elem (v k) i = if i = j then (e k).1 % 2 ^ w else elem (old k) i)
    ∧ (LaneReady { srcs := 0 :: 1 :: scaleAt 2, mods := if f.type = 1 then [] else [0, 1], keeps := true, legal := fmt != 0 && 2 * q < count } f s c l t r →
      (fmt ≠ 6 → let a (k : Nat) := encodeElem slot (from_ 0 k) (scale 2 k)
        let b (k : Nat) := encodeElem slot (from_ 1 k) (scale 2 k)
        ∃ v, LaneWrites (.vpk f) f false fmt s c l t r v (fun k => (a k).2 = true ∨ (b k).2 = true)
          ∧ ∀ k ∈ x.lanes, ∀ i, i < count → elem (v k) i = if i = 2 * q then (a k).1 % 2 ^ w else if i = 2 * q + 1 then (b k).1 % 2 ^ w else elem (old k) i)
      ∧ (fmt = 6 → let e (k : Nat) := encodeQ slot (from_ 0 k) (from_ 1 k) (scale 2 k) (scale 2 k)
        ∃ v, LaneWrites (.vpk f) f false fmt s c l t r v (fun k => (e k).2 = true)
          ∧ ∀ k ∈ x.lanes, ∀ i, i < 4 → v k / 2 ^ (8 * i) % 2 ^ 8 = if i = q then (e k).1 % 2 ^ 8 else old k / 2 ^ (8 * i) % 2 ^ 8))
    ∧ (LaneReady { srcs := 0 :: scaleAt 1, moreD := 1, legal := fmt != 0 && 2 * q < count } f s c l t r →
      let e (i k : Nat) := toType (tyOf f) slot (scaled (decodeElem slot (rawOperand x f 0 (tyOf f) k) (2 * q + i)) (scale 1 k))
      ∃ v, LaneWrites (.vupk f) f true 0 s c l t r v (fun k => (e 0 k).2 = true ∨ (e 1 k).2 = true)
        ∧ ∀ k ∈ x.lanes, BitVec.ofNat 32 (v k) = BitVec.ofNat 32 (e 0 k).1 ∧ BitVec.ofNat 32 (v k / 2 ^ 32) = BitVec.ofNat 32 (e 1 k).1)
    ∧ (LaneReady { srcs := [0], mods := [0], legal := slotKind slot != 0 } f s c l t r →
      ∃ (v : Nat → Nat) (sat : Nat → Prop), LaneWrites (.vscl f) f false fmt s c l t r v sat ∧ ∀ k ∈ x.lanes,
        let a := fp32.decode (operand x f 0 8 k)
        let e8 := slotKind slot = 1
        ((∀ sg n d, a ≠ .fin sg n d) → v k = (if e8 then 0xFF else 0x7FC0) ∧ ¬ sat k)
        ∧ (∀ sg d, a = .fin sg 0 d → v k = (if e8 then 0 else 0x3F80) ∧ ¬ sat k)
        ∧ (∀ sg n d, a = .fin sg n d → n ≠ 0 → e8 →
          (∀ b, b < v k → Sys2Proof.Num.lt (Sys2Proof.Num.scale (slotMax slot false) ((b : Int) - 127)) (.fin false n d) = true) ∧ v k ≤ 254
          ∧ (sat k ↔ Sys2Proof.Num.lt (Sys2Proof.Num.scale (slotMax slot false) 127) (.fin false n d) = true)
          ∧ (¬ sat k → Sys2Proof.Num.lt (Sys2Proof.Num.scale (slotMax slot false) ((v k : Int) - 127)) (.fin false n d) = false))
        ∧ (∀ sg n d, a = .fin sg n d → n ≠ 0 → ¬ e8 → v k = (scaleBf16 (Sys2Proof.Num.div (.fin false n d) (slotMax slot false))).1 ∧ (sat k ↔ (scaleBf16 (Sys2Proof.Num.div (.fin false n d) (slotMax slot false))).2 = true)))

/-- R166 to R171, R175: the cross-lane instructions with a register destination, and `vixs`.
R21, R170 to R173: the lane instructions with a mailbox destination write it once and set its full bit, with no active lane
too; they wait while it is full, and after `exit` the value is dropped.
Where the spec leaves a point open it rests on the model's own choices: DEDUCED, log 110; DEDUCED, log 111; DEDUCED, log 112. -/
def Obligations.CrossLaneAndMailboxes : Prop :=
  (∀ f s c l t r,
    let x := laneCtx c l t r f
    let ty := tyOf f
    let wide := typeWidth ty == 64
    (∀ src : Nat → Nat, LaneReady { srcs := [0, 1], direct := [0], apart := [0], wide := pairFields f [3, 0] } f s c l t r →
      (∀ k ∈ x.lanes,
        let w := if t.compat = true ∧ f.func.toNat / 4 % 8 = 6 then 32 else 2 ^ (f.func.toNat / 4 % 8)
        let n := operand x f 1 1 k
        (f.func.toNat % 4 = 0 → src k / w = k / w ∧ src k % w = n % w)
        ∧ (f.func.toNat % 4 = 1 → src k = if n ≤ k % w then k - n else k)
        ∧ (f.func.toNat % 4 = 2 → src k = if k % w + n < w then k + n else k)
        ∧ (f.func.toNat % 4 = 3 → src k / w = k / w ∧ src k % w = (k % w) ^^^ (n % w))) →
      (∀ k ∈ x.lanes, SourceSound t f (src k)) →
      LaneWrites (.vshfl f) f wide 0 s c l t r (fun k => operand x f 0 ty (src k)) (fun _ => False))
    ∧ (∀ lane, LaneReady { srcs := [0, 1], direct := [0], apart := [0, 1], wide := pairFields f [3, 0] } f s c l t r →
      (∀ k, x.lanes.head? = some k → lane = operand x f 1 1 k % (if t.compat then 32 else 64) ∧ SourceSound t f lane
        ∧ ∀ q ∈ regsOf {} t f 1 k, poisonAt t q k = false) →
      LaneWrites (.vbcast f) f wide 0 s c l t r (fun _ => operand x f 0 ty lane) (fun _ => False))
    ∧ (∀ lane, LaneReady { srcs := [0], direct := [0], apart := [0], wide := pairFields f [3, 0] } f s c l t r →
      (∀ k, x.lanes.head? = some k → lane = k ∧ SourceSound t f lane) →
      LaneWrites (.vbcastFirst f) f wide 0 s c l t r (fun _ => operand x f 0 ty lane) (fun _ => False))
    ∧ (LaneReady { srcs := [0] } f s c l t r →
      LaneWrites (.vscan f) f false 0 s c l t r (fun k => laneFold x f (x.lanes.filter fun q => if f.func.getLsbD 3 then decide (q < k) else decide (q ≤ k))) (fun _ => False))
    ∧ (LaneReady { srcs := [0], dest := .regOrMailbox } f s c l t r → f.vd.toNat < 776 →
      LaneWrites (.vred f) f false 0 s c l t r (fun _ => laneFold x f x.lanes) (fun _ => False))
    ∧ (LaneReady { preds := [0], dest := .regOrMailbox, wide := [3] } f s c l t r → f.vd.toNat < 776 →
      (∃ m, IsBallot x f m ∧ LaneWrites (.vballot f) f true 0 s c l t r (fun _ => m) (fun _ => False)
        ∧ LaneWrites (.vballotCnt f) f true 0 s c l t r (fun _ => ((List.range 64).filter fun k => m.testBit k).length) (fun _ => False)))
    ∧ (LaneReady { srcs := [0, 1], dest := .index } f s c l t r →
      ∃ s' t', exec (.vixs f) s = .next s' ∧ LaneRetires s s' c l t t' r ∧ t'.sc = t.sc
        ∧ { t'.ln with ibase := t.ln.ibase, ilen := t.ln.ilen } = t.ln
        ∧ ∀ i k, k < 64 →
          mgetD t'.ln.ibase (64 * i + k) 0 = (if i = f.vd.toNat - 772 ∧ k ∈ x.lanes then BitVec.ofNat 16 (operand x f 0 1 k) else mgetD t.ln.ibase (64 * i + k) 0)
          ∧ mgetD t'.ln.ilen (64 * i + k) 0 = (if i = f.vd.toNat - 772 ∧ k ∈ x.lanes then BitVec.ofNat 16 (operand x f 1 1 k) else mgetD t.ln.ilen (64 * i + k) 0)))
  ∧ (∀ f s c l t r, 776 ≤ f.vd.toNat →
    let x := laneCtx c l t r f
    (LaneReady { srcs := [0], dest := .regOrMailbox } f s c l t r → MailsValue (.vred f) f s c l t r (laneFold x f x.lanes))
    ∧ (LaneReady { preds := [0], dest := .regOrMailbox, wide := [3] } f s c l t r →
      ∃ m, IsBallot x f m ∧ MailsValue (.vballot f) f s c l t r m
        ∧ MailsValue (.vballotCnt f) f s c l t r ((List.range 64).filter fun k => m.testBit k).length)
    ∧ (LaneReady { srcs := [0], dest := .mailbox, apart := [0], wide := pairFields f [0] } f s c l t r →
      (∀ k ∈ x.lanes, ∀ q ∈ regsOf { wide := pairFields f [0] } t f 0 k, poisonAt t q k = false) →
      MailsValue (.vmbox f) f s c l t r ((x.lanes.head?.map fun k => operand x f 0 (tyOf f) k).getD (2 ^ 64 - 1))
      ∧ MailsValue (.vmboxLast f) f s c l t r ((x.lanes.getLast?.map fun k => operand x f 0 (tyOf f) k).getD (2 ^ 64 - 1))))

/-- R26, R27, R28, R38, R50, R52, R61, R62, R141: a lane instruction of any family whose word is no instruction takes the
reserved-encoding trap with its cause; else the first of the checks of R62 that fails gives the trap, with the lanes it names; and an
active lane that reads a poisoned word takes the register-ECC trap.
Where the spec leaves a point open it rests on the model's own choices: DEDUCED, log 15; DEDUCED, log 79; DEDUCED, log 109; DEDUCED, log 110; DEDUCED, log 111; DESIGN CHOICE, log 149. -/
def Obligations.LaneTraps : Prop :=
∀ i f use, ((∃ n cl g, laneInteger i = some (f, n, cl, g) ∧ use = fun _ => integerUse f n cl)
      ∨ (∃ u wide P, laneBits i = some (f, u, wide, P) ∧ use = fun _ => u)
      ∨ (∃ n rz g, laneFloat i = some (f, n, rz, g) ∧ use = fun _ => floatUse n) ∨ (∃ u P, lanePredicate i = some (f, u, P) ∧ use = fun _ => u)
      ∨ laneOtherUse i = some (f, use)) →
    ∀ s c l t r, s.agent = .lane c l → strandAt s c l = some t → t.st.current = some r →
      let x := laneCtx c l t r f
      let u := use (laneSlot s t f)
      (∀ e, laneReject f = some e → predLegal f = true →
        ∃ s', exec i s = .next s' ∧ TakesLaneTrap s s' c l t r 0x02 e.cause.toNat (BitVec.ofNat 64 x.mask) 0)
      ∧ (∀ code lanes, laneReject f = none → predLegal f = true → laneChecks u x f = some (code, lanes) →
        ∃ s', exec i s = .next s' ∧ TakesLaneTrap s s' c l t r code 0 (BitVec.ofNat 64 lanes) 0)
      ∧ (laneReject f = none → predLegal f = false → 
        ∃ s', exec i s = .next s' ∧ TakesLaneTrap s s' c l t r 0x03 0 r.entry.exec 0)
      ∧ (laneReject f = none → laneChecks u x f = none → operandPending u x f = false → laneUnits s c + (newLanes u x f).length ≤ 4096 →
        poisonLanes u x f ≠ [] → ∃ s' v, exec i s = .next s' ∧ ReportsError s v 0x05 ∧ TakesLaneTrap v s' c l t r 0x06 0 (maskOf (poisonLanes u x f)) 0)

/-- R235, R255 to R257, R259, R263: the lane loads, once their accesses have no fault and nothing to wait for, and the prefetch: the
registers of each active lane are pending on an operation that holds the locations; nothing is written.
Where the spec leaves a point open it rests on the model's own choices: DEDUCED, log 108; DESIGN CHOICE, log 148. -/
def Obligations.LaneLoads : Prop :=
∀ f s c l t r,
    let x := laneCtx c l t r (memWord f)
    let n := memSize f * memCount f
    let s1 := keepLanes s x f n
    (∀ scratch acquire as_, LaneReady (loadUse f scratch) (memWord f) s c l t r → LaneMemFree s x (flagA x) →
      laneAccesses s x f n .read acquire false false = .ok as_ →
      let locs := as_.flatMap fun e => e.2
      reduceWait s1 x locs = false →
      (scratch = false → acquire = false → ∃ s', exec (.vld f) s = .next s' ∧ LaneLoadIssued s s' x f as_ none)
      ∧ (scratch = false → acquire = true → ∃ s', exec (.vldAcquire f) s = .next s' ∧ LaneLoadIssued s s' x f as_ (some (memOrder f)))
      ∧ (scratch = true → acquire = f.func.getLsbD 3 →
        ∃ s', exec (.vlds f) s = .next s' ∧ LaneLoadIssued s s' x f as_ (if f.func.getLsbD 3 then some (memOrder f) else none)))
    ∧ (LaneReady { srcs := [0], dest := .none, legal := formLegal f false, wide := addrWide f } (memWord f) s c l t r → LaneMemFree s x (flagB x) →
      (∀ q ∈ x.lanes, readFault s c t (laneAddr x f q) 1 false ≠ .error cRecall) →
      ∃ s' t', exec (.vpref f) s = .next s' ∧ OnlyCore s s' c l ∧ strandAt s' c l = some t' ∧ LaneStepped t t' r ∧ t'.vpend = t.vpend)

/-- R202, R245, R255 to R257, R259, R262: the lane stores, and the store releases whose release has ended, once their accesses have
no fault and nothing to wait for: where the bytes go, the highest lane's standing where several meet; and the memory reduction,
whose folded operands go out as one effect for each global word, and act at once on a word of the own area.
Where the spec leaves a point open it rests on the model's own choices: DEDUCED, log 81; DESIGN CHOICE, log 125; DESIGN CHOICE, log 148. -/
def Obligations.LaneStoring : Prop :=
∀ f s c l t r,
    let x := laneCtx c l t r (memWord f)
    let n := memSize f * memCount f
    let s1 := keepLanes s x f n
    (∀ scratch aligned as_, LaneReady (storeUse f scratch) (memWord f) s c l t r → LaneMemFree s x (flagB x) →
      laneAccesses s x f n .write aligned false false = .ok as_ → LaneStoreFree s1 x (as_.flatMap fun e => e.2) →
      (scratch = false → aligned = false → LaneStores (.vst f) s x f as_)
      ∧ (scratch = false → aligned = true → LaneReleaseEnded s1 x (memOrder f) → LaneStores (.vstRelease f) s x f as_)
      ∧ (scratch = true → aligned = f.func.getLsbD 3 → (aligned = true → LaneReleaseEnded s1 x (memOrder f)) → LaneStores (.vsts f) s x f as_))
    ∧ (∀ as_, LaneReady { srcs := [0, 1], dest := .none, outward := true, legal := formLegal f false, wide := addrWide f ++ dataWide f [1] } (memWord f) s c l t r →
      LaneMemFree s x (flagB x) → laneAccesses s x f (memSize f) .write true true false = .ok as_ →
      let s1 := keepLanes s x f (memSize f)
      let locs := as_.flatMap fun e => e.2
      let groups := byAddress as_
      let value (g : List Nat × List Nat) : Nat := foldOperand (atomOp f) (tyOf f) (g.2.map (atomOperand x f 1))
      let own (g : List Nat × List Nat) : Bool := isScratch (g.1.headD 0) && locBlock (g.1.headD 0) == t.block
      (regionAt t r.entry.region).isSome → touchWaits s1 locs = false → reduceWait s1 x locs = false → reduceShort s1 x groups = none →
      (∀ e ∈ as_, ∀ e' ∈ as_, e.2 = e'.2 ∨ e.2.headD 0 + memSize f ≤ e'.2.headD 0 ∨ e'.2.headD 0 + memSize f ≤ e.2.headD 0) →
      ∃ s' t', exec (.vredm f) s = .next s' ∧ s'.mem = s.mem ∧ (∀ k, k ≠ skey c l → mget s'.strands k = mget s.strands k)
        ∧ strandAt s' c l = some t' ∧ LaneStepped t t' r ∧ t'.vpend = t.vpend
        ∧ s'.effects.take s.effects.length = s.effects
        ∧ (s'.effects.drop s.effects.length).map (fun e => (e.kind, e.home, e.region, e.stage)) = (groups.filter fun g => !isScratch (g.1.headD 0)).map (fun g =>
            (.reduce (BitVec.ofNat 4 (atomOp f)) f.type (g.1.headD 0) (BitVec.ofNat 64 (value g)), homeOf s (g.1.headD 0), r.entry.region, .flight))
        ∧ (coreOf s' c).hwb.take (coreOf s c).hwb.length = (coreOf s c).hwb
        ∧ ((coreOf s' c).hwb.drop (coreOf s c).hwb.length).map (fun h => (h.block, h.off, h.reduce, h.owner)) =
            (groups.filter fun g => isScratch (g.1.headD 0) && !own g).map (fun g =>
              (locBlock (g.1.headD 0), locOff (g.1.headD 0), some (BitVec.ofNat 4 (atomOp f), f.type, BitVec.ofNat 64 (value g)), r.entry.region))
        ∧ (∀ b y, blockAt s b = some y → ∃ z, blockAt s' b = some z ∧
            (∀ g ∈ groups, own g = true → b = t.block → memNat z.scratch (locOff (g.1.headD 0)) (memSize f) =
              atomNew (atomOp f) (tyOf f) (memNat y.scratch (locOff (g.1.headD 0)) (memSize f)) (value g) 0 % 2 ^ (8 * memSize f))
            ∧ ∀ o, (∀ g ∈ groups, own g = true → b = t.block → o < locOff (g.1.headD 0) ∨ locOff (g.1.headD 0) + memSize f ≤ o) → memByte z.scratch o = memByte y.scratch o))

/-- R210, R251, R260, R261: a lane atomic stops the scalar side and closes the regions of its strand; once they have cleared, every
word takes the operands of its lanes, at its home or in its scratch array, each lane receives the value before it, a compare that failed
sets DEMOTE, and an implicit region opens at the next instruction. Words of host memory first go to the link partner, one request for each
address, or for each lane of a compare-and-swap, with the TEE bit of the partition's interface; the lanes receive from its answers.
Where the spec leaves a point open it rests on the model's own choices: DEDUCED, log 82; DEDUCED, log 116; DESIGN CHOICE, log 148. -/
def Obligations.LaneAtomics : Prop :=
∀ i f cas, (i = .vatom f ∧ cas = false ∧ atomOp f ≠ 7) ∨ (i = .vatomCas f ∧ cas = true ∧ atomOp f = 7) → ∀ s c l t r as_,
    let x := laneCtx c l t r (memWord f)
    let n := memSize f
    let s1 := keepLanes s x f n
    let locs := as_.flatMap fun e => e.2
    let scope := bits f.func.toNat 6 4
    LaneReady (atomUse f cas) (memWord f) s c l t r → LaneMemFree s x (flagA x) → laneAccesses s x f n .write true true true = .ok as_ →
    (t.lphase = .idle → (scope < 2 ∨ ∀ b, blockAt s t.block = some b → dirtyChunks b none = []) → ∃ s' t', exec i s = .next s' ∧ s'.mem = s.mem ∧ strandAt s' c l = some t' ∧ t'.lphase = .releasing
      ∧ t'.lwait = .clearing ∧ (∀ q ∈ t'.regions, q.close ≠ none) ∧ t'.ln = t.ln ∧ t'.sc = t.sc ∧ t'.st = t.st)
    ∧ (t.lphase = .releasing ∨ t.lphase = .requested → allCleared t = true → headRoom t = true →
      (2 ≤ scope → t.ops = [] ∧ releaseDone s1 c l t = true ∧ (coreOf s1 c).sweeping = false) →
      atomBlocked s1 x locs = false → hostOwned s locs = false → touchWaits s1 locs = false → frameHeld s locs = false →
      locs.any (hostDropped s t.part) = false →
      ((∃ e ∈ as_, atHost (e.2.headD 0) = true) → (∀ q ∈ s.links, ownLink s c l q = false) →
        ∃ s' new, exec i s = .next s' ∧ s'.mem = s.mem ∧ s'.blocks = s.blocks ∧ s'.links = s.links ++ new
          ∧ StrandOf s' c l (fun t' => t'.lphase = .requested ∧ t'.lwait = .pending ∧ t'.ln = t.ln ∧ t'.sc = t.sc ∧ t'.st = t.st)
          ∧ (∀ q ∈ new, ownLink s c l q = true ∧ q.op.toNat = atomOp f ∧ q.type = f.type ∧ q.result = none ∧ q.refused = false ∧ q.tee = frozen s t.part
              ∧ ∃ e ∈ as_, atHost (e.2.headD 0) = true ∧ q.addr = e.2.headD 0 ∧ q.lane = leadLane cas as_ e)
          ∧ ∀ e ∈ as_, atHost (e.2.headD 0) = true → ∃ q ∈ new, q.addr = e.2.headD 0 ∧ q.lane = leadLane cas as_ e
              ∧ (cas = true → q.compare = BitVec.ofNat 64 (atomOperand x f 1 e.1) ∧ q.value = BitVec.ofNat 64 (atomOperand x f 2 e.1))
              ∧ (cas = false → ∀ y ys, lanesAt x f as_ e.2 64 = y :: ys →
                  q.value = BitVec.ofNat 64 (ys.foldl (fun w z => atomNew (atomOp f) (tyOf f) w z.1 0) y.1)))
      ∧ (∀ old : Nat → Word, (∀ e ∈ as_, isScratch (e.2.headD 0) = true → (blockAt s (locBlock (e.2.headD 0))).isSome) →
        (∀ e ∈ as_, ∀ e' ∈ as_, e.2 = e'.2 ∨ e.2.headD 0 + n ≤ e'.2.headD 0 ∨ e'.2.headD 0 + n ≤ e.2.headD 0) →
        (∀ q ∈ s.links, ownLink s c l q = true → atHost q.addr = true ∧ q.result = some (old q.lane) ∧ q.refused = false) →
        (∀ e ∈ as_, atHost (e.2.headD 0) = true → ∃ q ∈ s.links, ownLink s c l q = true ∧ q.addr = e.2.headD 0 ∧ q.lane = leadLane cas as_ e) →
        let had (e : Nat × List Nat) : Nat := if atHost (e.2.headD 0) then (old (leadLane cas as_ e)).toNat % 2 ^ (8 * n) else homeWord s (e.2.headD 0) n
        AtomPerforms i s x f cas as_
          (fun e => if cas = true ∧ atHost (e.2.headD 0) = true then had e else atomReceives (atomOp f) (tyOf f) (had e) (lanesAt x f as_ e.2 e.1))
          fun s' => (∀ q ∈ s'.links, q ∈ s.links ∧ ownLink s c l q = false)
            ∧ (∀ e ∈ as_, atHost (e.2.headD 0) = false →
                homeWord s' (e.2.headD 0) n = atomAfter (atomOp f) (tyOf f) (had e) (lanesAt x f as_ e.2 64) % 2 ^ (8 * n))
            ∧ (∀ a, (∀ e ∈ as_, isScratch (e.2.headD 0) = true ∨ atHost (e.2.headD 0) = true ∨ a < e.2.headD 0 ∨ e.2.headD 0 + n ≤ a) →
                memByte s'.mem a = memByte s.mem a)
            ∧ ∀ b y, blockAt s b = some y → ∃ z, blockAt s' b = some z ∧ ∀ o,
                (∀ e ∈ as_, isScratch (e.2.headD 0) = true → locBlock (e.2.headD 0) = b → o < locOff (e.2.headD 0) ∨ locOff (e.2.headD 0) + n ≤ o) →
                  memByte z.scratch o = memByte y.scratch o))

/-- R217, R303: `gclr`, `gmov`, `gmov.tr` and `gldb` write every element of their tile, when the segment has a staging slot for it.
Where the spec leaves a point open it rests on the model's own choices: DESIGN CHOICE, log 124. -/
def Obligations.MatrixTiles : Prop :=
∀ f s c b x, StreamRuns s c b x →
    let g := (coreOf s c).griddle
    (matrixReject f = none → stageNeed g x f.vd.toNat = .fine →
      WritesTile (.gclr f) s c x f.vd.toNat (fun _ _ => 0)
      ∧ WritesTile (.gmov f) s c x f.vd.toNat (fun i j => tileElem g.tiles f.va.toNat i j)
      ∧ WritesTile (.gmovTr f) s c x f.vd.toNat (fun i j => tileElem g.tiles f.va.toNat j i))
    ∧ (∀ r bid y, SlotOf s b f r → matrixTarget s g b f.func.toNat = some (bid, y) → stageNeed g x f.vd.toNat = .fine →
      let base := 2048 * f.vb.toNat
      128 ≤ base → base + tileBytes r ≤ y.area → scalesInArea y r base 1024 = true →
      WritesTile (.gldb f) s c x f.vd.toNat (fun i j =>
        BitVec.ofNat 32 (fp32.result false (scaled (decodeElem r (leNat (streamBytes s g bid base (tileBytes r))) (32 * i + j)) (streamScale s g r bid base (32 * i + j))))))

/-- R94, R298, R299, R301: `gmma` adds to every element of its tile the product of row i of the A fragment, from the registers of
its strand or from the latch, and column j of the B tile, in four groups; FUNC[4] latches the fragment.
R300: of a word that changes during its reads it may take what was there when they began, or what is there now
(DESIGN CHOICE, log 126: which one is free).
Where the spec leaves a point open it rests on the model's own choices: DESIGN CHOICE, log 126. -/
def Obligations.MatrixMultiply : Prop :=
∀ f s c b x r n t, StreamRuns s c b x → SlotOf s b f r →
    let g := (coreOf s c).griddle
    let base := 2048 * f.vb.toNat
    let K := 512 / fmtWidth (slotFmt r)
    let regs := fragRegs t.compat f.va.toNat ++ imageRegs t.compat r f.vc.toNat
    (slotKind r = 0 → f.vc = 0) → (∀ l, g.latch = some l → latchAgrees f l = true) → streamStrand s c g.holder (f.func.toNat % 16) = some (n, t) →
    (∀ v ∈ regs, v < 32 * t.vblk) → (∀ e ∈ t.vpend, e.1 ∉ regs) → (g.latch = none → fragPoison t r f.va.toNat f.vc.toNat = false) →
    128 ≤ base → base + 2048 ≤ b.area → scalesInArea b r base (32 * K) = true → stageNeed g x f.vd.toNat = .fine →
    ∃ (vregs : FMap W32) (scr : Memory) (frag : List W32) (img : List Byte),
      (∀ q, GmmaReads g f (mgetD vregs q 0).toNat (mgetD t.ln.vregs q 0).toNat fun y => (mgetD y.regs q 0).toNat)
      ∧ (∀ w, GmmaReads g f (memNat scr (4 * w) 4) (memNat b.scratch (4 * w) 4) fun y => memNat y.scratch (4 * w) 4)
      ∧ (∀ l, g.latch = some l → frag = l.frag ∧ img = l.scales)
      ∧ (g.latch = none → let t' : Strand := { t with ln := { t.ln with vregs := vregs } }
          img = readImage t' r f.vc.toNat ∧ frag = (List.range 512).map fun m => fragmentWord t' f.va.toNat (m / 16) (m % 16))
      ∧ WritesTile (.gmma f) s c x f.vd.toNat (fun i j =>
          let a (k : Nat) := scaled (decodeElem r (wordsNat ((frag.drop (16 * i)).take 16)) k) (imageScale r img ((i * K + k) / blockLen (slotBlen r)))
          let column := leNat ((List.range 64).map fun o => memByte scr (base + 64 * j + o))
          let u := modBlock s g.holder fun y => { y with scratch := scr }
          let bk (k : Nat) := scaled (decodeElem r column k) (streamScale u g r g.holder base (j * K + k))
          BitVec.ofNat 32 (fourGroups (tileElem g.tiles f.vd.toNat i j).toNat (K / 4) (fun k => Sys2Proof.Num.mul (a k) (bk k))))
      ∧ ∃ s', exec (.gmma f) s = .next s' ∧ (coreOf s' c).griddle.reading = none ∧ (f.func.getLsbD 4 = false → (coreOf s' c).griddle.latch = none)
          ∧ (f.func.getLsbD 4 = true → (coreOf s' c).griddle.latch = some { strand := f.func.toNat % 16, va := f.va, vc := f.vc, type := f.type, slot := f.slot, frag := frag, scales := img })

/-- R202, R303: `gst` encodes the elements of its tile, scaled, in the slot's format: into the own area in place, into a member's area
through the hearth write buffer; a saturated element sets the format's sticky bit in the segment.
Where the spec leaves a point open it rests on the model's own choices: DEDUCED, log 120. -/
def Obligations.MatrixStore : Prop :=
∀ f s c b x r bid y, StreamRuns s c b x → SlotOf s b f r →
    let g := (coreOf s c).griddle
    let base := 2048 * f.vb.toNat
    let n := tileBytes r
    matrixTarget s g b f.func.toNat = some (bid, y) → 128 ≤ base → base + n ≤ y.area → scalesInArea y r base 1024 = true →
    (bid = g.holder → undoNeed (coreOf s c) x bid ((List.range (n / 4)).map fun i => base + 4 * i) = .fine) →
    (bid ≠ g.holder → hwbNeed s c x ((n + 127) / 128) = .fine) →
    let elem (e : Nat) : Sys2Proof.Num := Sys2Proof.Num.scale (fp32.decode (tileElem g.tiles f.va.toNat (e / 32) (e % 32)).toNat) (scaleExp f)
    let sc (e : Nat) : Sys2Proof.Num := streamScale s g r bid base e
    let w := fmtWidth (slotFmt r)
    ∃ s', ∃ data : List Byte, exec (.gst f) s = .next s' ∧ OnlyStream s s' c ∧ data.length = n
      ∧ (coreOf s' c).griddle.next = (g.next + 1) % 2 ^ 26 ∧ (coreOf s' c).griddle.tiles = g.tiles
      ∧ (slotFmt r ≠ 6 → ∀ e, e < 1024 → leNat ((data.drop (e * (w / 8))).take (w / 8)) = (encodeElem r (elem e) (sc e)).1 % 2 ^ w)
      ∧ (slotFmt r = 6 → ∀ p, p < 512 → data.getD p 0 = BitVec.ofNat 8 (encodeQ r (elem (2 * p)) (elem (2 * p + 1)) (sc (2 * p)) (sc (2 * p + 1))).1)
      ∧ (∀ q z, blockAt s q = some z → ∃ z', blockAt s' q = some z' ∧ ∀ o, o < 2 ^ 20 → memByte z'.scratch o =
          if q = bid ∧ bid = g.holder ∧ base ≤ o ∧ o < base + n then data.getD (o - base) 0 else memByte z.scratch o)
      ∧ (bid = g.holder → (coreOf s' c).hwb = (coreOf s c).hwb)
      ∧ (bid ≠ g.holder → ∃ new, (coreOf s' c).hwb = (coreOf s c).hwb ++ new ∧ (∀ h ∈ new, h.block = bid ∧ h.owner = x.id ∧ h.due = none)
          ∧ ∀ o v, (∃ h ∈ new, (o, v) ∈ h.bytes) ↔ (base ≤ o ∧ o < base + n ∧ v = data.getD (o - base) 0))
      ∧ (∃ z ∈ (coreOf s' c).griddle.segs, z.id = x.id ∧ z.close = none
          ∧ (slotFmt r ≠ 6 → (z.sticky = if ∃ e, e < 1024 ∧ (encodeElem r (elem e) (sc e)).2 = true then x.sticky ||| ((1 : BitVec 7) <<< slotFmt r) else x.sticky)))

/-- R218, R304, R305: `gmeet` and `gend` close the segment, signal, and release the latch; `gend` stops the stream; `gmeet` opens the
next segment and waits until its point has the unconsumed amount, which it consumes; a signal past 2^64 - 1 takes the counter-overflow
trap, and the stream stops after the instruction.
Where the spec leaves a point open it rests on the model's own choices: DEDUCED, log 36; DEDUCED, log 120. -/
def Obligations.MatrixMeets : Prop :=
∀ f s c b x, StreamRuns s c b x → matrixReject f = none → signalNeed s c (coreOf s c).griddle x f = .fine →
    let g := (coreOf s c).griddle
    let sp := f.imm.toNat / 16 % 16
    let wp := f.imm.toNat % 16
    let past := f.imm.getLsbD 9 = true ∧ 2 ^ 64 ≤ meetWord s c sp + f.vc.toNat
    (past → ∃ s1 s2, exec (.gend f) s = .next s1 ∧ Signalled s s1 c x f ∧ StreamTraps s s1 c x 0x17 0 0 ((g.next + 1) % 2 ^ 26)
      ∧ (liveSegs g < 16 → exec (.gmeet f) s = .next s2 ∧ s2 = s1))
    ∧ (¬ past → ∃ s1, exec (.gend f) s = .next s1 ∧ Signalled s s1 c x f ∧ (coreOf s1 c).griddle.run = false ∧ (coreOf s1 c).griddle.next = (g.next + 1) % 2 ^ 26)
    ∧ (16 ≤ liveSegs g → exec (.gmeet f) s = .next s)
    ∧ (¬ past → liveSegs g < 16 → ∃ s1, exec (.gmeet f) s = .next s1 ∧ Signalled s s1 c x f ∧ (coreOf s1 c).griddle.run = true
      ∧ (∃ y, openSeg (coreOf s1 c).griddle = some y ∧ y.id = s.nextId)
      ∧ (f.imm.getLsbD 8 = false → (coreOf s1 c).griddle.next = (g.next + 1) % 2 ^ 26 ∧ (coreOf s1 c).griddle.waiting = g.waiting)
      ∧ (f.imm.getLsbD 8 = true →
        let ready := f.vb.toNat ≤ (BitVec.ofNat 64 (meetWord s1 c wp) - mgetD b.cursors wp 0).toNat
        (ready → (coreOf s1 c).griddle.next = (g.next + 1) % 2 ^ 26 ∧ (coreOf s1 c).griddle.waiting = none
          ∧ ∃ z, blockAt s1 g.holder = some z ∧ mgetD z.cursors wp 0 = mgetD b.cursors wp 0 + BitVec.ofNat 64 f.vb.toNat)
        ∧ (¬ ready → (coreOf s1 c).griddle.next = g.next ∧ (coreOf s1 c).griddle.waiting = some (wp, f.vb.toNat)
          ∧ ∃ z, blockAt s1 g.holder = some z ∧ z.cursors = b.cursors)))

/-- R57, R297, R302, R307: a word that breaks R57 or R297 takes the reserved-encoding trap with its cause; one whose TYPE does not
agree with its slot takes cause 0x09; a `gmma` of a strand that the block does not hold, or that has executed `exit`, takes the
griddle-operand trap; a B tile outside the area takes the scratch-range fault: the stream stops there, with no effect.
Where the spec leaves a point open it rests on the model's own choices: DEDUCED, log 15; DEDUCED, log 65. -/
def Obligations.MatrixTraps : Prop :=
∀ i f s c b x, matrixWord i = some f → StreamRuns s c b x →
    let g := (coreOf s c).griddle
    (∀ e, matrixReject f = some e → ∃ s', exec i s = .next s' ∧ StreamTraps s s' c x 0x02 e.cause.toNat 0 g.next ∧ s'.blocks = s.blocks)
    ∧ ((i = .gmma f ∨ i = .gldb f ∨ i = .gst f) → matrixReject f = none → matrixSlot s b f = none →
      ∃ s', exec i s = .next s' ∧ StreamTraps s s' c x 0x02 0x09 0 g.next ∧ s'.blocks = s.blocks)
    ∧ (∀ r, i = .gmma f → SlotOf s b f r → (slotKind r = 0 → f.vc = 0) → g.latch = none →
      (streamStrand s c g.holder (f.func.toNat % 16) = none → ∃ s', exec i s = .next s' ∧ StreamTraps s s' c x 0x21 0 0 g.next ∧ s'.blocks = s.blocks)
      ∧ (∀ n t, streamStrand s c g.holder (f.func.toNat % 16) = some (n, t) → t.vpend = [] → fragPoison t r f.va.toNat f.vc.toNat = false →
        (∀ v ∈ fragRegs t.compat f.va.toNat ++ imageRegs t.compat r f.vc.toNat, v < 32 * t.vblk) →
        f.vb = 0 ∨ b.area < 2048 * f.vb.toNat + 2048 →
        ∃ s' a, exec i s = .next s' ∧ StreamTraps s s' c x 0x11 0 a g.next ∧ s'.blocks = s.blocks))

/-- R340, R341, R350: the arithmetic of the damper writes its result, wrapped to 64 bits, to dD in 1 cycle (2 with an extension), and
leaves the condition state and everything outside the run as it was. -/
def Obligations.DamperArithmetic : Prop :=
∀ i d a m x f, damperArithOf i = some (d, a, m, x, f) → ∀ s p r, DamperRuns s p r → r.cycles + damperCycles 1 m ≤ 512 →
    DamperGoes i s p r (damperCycles 1 m) (r.pc + damperWords m) fun j =>
      DamperWrites r j d (BitVec.ofNat 64 (f (mgetD r.regs d.toNat 0).toNat (damperSrc r a m x).toNat)) ∧ SameCondition r j

/-- R351, R352, R353: `cmp`, the forward jumps, the loads from the snapshot of a view and `best`: what each writes, its cycles, and
that nothing outside the run changes. -/
def Obligations.DamperTestsAndViews : Prop :=
(∀ (d a : BitVec 4) m x s p r, DamperRuns s p r → r.cycles + damperCycles 1 m ≤ 512 →
    DamperGoes (.dCmp d a m x) s p r (damperCycles 1 m) (r.pc + damperWords m) fun j =>
      j.regs = r.regs ∧ DamperCompared j (mgetD r.regs d.toNat 0) (damperSrc r a m x))
  ∧ (∀ (c a : BitVec 4) m x s p r, DamperRuns s p r → r.cycles + damperCycles 1 m ≤ 512 →
    (JumpHolds r c.toNat → DamperGoes (.dJf c a m x) s p r (damperCycles 1 m) (r.pc + damperWords m + (damperSrc r a m x).toNat) fun j =>
      j.regs = r.regs ∧ SameCondition r j)
    ∧ (¬ JumpHolds r c.toNat → DamperGoes (.dJf c a m x) s p r (damperCycles 1 m) (r.pc + damperWords m) fun j =>
      j.regs = r.regs ∧ SameCondition r j))
  ∧ (∀ i v d a m x, damperLoadOf i = some (v, d, a, m, x) → ∀ s p r, DamperRuns s p r → r.cycles + damperCycles 4 m ≤ 512 →
    let n := (damperSrc r a m x).toNat
    DamperGoes i s p r (damperCycles 4 m) (r.pc + damperWords m) fun j =>
      DamperWrites r j d (if n < 2 ^ 16 then viewWord r v (n / 16) (n % 16) else 0) ∧ SameCondition r j)
  ∧ (∀ (d a : BitVec 4) m x s p r, DamperRuns s p r →
    let q := (damperSrc r a m x).toNat % 2048
    let first := (mgetD r.regs d.toNat 0).toNat
    let n := damperCycles (4 + (q / 128 % 16 + 1)) m
    r.cycles + n ≤ 512 → DamperGoes (.dBest d a m x) s p r n (r.pc + damperWords m) fun j => ∃ v : Word,
      DamperWrites r j d v ∧ DamperCompared j v 0xFFFFFFFFFFFFFFFF
      ∧ (q % 4 = 3 ∨ (∀ e, ¬ BestCandidate r first q e) → v = 0xFFFFFFFFFFFFFFFF)
      ∧ (∀ e, q % 4 ≠ 3 → BestCandidate r first q e → (∀ f, BestCandidate r first q f → BestBefore r q e f) → v = BitVec.ofNat 64 e))

/-- R24, R30, R178, R324, R339 to R343, R354, R359, R360: a decision is performed on the tick after its last cycle and ends the run; one that the event's
kind does not accept, or that the state does not allow, adds one to DPREF and gives way to the fallback; `hold` does nothing. A
decision that would pass 512 cycles is an overrun. What an accepted one does: `dsp` places the next gang on the named core, and its
strands start as R24 and R30 say; `pre` and `park` pre-empt; `kill` ends the grid; `retry` counts; `susp` and `grant` let the waiter go on.
Where the spec leaves a point open it rests on the model's own choices: DEDUCED, log 44; DEDUCED, log 46; DEDUCED, log 49; DESIGN CHOICE, log 139. -/
def Obligations.DamperDecisions : Prop :=
(∀ i m ok f, decisionOf i = some (m, ok, f) → ∀ s p r, DamperRuns s p r →
    (r.cycles + damperCycles 1 m ≤ 512 → s.now < r.began + r.cycles + damperCycles 1 m → exec i s = .next s)
    ∧ (r.cycles + damperCycles 1 m ≤ 512 → r.began + r.cycles + damperCycles 1 m ≤ s.now → decisionWaits s p r (decisionQueue r) = false →
      ∃ s' u, exec i s = .next s'
      ∧ partAt u p = { partAt s p with interp := none, dpcnt := (partAt s p).dpcnt + 1 } ∧ { u with parts := s.parts } = s
      ∧ (∀ v, ok r.event = true → f u p r = some v → s' = noteDecision v p r.event false)
      ∧ (ok r.event = false ∨ f u p r = none → ∃ w, partAt w p = { partAt u p with dpref := (partAt u p).dpref + 1 }
          ∧ { w with parts := s.parts } = s ∧ s' = fallback w p r ∧ HeldAfter w s' p r.event))
    ∧ (512 < r.cycles + damperCycles 1 m → r.began + r.cycles ≤ s.now → decisionWaits s p r none = false → ∃ s' w, exec i s = .next s'
      ∧ partAt w p = { partAt s p with interp := none, dpcnt := (partAt s p).dpcnt + 1, dpovr := (partAt s p).dpovr + 1 }
      ∧ s' = fallback w p r ∧ HeldAfter w s' p r.event))
  ∧ (∀ s p r, DamperRuns s p r → r.cycles + 1 ≤ 512 → r.began + r.cycles + 1 ≤ s.now → decisionWaits s p r (decisionQueue r) = false → r.event.kind ≠ 2 →
    ∃ s' u, exec .dHold s = .next s'
    ∧ partAt u p = { partAt s p with interp := none, dpcnt := (partAt s p).dpcnt + 1 } ∧ { u with parts := s.parts } = s
    ∧ HeldAfter u s' p r.event ∧ (r.event.kind = 0 → mget (partAt s' p).heldAt r.event.hearth = some s.now
      ∧ { partAt s' p with heldAt := (partAt u p).heldAt } = partAt u p))
  ∧ (∀ (q a : BitVec 4) m x s p r, DamperRuns s p r → r.cycles + damperCycles 1 m ≤ 512 → r.began + r.cycles + damperCycles 1 m ≤ s.now →
    decisionWaits s p r (decisionQueue r) = false → r.event.kind = 0 → ∃ s' u, exec (.dFill q a m x) s = .next s'
      ∧ partAt u p = { partAt s p with interp := none, dpcnt := (partAt s p).dpcnt + 1 } ∧ { u with parts := s.parts } = s
      ∧ (r.event.sub ≠ 3 ∨ 64 ≤ (mgetD r.regs q.toNat 0).toNat ∨ 4 ≤ (damperSrc r a m x).toNat
          ∨ (∀ hd, headOf (partAt u p) (mgetD r.regs q.toNat 0).toNat = some hd → hd.record!.cores = true
            ∨ ∃ k, k < hd.gang.1 ∧ (stalledMask u p r.event.hearth).testBit ((damperSrc r a m x).toNat + k) = false) →
          ∃ w, partAt w p = { partAt u p with dpref := (partAt u p).dpref + 1 } ∧ s' = fallback w p r)
      ∧ (∀ hd v, r.event.sub = 3 → (mgetD r.regs q.toNat 0).toNat < 64 → headOf (partAt u p) (mgetD r.regs q.toNat 0).toNat = some hd →
          hd.record!.cores = false → (damperSrc r a m x).toNat < 4 →
          (∀ k, k < hd.gang.1 → (stalledMask u p r.event.hearth).testBit ((damperSrc r a m x).toNat + k) = true) →
          dispatchHead u p r.event.hearth (mgetD r.regs q.toNat 0).toNat (damperSrc r a m x).toNat true true = some v →
          s' = noteDecision v p r.event false))
  ∧ (∀ s p h q off fill op, holdsHearth (partAt s p) h = false ∨ 64 ≤ q → dispatchHead s p h q off fill op = none)
  ∧ (∀ s p h q off fill op v g, dispatchHead s p h q off fill op = some v → headOf (partAt s p) q = some (.grid g) → g.record.cores = false →
    gridAt s p g.launch = some g → ∃ y, gridAt v p g.launch = some y ∧ ∃ x ∈ y.gangs, x.state = .resident ∧ x.core = 4 * h + off ∧ x.placed = s.now
      ∧ x.filler = fill)
  ∧ (∀ s p h q off fill op v, dispatchHead s p h q off fill op = some v →
    (∀ y ∈ (partAt s p).grids, ∀ x ∈ y.gangs, x.id < s.nextId ∧ (∀ t ∈ x.strands, t.gang = x.id) ∧ ∀ f ∈ x.blocks, f.1 < s.nextId) →
    ∀ k t, mget s.strands k = none → mget v.strands k = some t → s.nextId ≤ t.gang → ∃ base, StartsAs v p t base)
  ∧ (∀ s p idx h y x rest, (heldHearths (partAt s p))[idx / 4]? = some h → gangsByAge s p (4 * h + idx % 4) = (y, x) :: rest →
    (∀ z ∈ y.gangs, gangAt s p z.id = some (y.launch, z)) → x ∈ y.gangs →
    (∀ e ∈ rest, x.placed ≤ e.2.placed)
    ∧ (y.record.cores = false → x.state = .resident → ∃ v, preCore s p idx = some v ∧ GangIs v p x.id fun z => z.state = .saving)
    ∧ (y.record.cores = true → (∀ z ∈ y.gangs, z.state ≠ .saving) → ∃ v, preCore s p idx = some v
      ∧ ∀ z ∈ y.gangs, z.state = .resident → GangIs v p z.id fun w => w.state = .saving))
  ∧ (∀ s p e y, eventGrid s p e = some y →
    ((∀ x ∈ y.gangs, gangAt s p x.id = some (e.grid, x)) → ∃ v z, parkEvent s p e = some v ∧ gridAt v p e.grid = some z ∧ z.parked = true
      ∧ ∀ x ∈ z.gangs, x.state ≠ .resident)
    ∧ (∃ v z, killEvent s p e = some v ∧ gridAt v p e.grid = some z ∧ z.killed = true ∧ (∀ x ∈ z.gangs, x.state = .retired)
      ∧ ∀ q ∈ v.strands, ∀ x ∈ y.gangs, x.state ≠ .retired → q.2.gang ≠ x.id)
    ∧ (∀ launch x limit, gangAt s p e.gang = some (launch, x) →
      (x.state = .saved → x.retries < limit → ∃ v, retryEvent s p e limit = some v ∧ GangIs v p e.gang fun z =>
        z.state = .saved ∧ z.retries = x.retries + 1 ∧ z.hold = false)
      ∧ (x.state = .resident → x.retries < limit → ∃ v, retryEvent s p e limit = some v ∧ GangIs v p e.gang fun z =>
        z.state = .saving ∧ z.retries = x.retries + 1 ∧ z.hold = false)
      ∧ (x.state = .saved ∨ x.state = .resident → limit ≤ x.retries → retryEvent s p e limit = parkEvent s p e)))
  ∧ (∀ s p e y w, e.channel = none → enginePair s e = some (y, w) →
    (∃ v, grantEvent s e = some v ∧ CopyIs v y.id (fun z => z.active = false) ∧ CopyIs v w.id fun z => z.active = true)
    ∧ (exhausted (partAt s p) y.acct = true → ∃ v, suspEvent s p e = some v ∧ CopyIs v y.id (fun z => z.active = false ∧ z.suspended = true)
      ∧ CopyIs v w.id fun z => z.active = true)
    ∧ (exhausted (partAt s p) y.acct = false → suspEvent s p e = none))
  ∧ (∀ s e k d w rest, e.channel = some k → (mgetD s.channels k Channel.reset).descs = d :: rest → rest.find? (fun x => x.id == e.core) = some w →
    d.id = e.gang → ∃ v, grantEvent s e = some v ∧ ∃ more, (mgetD v.channels k Channel.reset).descs = d :: w :: more)

/-- R41 to R60: words written out from the encoding tables decode to the instructions they stand for, in every stream. -/
def Obligations.KnownWords : Prop :=
(decodeScalar 0x28A7FFFB = .ok (.sli 20 (-5)) ∧ decodeScalar 0x044840A0 = .ok (.sadd 9 4 5) ∧ decodeScalar 0x0C489FF0 = .ok (.saddImm 9 9 (-16))
    ∧ decodeScalar 0x085040A2 = .ok (.scmp 10 4 5 2) ∧ decodeScalar 0x44380FFD = .ok (.sbNe 7 0 (-3)) ∧ decodeScalar 0x04603018 = .ok (.smovMailbox 12 3)
    ∧ decodeScalar 0x74109000 = .ok (.lk 2 9) ∧ decodeScalar 0x68000007 = .ok (.lrun 7) ∧ decodeScalar 0x58580006 = .ok (.pqpush 11 6)
    ∧ decodeScalar 0x84A14100 = .ok (.iqloop 5 40 1) ∧ decodeScalar 0x6C000002 = .ok .sret ∧ decodeScalar 0xB8009001 = .ok (.meet 9 1)
    ∧ decodeScalar 0xF8400000 = .ok (.mres 8) ∧ decodeScalar 0xBC000000 = .ok .nop)
  ∧ (decodeLane 0x00002804C5400F8000000000 = .ok (.vadd (plainFields 0x00 0 10 4 789 0 0 0))
    ∧ decodeLane 0x4180080601C00F8000020000 = .ok (.vfcmp (plainFields 0x41 8 2 6 7 0 2 0))
    ∧ decodeLane 0x630C200400000F8000000000 = .ok (.vballot (plainFields 0x63 0 776 4 0 0 0 0))
    ∧ decodeLane 0x5380500401406F8002010000 = .ok (.vpk { plainFields 0x53 8 20 4 5 6 1 0 with slot := 2 })
    ∧ decodeLane 0x238000040270018908000000 = .ok (.vffma { plainFields 0x23 8 0 4 9 768 0 0 with pred := 3, modb := 2, moda := 1, scale := 1 }))
  ∧ (decodeMatrix 0xE090141000400F8000130000 = .ok (.gmma (plainFields 0xE0 9 5 16 1 0 19 0))
    ∧ decodeMatrix 0xE380000000800F8001000000 = .ok (.gst { plainFields 0xE3 8 0 0 2 0 0 0 with slot := 1 })
    ∧ decodeMatrix 0xE200000000000F8000000000 = .ok (.gclr (plainFields 0xE2 0 0 0 0 0 0 0))
    ∧ decodeMatrix 0xE500000001001F8000000310 = .ok (.gmeet (plainFields 0xE5 0 0 0 4 1 0 784))
    ∧ decodeMatrix 0xE600000000001F8000000210 = .ok (.gend (plainFields 0xE6 0 0 0 0 1 0 528)))
  ∧ decodeDamper 0x10D4 0 = .ok (.dAdd 3 5 0 0, 1)

/-- R40 to R60: the words of a well-formed instruction, of any stream, decode to it, with every operand at every value it may have. -/
def Obligations.EncodingsDecode : Prop :=
∀ i, WellFormed i = true → reads (encode i) i

/-- R40 to R60: a word has one meaning: the instruction it decodes to has that word for its encoding, so no bit of it is dropped. -/
def Obligations.WordsHaveOneMeaning : Prop :=
(∀ w i, decodeScalar w = .ok i → encode i = .scalar w) ∧ (∀ w i, decodeLane w = .ok i → encode i = .lane w)
  ∧ (∀ w i, decodeMatrix w = .ok i → encode i = .matrix w)
  ∧ (∀ w x i n, decodeDamper w x = .ok (i, n) → encode i = .damper w (if n = 2 then some x else none))

/-- R40, R61, R398: the step of an agent at an instruction runs that instruction, once its core keeps the translations that the fetch
walked, and notes its issue; the step of an event is the event.
Where the spec leaves a point open it rests on the model's own choices: DESIGN CHOICE, log 2. -/
def Obligations.StepRunsTheInstruction : Prop :=
(∀ s a i rest, due s = none → s.turns = .agent a :: rest → AtInstruction { s with turns := rest, agent := a } a i →
    step s = AfterInstruction a i (exec i (keepFetch { s with turns := rest, agent := a } a)))
  ∧ (∀ s i rest, due s = none → s.turns = .event i :: rest → step s = exec i { s with turns := rest, agent := .none })

/-- R40, DESIGN CHOICE, log 2: no step of the module stops: whatever its agents are about to run, a legal turn gives a next state. The turns are the
model's own; an instruction that no agent has fetched is no turn. -/
def Obligations.StepsGoOn : Prop :=
∀ s, (∀ i rest, s.turns = .event i :: rest → encode i = .none) → ∃ s', step s = .next s'

/-- DESIGN CHOICE, log 1: after reset memory lists no byte, and stands in its canonical form. -/
def Obligations.ResetMemory : Prop :=
State.reset.mem = [] ∧ Memory.wf State.reset.mem = true

/-- DESIGN CHOICE, log 1: every step keeps memory in the model's canonical form: addresses rise, and no listed byte is 0, the byte that
the model lets an unlisted address read; the spec gives memory no contents before it is written. -/
def Obligations.MemoryStaysCanonical : Prop :=
∀ s s', Memory.wf s.mem = true → step s = .next s' → Memory.wf s'.mem = true

/-- R200, R202, R204, R212, R217, R218, R304, R305: an effective close is the latest of its causes, once all are known; at ec + Q_core a
region clears, and its entries and copies may go on; at ec + W it is no longer unreleased; a segment clears likewise; the stream opens
its next segment, or ends its wait at a meet.
Where the spec leaves a point open it rests on the model's own choices: DEDUCED, log 35. -/
def Obligations.RegionsClear : Prop :=
(∀ c l id s t r cl, l < 64 → strandAt s c l = some t → regionAt t id = some r → r.ec = none → r.close = some cl → depsKnown s c r.deps = true →
    Happens (.evEffectiveCloseDetermined c l id) s fun s' => s'.mem = s.mem
      ∧ RegionOf s' c l id fun q => ∃ ec, q.ec = some ec ∧ LatestClose s c r.deps cl ec)
  ∧ (∀ c id s x cl, (coreOf s c).griddle.segs.find? (fun g => g.id == id && g.ec.isNone) = some x → x.close = some cl → depsKnown s c x.deps = true →
    Happens (.evEffectiveCloseDetermined c 64 id) s fun s' => NoStrand s s'
      ∧ SegmentOf s' c id fun y => ∃ ec, y.ec = some ec ∧ LatestClose s c x.deps cl ec)
  ∧ (∀ c l id s t r ec, strandAt s c l = some t → regionAt t id = some r → r.ec = some ec → r.cleared = false →
    (s.now < ec + r.qcore → exec (.evRegionCleared c l id) s = .next s)
    ∧ (ec + r.qcore ≤ s.now → Happens (.evRegionCleared c l id) s fun s' => s'.mem = s.mem
      ∧ (RegionOf s' c l id fun q => q.cleared = true ∧ q.ec = some ec)
      ∧ (∀ h ∈ (coreOf s' c).hwb, h.owner = id → h.due = some (ec + r.qdie))
      ∧ (∀ y ∈ s'.copies, y.region = id → y.cleared = some (ec, r.qdie, r.qpkg))))
  ∧ (∀ c l id s t r ec, strandAt s c l = some t → regionAt t id = some r → r.ec = some ec → r.cleared = true →
    (s.now < ec + windowOf r → exec (.evRegionReleased c l id) s = .next s)
    ∧ (ec + windowOf r ≤ s.now → (∀ h ∈ (coreOf s c).hwb, h.owner ≠ id) → Happens (.evRegionReleased c l id) s fun s' => s'.mem = s.mem
      ∧ ∃ t', strandAt s' c l = some t' ∧ t'.regions = t.regions.filter fun x => x.id != id))
  ∧ (∀ c id s h tick, (coreOf s c).hwb.find? (fun e => e.id == id) = some h → h.due = some tick →
    (s.now < tick → exec (.evNeighbourWriteApplied c id) s = .next s)
    ∧ (tick ≤ s.now → entryReadsFirst s h = false → Happens (.evNeighbourWriteApplied c id) s fun s' => s'.mem = s.mem ∧ (∀ e ∈ (coreOf s' c).hwb, e.id ≠ id)
      ∧ (h.add = none → h.reduce = none → ∀ b b' o v, blockAt s h.block = some b → blockAt s' h.block = some b' → h.bytes = [(o, v)] →
          memByte b'.scratch o = v ∧ ∀ a, a ≠ o → memByte b'.scratch a = memByte b.scratch a)))
  ∧ (∀ c s x ec b, (coreOf s c).griddle.segs.find? (fun g => !g.cleared) = some x → x.ec = some ec → blockAt s (coreOf s c).griddle.holder = some b →
    (s.now < ec + x.qcore → exec (.evSegmentCleared c) s = .next s)
    ∧ (ec + x.qcore ≤ s.now → (reportStrand s c (coreOf s c).griddle.holder).isSome ∨ (x.trap = none ∧ x.arm = false) →
      Happens (.evSegmentCleared c) s fun s' => s'.mem = s.mem ∧ ∀ y ∈ (coreOf s' c).griddle.segs, y.id = x.id → y.cleared = true ∧ y.snaps = []))
  ∧ (∀ c s, matrixMay s c = true → (coreOf s c).griddle.waiting = none → openSeg (coreOf s c).griddle = none → liveSegs (coreOf s c).griddle = 0 →
    Happens (.evImplicitMeet c) s fun s' => OnlyStream s s' c
      ∧ ∃ x, (coreOf s' c).griddle.segs = (coreOf s c).griddle.segs ++ [x] ∧ x.opened = s.now ∧ x.close = none ∧ x.id = s.nextId
        ∧ x.rewind = (coreOf s c).griddle.next ∧ (coreOf s' c).griddle.next = (coreOf s c).griddle.next)
  ∧ (∀ c s w x b, (coreOf s c).griddle.waiting = some w → openSeg (coreOf s c).griddle = some x → (coreOf s c).griddle.held = true →
    (coreOf s c).griddle.run = true → blockAt s (coreOf s c).griddle.holder = some b → meetReady s (coreOf s c).griddle w = true →
    Happens (.evMeetWaitSatisfied c) s fun s' => OnlyStream s s' c ∧ (coreOf s' c).griddle.waiting = none
      ∧ (coreOf s' c).griddle.next = ((coreOf s c).griddle.next + 1) % 2 ^ 26
      ∧ ∃ b', blockAt s' (coreOf s c).griddle.holder = some b' ∧ b'.scratch = b.scratch
        ∧ mgetD b'.cursors w.1 0 = mgetD b.cursors w.1 0 + BitVec.ofNat 64 w.2)

/-- R61, R62, R40, R141, R194, R195, R203, R206, R209, R307, R375 to R378: a sensor's report, its way to a core and the squash of what it
disowns, which restores a strand to the head of its oldest disowned region; the traps of a reserved word, of a fetch that fails and of regions that wait for one another; and the delivery of a trap to its
handler, with the registers it sets and the record at sp, or to a FAULT decision.
Where the spec leaves a point open it rests on the model's own choices: DEDUCED, log 95; DEDUCED, log 100. -/
def Obligations.SensorsAndTraps : Prop :=
(∀ (k : SensorKind) place second s, place < (match k with | .strike => Config.cores | _ => Config.hearths) →
    Happens (.evSensorEvent k place second) s fun s' => { s' with reports := s.reports, nextId := s.nextId } = s
      ∧ ∃ q, s'.reports = s.reports ++ [q] ∧ q.kind = k ∧ q.place = place ∧ q.second = second ∧ q.time = s.now ∧ q.arrived = none
        ∧ q.cores = match k with | .strike => [place] | _ => [4 * place, 4 * place + 1, 4 * place + 2, 4 * place + 3])
  ∧ (∀ id s q, s.reports.find? (fun r => r.id == id && r.arrived.isNone) = some q →
    Happens (.evSensorReportArrives id) s fun s' => NoStrand s s' ∧ (∀ x ∈ s'.reports, x.id = id → x.arrived = some s.now)
      ∧ ∃ e, s'.errLog = insertErr s.errLog e ∧ e.kind = 0x06 ∧ e.time = q.time)
  ∧ (∀ id c s q, s.reports.find? (fun r => r.id == id && r.arrived.isSome && r.cores.contains c) = some q →
    Happens (.evSensorSquash id c) s fun s' => s'.mem = s.mem ∧ (∀ x ∈ s'.reports, x.id = id → c ∉ x.cores)
      ∧ ∀ l t t' r, l < 64 → strandAt s c l = some t → strandAt s' c l = some t' → r ∈ t.regions → r.id < s.nextId → r.cleared = false →
          disowned q.time r.close r.ec = true → ∀ x ∈ t'.regions, x.id ≠ r.id)
  ∧ (∀ id c s q, s.reports.find? (fun r => r.id == id && r.arrived.isSome && r.cores.contains c) = some q →
    (∀ e ∈ residents s c, (∀ h ∈ e.2.traps, h.kind ≠ .matrix) ∧ ∀ x ∈ e.2.regions, x.id < s.nextId) →
    (∀ x ∈ (coreOf s c).griddle.segs, x.id < s.nextId) →
    Happens (.evSensorSquash id c) s fun s' => ∀ l t, l < 64 → strandAt s c l = some t →
      (∃ r ∈ t.regions, r.cleared = false ∧ disowned q.time r.close r.ec = true) →
      ∃ t' older r newer again, strandAt s' c l = some t' ∧ t.regions = older ++ r :: newer ∧ t'.regions = older ++ again ∧ again.length ≤ 1
        ∧ (∀ x ∈ older, x.cleared = true ∨ disowned q.time x.close x.ec = false)
        ∧ t'.sc = r.head ∧ (∀ n, r.laneHead = some n → t'.ln = n)
        ∧ ∀ x ∈ again, x.head = r.head ∧ x.explicit = false ∧ x.close = none ∧ s.nextId ≤ x.id)
  ∧ (∀ c l s t h, strandAt s c l = some t → nextTrap t = some h → deliveryWaits s c t h = false →
    (∀ scode e locs, handlerFor s c t h = some (scode, e, locs) → storeNeeds s c t 0 locs = none →
      Happens (.evTrapDelivery c l) s fun s' => BytesDepart s s' c t locs (trapBytes h.record)
        ∧ ∃ t' head, strandAt s' c l = some t' ∧ head = (if h.kind = .counter ∨ h.kind = .matrix then t.sc.spc else h.resume)
          ∧ t'.sc.spc = scode + e.hoff ∧ t'.sc.tdepth = true ∧ t'.sc.tln = sget t.sc 1 ∧ t'.sc.rdepth = t.sc.rdepth + 1
          ∧ t'.sc.entryd = t.sc.rdepth + 1 ∧ (∀ r, sget t'.sc r = if r = 1 then head else if r = 2 then sget t.sc 2 + 32 else sget t.sc r)
          ∧ t'.sc.exec = t.sc.exec ∧ t'.sc.path = t.sc.path ∧ t'.ln = t.ln ∧ t'.st = { queue := [], current := none }
          ∧ t'.stopped = false ∧ t'.traps = keptTraps t h)
    ∧ (∀ g x, handlerFor s c t h = none → gangAt s t.part t.gang = some (g, x) → x.state = .resident ∨ x.state = .saving →
      Happens (.evTrapDelivery c l) s fun s' => ∃ g' y, gangAt s' t.part t.gang = some (g', y) ∧ y.state = .saving ∧ y.hold = true
        ∧ y.fault = some (h.record, c)))
  ∧ (∀ c (code : BitVec 3) s l t, resourceVictim s c code.toNat = some (l, t) → strandAt s c l = some t → code.toNat ≤ 5 →
    (t.lwait ≠ .resource code.toNat → Happens (.evRegionResourceTrap c code) s fun s' => TakesScalarTrap s s' c l t 0x16 code.toNat)
    ∧ (∀ r, t.lwait = .resource code.toNat → t.st.current = some r →
      Happens (.evRegionResourceTrap c code) s fun s' => TakesLaneTrap s s' c l t r 0x16 code.toNat (BitVec.ofNat 64 (wordLanes s c t r)) 0))
  ∧ (∀ (cause : BitVec 8) s c l t, s.agent = .scalar c l → strandAt s c l = some t →
    Happens (.evReservedEncoding .scalar cause) s fun s' => TakesScalarTrap s s' c l t 0x02 cause.toNat)
  ∧ (∀ (cause : BitVec 8) s c l t r, s.agent = .lane c l → strandAt s c l = some t → t.st.current = some r →
    Happens (.evReservedEncoding .lane cause) s fun s' => TakesLaneTrap s s' c l t r 0x02 cause.toNat (BitVec.ofNat 64 (wordLanes s c t r)) 0)
  ∧ (∀ (cause : BitVec 8) s c x, s.agent = .matrix c → openSeg (coreOf s c).griddle = some x →
    Happens (.evReservedEncoding .matrix cause) s fun s' => StreamTraps s s' c x 0x02 cause.toNat 0 (coreOf s c).griddle.next)
  ∧ (∀ s c l t, s.agent = .scalar c l → strandAt s c l = some t → fetchScalar s c t t.sc.spc 4 = .error 0x01 →
    Happens (.evInstructionFetchFault .scalar) s fun s' => TakesScalarTrap s s' c l t 0x01 0)
  ∧ (∀ s c l t r, s.agent = .lane c l → strandAt s c l = some t → t.st.current = some r →
    fetchLane s c t (r.entry.clause.toNat + r.index) = .error 0x01 →
    Happens (.evInstructionFetchFault .lane) s fun s' => TakesLaneTrap s s' c l t r 0x01 0 r.entry.exec 0)
  ∧ (∀ s c x b, s.agent = .matrix c → openSeg (coreOf s c).griddle = some x → blockAt s (coreOf s c).griddle.holder = some b →
    fetchMatrix s c b (coreOf s c).griddle.next = .error 0x01 →
    Happens (.evInstructionFetchFault .matrix) s fun s' => StreamTraps s s' c x 0x01 0 0 (coreOf s c).griddle.next)

/-- R14, R16, R18, R54, R55, R114, R185 to R187, R210, R228 to R230, R234, R235, R239, R252, R253, R267: the start of a clause, the landing
of a load, the completion of an access, the end of a release, an atomic that performs, the end of a counter wait, the clock of a core,
the end of a sweep, and the fills of L1 and of windows.
Where the spec leaves a point open it rests on the model's own choices: DEDUCED, log 63; DEDUCED, log 66; DEDUCED, log 87; DEDUCED, log 116; DEDUCED, log 132. -/
def Obligations.StreamEvents : Prop :=
(∀ c l s t q rest h, strandAt s c l = some t → laneMay s c t = true → t.st.current = none → t.st.queue = q :: rest → HeaderIs s c t q h →
    (clauseWaits t q h = false → Happens (.evClauseStart c l) s fun s' => OnlyStrand s s' c l ∧ StrandOf s' c l fun t' =>
      t'.st.queue = rest ∧ (∃ r, t'.st.current = some r ∧ r.header = h ∧ r.index = 1 ∧ r.entry.clause = q.clause)
        ∧ { t' with st := t.st, lwait := t.lwait } = t)
    ∧ (clauseWaits t q h = true → Happens (.evClauseStart c l) s fun s' => OnlyStrand s s' c l ∧ StrandOf s' c l fun t' =>
      t'.lwait = .flags ∧ t'.st.current = none ∧ { t' with st := t.st, lwait := t.lwait } = t))
  ∧ (∀ c l s t q rest bs, strandAt s c l = some t → laneMay s c t = true → t.st.current = none → t.st.queue = q :: rest → q.header = none →
    laneOwned s c t q.clause.toNat = false → fetchLane s c t q.clause.toNat = .ok bs → readHeader (leNat bs) = none →
    Happens (.evClauseStart c l) s fun s' => LaneTrapHeld s' c l t 0x02 0x07)
  ∧ (∀ c l op s t o d, strandAt s c l = some t → t.ops.find? (fun x => x.id == op) = some o → o.scalar = false → o.landed = false →
    o.lines = [] → o.dests = [d] → d.pair = false → Happens (.evLaneWriteLands c l op) s fun s' => s'.mem = s.mem ∧ StrandOf s' c l fun t' =>
      (∀ k, mgetD t'.ln.vregs k 0 = if k = 64 * d.reg + d.lane then BitVec.ofNat 32 (destValue d o.got 32) else mgetD t.ln.vregs k 0)
        ∧ (∀ e ∈ t'.vpend, e.2 ≠ op) ∧ t'.sc = t.sc)
  ∧ (∀ c l op s t o, strandAt s c l = some t → t.ops.find? (fun x => x.id == op) = some o → opReady s o = true →
    (o.acquire = none → Happens (.evMemoryOperationCompletes c l op) s fun s' => s'.mem = s.mem ∧ StrandOf s' c l fun t' =>
      (∀ x ∈ t'.ops, x.id ≠ op) ∧ (∀ e ∈ t'.spend, e.2 ≠ op) ∧ (o.poll = true → t'.sc.demote = true) ∧ t'.ln = t.ln
      ∧ (∀ d, o.scalar = true → o.dests = [d] → ∀ r, sget t'.sc r = if r = d.reg ∧ d.reg ≠ 0 then BitVec.ofNat 64 (destValue d o.got 64) else sget t.sc r))
    ∧ (∀ k : BitVec 3, o.acquire = some k → 2 ≤ k.toNat → (coreOf s c).sweeping = false →
      Happens (.evMemoryOperationCompletes c l op) s fun s' => (coreOf s' c).gen = !(coreOf s c).gen ∧ (coreOf s' c).sweeping = true
        ∧ StrandOf s' c l fun t' => ∀ x ∈ t'.ops, x.id ≠ op))
  ∧ (∀ c l s t, strandAt s c l = some t → releaseDone s c l t = true →
    (t.sphase = .releasing → Happens (.evReleaseWaitEnds c l) s fun s' => s'.mem = s.mem ∧ StrandOf s' c l fun t' =>
      t'.sphase = .released ∧ t'.swait = .none ∧ t'.sc = t.sc)
    ∧ (t.sphase ≠ .releasing → t.lphase = .releasing → Happens (.evReleaseWaitEnds c l) s fun s' => s'.mem = s.mem ∧ StrandOf s' c l fun t' =>
      t'.lwait = .none ∧ t'.lphase = .releasing ∧ t'.sc = t.sc))
  ∧ (∀ c l s t i, strandAt s c l = some t → t.lphase ≠ .idle → nextLane s c l = some (.instr i) → (∃ f, i = .vatom f ∨ i = .vatomCas f) →
    ∃ u, exec i { s with agent := .lane c l } = .next u ∧ exec (.evAtomicPerform c l) s = .next { afterIssue (.lane c l) true { u with agent := .none } with agent := .none })
  ∧ (∀ c l s t i, strandAt s c l = some t → t.lphase = .idle → t.sphase = .closing → nextScalar s c l = some (.instr i) →
    ((∃ p v m, i = .iqloop p v m) ∨ (∃ d a, i = .glaunch d a) ∨ (∃ a, i = .sfree a) ∨ (∃ d g, i = .cut d g) ∨ i = .mrel ∨ (∃ a, i = .mrun a)
      ∨ (∃ a b, i = .claim a b) ∨ ∃ d a, i = .xcoll d a) →
    ∃ u, exec i { s with agent := .scalar c l } = .next u ∧ exec (.evAtomicPerform c l) s = .next { afterIssue (.scalar c l) false { u with agent := .none } with agent := .none })
  ∧ (∀ c l s, counterWaits s c l = true → (∃ w ∈ watchesOf s c l, w.woken = true) ∨ coreMeets s c l = true →
    Happens (.evCounterWake c l) s fun s' => s'.mem = s.mem ∧ watchesOf s' c l = [] ∧ StrandOf s' c l fun t' => t'.wake = true)
  ∧ (∀ c l s, counterWaits s c l = true → watchesOf s c l = [] → s.now % 1024 = 0 →
    Happens (.evCounterRepoll c l) s fun s' => s'.mem = s.mem ∧ StrandOf s' c l fun t' => t'.wake = true)
  ∧ (∀ c s, c < 768 → (coreOf s c).stopped = false → hearthStopped s (hearthOf c) = false →
    (coreReady s c = true ∨ (∃ e ∈ residents s c, e.2.collects = true) → exec (.evCoreClockStop c) s = .next s)
    ∧ (coreReady s c = false → (∀ e ∈ residents s c, e.2.collects = false) → Happens (.evCoreClockStop c) s fun s' => NoStrand s s' ∧ (∀ k, k ≠ c → coreOf s' k = coreOf s k)
      ∧ coreOf s' c = { coreOf s c with stopped := true, wakePend := 0, wakeBits := 0, woken := none, settling := false }))
  ∧ (∀ c s, (coreOf s c).stopped = true → hearthStopped s (hearthOf c) = false → (coreOf s c).woken.isSome →
    Happens (.evCoreWake c) s fun s' => NoStrand s s' ∧ (∀ k, k ≠ c → coreOf s' k = coreOf s k)
      ∧ coreOf s' c = { coreOf s c with
          stopped := false, wakeBits := (coreOf s c).wakePend, wakePend := 0, woken := none, settling := true, wakes := (coreOf s c).wakes + 1 })
  ∧ (∀ c s, (coreOf s c).sweeping = true → Happens (.evGenerationSweep c) s fun s' => s'.mem = s.mem ∧ (coreOf s' c).sweeping = false
      ∧ ∀ x ∈ (coreOf s' c).l1, x.valid = true → x.gen = (coreOf s' c).gen ∨ x.rop = true)
  ∧ (∀ c line s, (∃ f ∈ (coreOf s c).fills, f.line = line ∧ f.answer = none) → (c, line, false) ∉ s.stale →
    claimHeld s [128 * line] = false → hostDropped s (coreOwner s c) (128 * line) = false → Happens (.evFillRequest c line) s fun s' => s'.mem = s.mem
      ∧ (∀ f ∈ (coreOf s' c).fills, f.line = line → f.answer ≠ none)
      ∧ (∀ f ∈ (coreOf s' c).fills, f ∈ (coreOf s c).fills ∨ f.answer = some (lineBytes s line, deviceHalves s line, if f.byp then 0 else leaseEnd s line)))
  ∧ (∀ c line s f data halves lease, (coreOf s c).fills.filter (fun f => f.line == line && f.answer.isSome) = [f] →
    f.answer = some (data, halves, lease) → isleOf (128 * line) < 14 → (c, line, true) ∉ s.stale →
    (f.byp = false → lease ≤ s.now + 2 → Happens (.evL1FillLands c line) s fun s' => NoStrand s s' ∧ (coreOf s' c).l1 = (coreOf s c).l1
      ∧ ∀ g ∈ (coreOf s' c).fills, g ≠ f)
    ∧ (∀ k, f.byp = true ∨ s.now + 2 < lease → takeLine s c f data halves lease = some k → line ∉ s.poison →
      Happens (.evL1FillLands c line) s fun s' => s'.mem = s.mem ∧ (coreOf s' c).l1 = k.l1))
  ∧ (∀ block ch s b named pa, blockAt s block = some b → (chunkOf b ch).filling = some named → pa = redirect s named → (windowAt b ch).isSome →
    (∀ e ∈ s.staleWins, e.1 ≠ block ∨ e.2.1 ≠ ch) → isleOf pa < 14 → deviceHalves s (pa / 128) = 3 → claimHeld s [pa] = false →
    Happens (.evWindowFillLands block ch) s fun s' => s'.mem = s.mem ∧ ∃ b', blockAt s' block = some b' ∧ (chunkOf b' ch).filling = none
      ∧ (chunkOf b' ch).wvalid = 0xFFFFFFFF
      ∧ ∀ i, i < 128 → memByte b'.scratch (128 * ch + i) =
          (if (chunkOf b ch).wdirty.getLsbD (i / 4) then memByte b.scratch (128 * ch + i) else homeByte s (pa + i)))

/-- R201, R202, R211 to R216, R236, R251, R420, R423, R425: effects and messages at the homes: an effect is held, discarded for a squashed
tag, or performed once it is due; a home releases what is due, and memory takes its bytes; messages make records, and a freed record
returns its credit; heartbeats; completions; and the answers of a link partner.
Where the spec leaves a point open it rests on the model's own choices: DEDUCED, log 59; DEDUCED, log 60; DEDUCED, log 62; DEDUCED, log 96. -/
def Obligations.HomeEvents : Prop :=
(∀ id s e, s.effects.find? (fun x => x.id == id && x.stage == .flight) = some e → olderFlight s e = false →
    (oldInc s e.tag = true → Happens (.evHeldEffectArrives id) s fun s' => s'.mem = s.mem ∧ ∀ x ∈ s'.effects, x.id ≠ id)
    ∧ (oldInc s e.tag = false → frameHeld s (effectLocs e) = false → effectOwned s e = false → readsFirst s e = false → ∃ u,
      u = (if e.ownClose.isSome then s else modRecord s (recordHome e) e.region fun r => { r with arrived := r.arrived + 1 })
      ∧ (olderIngress u e s.nextId = true → Happens (.evHeldEffectArrives id) s fun s' => s'.mem = s.mem ∧ EffectStands s' id .ingress)
      ∧ (olderIngress u e s.nextId = false → tagSquashed u e = true → Happens (.evHeldEffectArrives id) s fun s' => s'.mem = s.mem
        ∧ ∀ x ∈ s'.effects, x.id ≠ id)
      ∧ (olderIngress u e s.nextId = false → tagSquashed u e = false → effectDue u e = false → freeEntry u e = none →
        Happens (.evHeldEffectArrives id) s fun s' => s'.mem = s.mem ∧ EffectStands s' id .ingress)
      ∧ (olderIngress u e s.nextId = false → tagSquashed u e = false → effectDue u e = false → (freeEntry u e).isSome →
        Happens (.evHeldEffectArrives id) s fun s' => s'.mem = s.mem ∧ EffectStands s' id .pending)
      ∧ (olderIngress u e s.nextId = false → tagSquashed u e = false → effectDue u e = true →
        Happens (.evHeldEffectArrives id) s fun s' => ∃ gw past, EffectStands s' id (.done gw past))))
  ∧ (∀ home s e, (s.effects.filter fun x => x.home == home && x.stage == .ingress && !olderIngress s x x.order
      && (tagSquashed s x || effectDue s x || (freeEntry s x).isSome) && !effectOwned s x && !frameHeld s (effectLocs x)) = [e] →
    (tagSquashed s e = true → Happens (.evPendingWriteAccepted home) s fun s' => s'.mem = s.mem ∧ ∀ x ∈ s'.effects, x.id ≠ e.id)
    ∧ (tagSquashed s e = false → effectDue s e = false → Happens (.evPendingWriteAccepted home) s fun s' => s'.mem = s.mem
      ∧ EffectStands s' e.id .pending))
  ∧ (∀ home core s m, nextMsg s home core = some m → oldInc s m.tag = false → recordFor s home m.region = none →
    (m.squash = false → Happens (.evClose home core) s fun s' => NoStrand s s' ∧ s'.msgs = s.msgs.erase m
      ∧ ∃ r, s'.records = s.records ++ [r] ∧ r.home = m.home ∧ r.region = m.region ∧ r.squashed = false ∧ r.close = some (m.ec, m.w) ∧ r.n = m.n)
    ∧ (m.squash = true → Happens (.evSquash home core) s fun s' => s'.mem = s.mem ∧ SameButWaits s s' ∧ s'.msgs = s.msgs.erase m
      ∧ (∃ r, s'.records = s.records ++ [r] ∧ r.home = m.home ∧ r.region = m.region ∧ r.squashed = true)
      ∧ ∀ e ∈ s'.effects, e ∈ s.effects ∧ ∀ x ∈ heldOf s home m.region, x.id ≠ e.id))
  ∧ (∀ home s e b, dueEffects s home = [e] → e.kind = .write b → (∀ x ∈ b, isleOf x.1 < 14) → e ∈ s.effects →
    Happens (.evHomeRelease home) s fun s' => SameButWaits s s'
      ∧ (∀ a, memByte s'.mem a = ((b.reverse.find? fun x => x.1 == a).map fun x => x.2).getD (memByte s.mem a))
      ∧ EffectStands s' e.id (.done (effectHorizon s e) (effectOverflows s e)))
  ∧ (∀ home s e a v, dueEffects s home = [e] → e.kind = .add a v → e ∈ s.effects → Happens (.evHomeRelease home) s fun s' => SameButWaits s s'
      ∧ memNat s'.mem a 8 = min (memNat s.mem a 8 + v.toNat) (2 ^ 64 - 1) ∧ ∀ x, x < a ∨ a + 8 ≤ x → memByte s'.mem x = memByte s.mem x)
  ∧ (∀ home core s r, s.records.find? (fun r => r.home == home && r.tag.core == core && recordOver s r) = some r →
      waitingMsg s home core = none → Happens (.evCreditReturned home core) s fun s' => NoStrand s s' ∧ s'.records = s.records.erase r
        ∧ mgetD s'.credits (16 * core + home) 0 = mgetD s.credits (16 * core + home) 0 - 1)
  ∧ (∀ die s, die < 8 → s.now % 8 = 0 → Happens (.evHeartbeat die) s fun s' => { s' with beats := s.beats } = s
      ∧ ∀ h, h < 13 → mget s'.beats (16 * die + h) = some s.now)
  ∧ (∀ home die s t, nextBeat s home die = some t →
      ((∀ b, mget s.oldBeats (16 * die + home) = some b → b < t) → Happens (.evHeartbeatReceived home die) s fun s' => { s' with heard := s.heard } = s
        ∧ ∃ x, mget s'.heard (16 * die + home) = some x ∧ t ≤ x)
      ∧ (∀ b, mget s.oldBeats (16 * die + home) = some b → t ≤ b → Happens (.evHeartbeatReceived home die) s fun s' => NoStrand s s'
        ∧ s'.heard = s.heard ∧ mget s'.lostBeats (16 * die + home) = some t))
  ∧ (∀ id s e gw past, s.effects.find? (fun x => x.id == id) = some e → e.stage = .done gw past → (∀ q ∈ s.links, q.strand = true ∨ q.id ≠ id) →
      oldInc s e.tag = false → e.copy = none → e.slice = none → Happens (.evGwctCompletion id) s fun s' => s'.mem = s.mem ∧ (∀ x ∈ s'.effects, x.id ≠ id)
        ∧ ∀ c l t, strandOf s id = some (c, l, t) → strandAt s c l = some t → past = false → StrandOf s' c l fun t' => t'.gwct = max t.gwct gw ∧ t'.effects = t.effects.erase id)
  ∧ (∀ id old s q, s.links.find? (fun q => q.id == id && q.result.isNone && !q.refused) = some q → q.strand = true →
      q.inc ≠ mgetD s.incs (dieOf q.core) 0 → Happens (.evPcieAtomicopCompletion id true old) s fun s' => NoStrand s s' ∧ ∀ x ∈ s'.links, x.id ≠ id)
  ∧ (∀ id old s q, s.links.find? (fun q => q.id == id && q.result.isNone && !q.refused) = some q →
      (q.strand = true → q.inc = mgetD s.incs (dieOf q.core) 0) →
      (Happens (.evPcieAtomicopCompletion id true old) s fun s' => NoStrand s s' ∧ (∃ e, s'.errLog = insertErr s.errLog e ∧ e.kind = 0x0F)
        ∧ (q.strand = true → ∀ x ∈ s'.links, x.id = id → x.refused = true) ∧ (q.strand = false → ∀ x ∈ s'.links, x.id ≠ id))
      ∧ (linkDone q old = true → q.strand = true → Happens (.evPcieAtomicopCompletion id false old) s fun s' => NoStrand s s'
        ∧ ∀ x ∈ s'.links, x.id = id → x.result = some old)
      ∧ (linkDone q old = false → Happens (.evPcieAtomicopCompletion id false old) s fun s' => NoStrand s s'
        ∧ ∀ x ∈ s'.links, x.id = id → x.expect = some old))

/-- R109, R178, R189, R225, R291, R332, R334, R337 to R342, R355 to R357, R360, R366 to R369: the hub: a gang is pre-empted, and saved with the
registers of its strands and the scratch and cursors of its blocks; a grid retires, and its status word and its completion add are performed; the events and the beginning of decisions, an overrun, and the
load of a policy; accounts; item queues; and the ends of strands and of griddles.
Where the spec leaves a point open it rests on the model's own choices: DEDUCED, log 21; DEDUCED, log 22; DEDUCED, log 37; DEDUCED, log 44; DEDUCED, log 67; DEDUCED, log 117; DESIGN CHOICE, log 123; DEDUCED, log 137; DESIGN CHOICE, log 138. -/
def Obligations.HubEvents : Prop :=
(∀ p g s launch x, gangAt s p g = some (launch, x) → x.state = .saving → maySave s g = true →
    Happens (.evContextSave p g) s fun s' => GangIs s' p g (fun y => y.state = .saved
        ∧ (∀ e ∈ s.strands, e.2.gang = g → ∃ t ∈ y.strands, SavedAs e.2 t)
        ∧ ∀ n b, blockAt s n = some b → b.gang = g → ∃ b', mget y.blocks n = some b' ∧ b'.scratch = b.scratch ∧ b'.cursors = b.cursors)
      ∧ (∀ e ∈ s'.strands, e.2.gang ≠ g) ∧ ∀ e ∈ s'.blocks, e.2.gang ≠ g)
  ∧ (∀ p g cause s launch x, gangAt s p g = some (launch, x) → x.state = .resident →
    (match cause with
      | PreemptCause.filler => x.filler = true ∧ (partAt s p).withdraw.isSome
      | .ownership => (partAt s p).awaiting.contains (0, hearthOf x.core) = true
      | .debugger => True) →
    Happens (.evPreemptionRequest p g cause) s fun s' => s'.mem = s.mem ∧ GangIs s' p g (fun y => y.state = .saving)
      ∧ (hearthStopped s (hearthOf x.core) = false →
        ∀ c l t, x.core ≤ c → c < x.core + x.count → l < 64 → strandAt s' c l = some t → t.gang = g → t.saving = true))
  ∧ (∀ p g s y, gridAt s p g = some y →
    (gridEnded s y = false → exec (.evGridRetire p g) s = .next s)
    ∧ (gridEnded s y = true → Happens (.evGridRetire p g) s fun s' => { s' with parts := s.parts } = s
      ∧ gridAt s' p g = some { y with code := some (if y.killed then 1 else 0), step := 1, pooled := false }
      ∧ (y.pooled = true → ∀ u ∈ (partAt s' p).arena, u.1 ≠ y.pool)))
  ∧ (∀ p g s y, gridAt s p g = some y → y.step = 1 → y.code.isSome → gridSettled s y = true →
    (y.record.saddr = 0 → Happens (.evCompletionStatusWrite p g) s fun s' => { s' with parts := s.parts } = s
      ∧ gridAt s' p g = some { y with step := 2 })
    ∧ (∀ pa, y.record.saddr ≠ 0 → hubAddr s p y.record.saddr = some pa → isleOf pa < 14 → hubWaits s p y.record.saddr.toNat 8 = false →
      frameHeld s [pa] = false → Happens (.evCompletionStatusWrite p g) s fun s' => s'.strands = s.strands ∧ memNat s'.mem pa 8 = statusWord y % 2 ^ 64
        ∧ (∀ a, a < pa ∨ pa + 8 ≤ a → memByte s'.mem a = memByte s.mem a) ∧ ∃ z, gridAt s' p g = some z ∧ z.step = 2))
  ∧ (∀ p g s y, gridAt s p g = some y → y.step = 2 →
    (s.now ≤ y.gwct → exec (.evCompletionCounterAdd p g) s = .next s)
    ∧ (y.gwct < s.now → y.record.ctr = 0 → Happens (.evCompletionCounterAdd p g) s fun s' => NoStrand s s' ∧ gridAt s' p g = none)
    ∧ (∀ pa, y.gwct < s.now → y.record.ctr ≠ 0 → hubAddr s p y.record.ctr = some pa → isleOf pa < 14 → hubWaits s p y.record.ctr.toNat 8 = false →
      frameHeld s [pa] = false → memNat s.mem pa 8 + y.record.amt.toNat < 2 ^ 64 → Happens (.evCompletionCounterAdd p g) s fun s' => s'.strands = s.strands
        ∧ memNat s'.mem pa 8 = memNat s.mem pa 8 + y.record.amt.toNat ∧ (∀ a, a < pa ∨ pa + 8 ≤ a → memByte s'.mem a = memByte s.mem a)
        ∧ gridAt s' p g = none))
  ∧ (∀ p h s t, mget (partAt s p).heldAt h = some t →
    (s.now < t + 10000 → exec (.evDispatchPeriodic p h) s = .next s)
    ∧ (t + 10000 ≤ s.now → hearthOffers s p h = true → Happens (.evDispatchPeriodic p h) s fun s' => { s' with parts := s.parts } = s
      ∧ mget (partAt s' p).heldAt h = none ∧ ∃ e ∈ (partAt s' p).events, e.kind = 0 ∧ e.hearth = h ∧ 2 ≤ e.sub))
  ∧ (∀ p g s launch x y, gangAt s p g = some (launch, x) → gridAt s p launch = some y →
    (quantumDue s p x = false → exec (.evPreemptQuantum p g) s = .next s)
    ∧ (quantumDue s p x = true → Happens (.evPreemptQuantum p g) s fun s' => { s' with parts := s.parts } = s
      ∧ ∃ e, (partAt s' p).events = (partAt s p).events ++ [e] ∧ e.kind = 1 ∧ e.sub = 0 ∧ e.gang = g ∧ e.since = s.now - x.placed))
  ∧ (∀ p s e, (partAt s p).interp = none → (partAt s p).events ≠ [] → beginWaits s p = false → nextEvent (partAt (accrueAll s p) p) = some e →
    ∃ ws, (ws = match (partAt s p).shadow with
        | some (w, t) => if t ≤ s.now then w else (partAt s p).policy
        | none => (partAt s p).policy)
      ∧ (ws ≠ [] → Happens (.evDecisionBegins p) s fun s' => s'.mem = s.mem ∧ (partAt s' p).policy = ws
        ∧ (partAt s' p).events = (partAt (accrueAll s p) p).events.erase e
        ∧ ∃ r, (partAt s' p).interp = some r ∧ r.event = e ∧ r.policy = ws ∧ r.regs = [] ∧ r.pc = 0 ∧ r.cycles = 0 ∧ r.began = s.now)
      ∧ (ws = [] → Happens (.evDecisionBegins p) s fun s' => ∃ w r, s' = fallback w p r ∧ r.event = e ∧ (partAt w p).interp = none
        ∧ (partAt w p).dpcnt = (partAt s p).dpcnt + 1 ∧ (partAt w p).events = (partAt (accrueAll s p) p).events.erase e))
  ∧ (∀ p s r, (partAt s p).interp = some r →
    (damperOver r = false ∨ s.now < r.began + r.cycles → exec (.evDamperOverrun p) s = .next s)
    ∧ (damperOver r = true → r.began + r.cycles ≤ s.now → decisionWaits s p r none = false → Happens (.evDamperOverrun p) s fun s' => ∃ w,
      partAt w p = { partAt s p with interp := none, dpcnt := (partAt s p).dpcnt + 1, dpovr := (partAt s p).dpovr + 1 }
      ∧ { w with parts := s.parts } = s ∧ s' = fallback w p r ∧ HeldAfter w s' p r.event))
  ∧ (∀ p h s, (vfOrOwner s h p = false → exec (.evLoad p h) s = .next s)
    ∧ (vfOrOwner s h p = true → Happens (.evLoad p h) s fun s' => { s' with parts := s.parts } = s ∧ partAt s' p =
      if (partAt s p).dpstate = 1 then partAt s p
      else { partAt s p with
        checking := some ((partAt s p).dpbase, (partAt s p).dplen.toNat, (partAt s p).dpswap), dpstate := 1, dpcause := 0, dpreason := 0, dpword := 0 }))
  ∧ (∀ p s base n swap, (partAt s p).checking = some (base, n, swap) →
    let total := (2 * n + 3) / 4 * 4 + 2820
    let u : State := { walkLease s p [base.toNat, base.toNat + total] with fresh := s.fresh + 1 }
    (0 < n → n ≤ 1024 → hubWaits s p base.toNat (if signPolicy (partAt s p) then total else 2 * n) = false) →
    Happens (.evDamperLoadCheckDone p) s fun s' => { s' with parts := s.parts, fresh := s.fresh } = s
      ∧ partAt s' p = match checkBlob u p base n with
        | .ok ws => { partAt u p with checking := none, shadow := some (ws, swap.toNat), dpstate := 2 }
        | .error (r, w) => { partAt u p with
            checking := none, dpstate := 3, dpcause := 0x0A, dpreason := BitVec.ofNat 8 r, dpword := BitVec.ofNat 16 w })
  ∧ (∀ p s g launch x, (partAt s p).withdraw.isSome → gangAt s p g = some (launch, x) →
    x.state = .resident → x.filler = true → Happens (.evFillerWithdrawal p) s fun s' => s'.mem = s.mem
      ∧ GangIs s' p g (fun y => y.state = .saving))
  ∧ (∀ p n s a, accountOf (partAt (accrue s p n) p) n = a → (accountOf (partAt s p) n).period ≠ 0 → (accountOf (partAt s p) n).refillAt ≤ s.now →
    Happens (.evAccountRefill p n) s fun s' => NoStrand s s' ∧ ∃ b, accountOf (partAt s' p) n = { a with
        balance := b, refillAt := a.refillAt + a.period.toNat }
      ∧ b.toInt = max a.balance.toInt (min (a.balance.toInt + a.refill.toInt) a.cap.toInt))
  ∧ (∀ p n s a, accountOf (partAt s p) n = a → Happens (.evAccountCharge p n) s fun s' => NoStrand s s'
      ∧ (accountOf (partAt s' p) n).upto = s.now
      ∧ (accountOf (partAt s' p) n).charged = a.charged + BitVec.ofNat 64 ((s.now - a.upto) * (accountCores s p n).length))
  ∧ (∀ c s p launch g, (coreOf s c).itemGrid = some (p, launch) → gridAt s p launch = some g →
    (128 ≤ (coreOf s c).items.length → exec (.evItemQueueRefill c) s = .next s)
    ∧ (∀ n, (coreOf s c).items.length < 128 → g.returned = [] → n = min 128 (g.record.iqcount - g.cursor) →
      Happens (.evItemQueueRefill c) s fun s' => s'.mem = s.mem ∧ gridAt s' p launch = some { g with cursor := g.cursor + n }
        ∧ (coreOf s' c).items = (coreOf s c).items ++ (List.range n).map fun i => g.record.iqfirst + BitVec.ofNat 32 (g.cursor + i)))
  ∧ (∀ c s p, (List.range 16).find? (fun p => holdsHearth (partAt s p) (hearthOf c)) = some p →
    (gangsOn s c ≠ [] → exec (.evSpsizeTakesEffect c) s = .next s)
    ∧ (gangsOn s c = [] → (∀ x ∈ (coreOf s c).l1, x.pin = []) → (coreOf s c).spsize ≠ (partAt s p).spsize →
      Happens (.evSpsizeTakesEffect c) s fun s' => { s' with cores := s.cores } = s
        ∧ coreOf s' c = { coreOf s c with spsize := (partAt s p).spsize, l1 := (coreOf s' c).l1 }
        ∧ ∀ x ∈ (coreOf s' c).l1, x ∈ (coreOf s c).l1))
  ∧ (∀ c l s t, strandAt s c l = some t →
    (mayFree t = false → exec (.evStrandSlotFreed c l) s = .next s)
    ∧ (mayFree t = true → (blockStrands s c t.block).length ≠ 1 ∨ heldBy s c t.block = false →
      (∃ e ∈ s.strands, e.2.gang = t.gang ∧ e.1 ≠ skey c l) ∨ areasInUse s t.gang = false → Happens (.evStrandSlotFreed c l) s fun s' => s'.mem = s.mem ∧ strandAt s' c l = none
        ∧ (∀ k, k ≠ skey c l → mget s'.strands k = mget s.strands k)
        ∧ ((∀ e ∈ s.strands, e.2.gang = t.gang → e.1 = skey c l) → (gangAt s t.part t.gang).isSome →
            GangIs s' t.part t.gang (fun y => y.state = .retired) ∧ ∀ e ∈ s'.blocks, e.2.gang ≠ t.gang)))
  ∧ (∀ c s l t, (coreOf s c).griddle.held = true → blockStrands s c (coreOf s c).griddle.holder = [(l, t)] → mayFree t = true →
    ((coreOf s c).griddle.run = true → Happens (.evBlockGriddleRelease c) s fun s' => NoStrand s s' ∧ (coreOf s' c).griddle.run = false
      ∧ (coreOf s' c).griddle.latch = none ∧ (coreOf s' c).griddle.waiting = none ∧ ∀ x ∈ (coreOf s' c).griddle.segs, x.close ≠ none)
    ∧ ((coreOf s c).griddle.run = false → (∀ x ∈ (coreOf s c).griddle.segs, x.cleared = true) →
      Happens (.evBlockGriddleRelease c) s fun s' => s'.mem = s.mem ∧ (coreOf s' c).griddle = Griddle.reset))

/-- R219, R269 to R271: the copy engine takes a copy, stages its next 4 KiB, sends the next whole chunk once the region has cleared, ends
the copy with its counter add or its status, and the token of a batch is written once all its copies have ended.
Where the spec leaves a point open it rests on the model's own choices: DEDUCED, log 29; DEDUCED, log 88; DEDUCED, log 92. -/
def Obligations.CopyEvents : Prop :=
(∀ id s y, copyAt s id = some y → hearthStopped s y.engine = false →
    (copyWaits y = false → exec (.evCopyStart id) s = .next s)
    ∧ (copyWaits y = true → ((s.copies.filter fun z => z.engine == y.engine && copyWaits z).head?.map fun z => z.id) = some id →
      (s.copies.filter fun z => z.engine == y.engine && z.active).length < 8 →
      Happens (.evCopyStart id) s fun s' => s'.mem = s.mem ∧ CopyIs s' id fun z => z.started = true ∧ z.active = true
        ∧ z.failAt = (if y.started = false ∧ copyOverlaps s y = true then some (0, 5) else y.failAt)))
  ∧ (∀ id s y n, copyAt s id = some y → n = min 4096 (y.rowb * y.rows - y.readN) → y.active = true → hearthStopped s y.engine = false →
    y.failAt = none → n ≠ 0 → stagedBytes s y.engine + n ≤ 262144 → hasTurn s (fun z => z.readTurn) (readReady s) y = true →
    engineHeld s ((nextSource s y).map fun e => e.2) = false →
    (∀ f : Nat → Nat, (∀ i, i < n → engineLoc s y (copySrc y (y.readN + i)) .read = .ok (f i)) → touchFault s ((List.range n).map f) = none →
      Happens (.evCopyDataStaged id) s fun s' => NoStrand s s' ∧ copyAt s' id = some { y with
        staged := y.staged ++ (List.range n).map fun i => (y.readN + i, releasedAt s (f i)), readN := y.readN + n, readTurn := s.nextId + 1 })
    ∧ (∀ j k, j < n → engineLoc s y (copySrc y (y.readN + j)) .read = .error k → k ≠ engineRecall →
      (∀ i, i < j → ∃ a, engineLoc s y (copySrc y (y.readN + i)) .read = .ok a) →
      Happens (.evCopyDataStaged id) s fun s' => NoStrand s s' ∧ copyAt s' id = some { y with failAt := some (y.readN / 4096, k) }))
  ∧ (∀ id s y lo n (f : Nat → Nat), copyAt s id = some y → lo = 4096 * y.chunks → n = min 4096 (y.rowb * y.rows - lo) → y.active = true →
    hearthStopped s y.engine = false → n ≠ 0 → lo + n ≤ y.readN → (∀ k st, y.failAt = some (k, st) → y.chunks < k) →
    (y.cleared = none → exec (.evCopyChunkWrite id) s = .next s)
    ∧ (y.cleared.isSome → hasTurn s (fun z => z.turn) (writeReady s) y = true → (∀ e ∈ y.staged, e.1 < lo + n → engineLoc s y (copyDst y e.1) .write = .ok (f e.1) ∧ isScratch (f e.1) = false) →
      Happens (.evCopyChunkWrite id) s fun s' => NoStrand s s'
        ∧ (CopyIs s' id fun z => z.chunks = y.chunks + 1 ∧ z.readN = y.readN ∧ z.staged = y.staged.filter fun e => lo + n ≤ e.1)
        ∧ ∃ new, s'.effects = s.effects ++ new
          ∧ (∀ e ∈ new, e.copy = some y.id ∧ e.stage = .flight ∧ e.ownClose = some (copyRelease y 2) ∧ e.home = homeOf s (128 * ((effectLines e).headD 0)))
          ∧ ∀ a v, (∃ e ∈ new, ∃ b, e.kind = .write b ∧ mget b a = some v)
            ↔ lastAt ((y.staged.filter fun e => e.1 < lo + n).map fun e => (f e.1, e.2)) a = some v))
  ∧ (∀ id s y, copyAt s id = some y → y.done = false → y.added = false → y.active = true → hearthStopped s y.engine = false → y.cleared.isSome →
    y.awaits = [] → y.gwct < s.now →
    (∀ k st, y.failAt = some (k, st) → (y.chunks ≠ k → exec (.evCopyCompletionAdd id) s = .next s)
      ∧ (y.chunks = k → Happens (.evCopyCompletionAdd id) s fun s' => NoStrand s s' ∧ s'.effects = s.effects
        ∧ CopyIs s' id fun z => z.done = true ∧ z.active = false ∧ z.status = st ∧ z.donek = k))
    ∧ (y.failAt = none → y.chunks = copyChunks y → y.ctr = 0 → Happens (.evCopyCompletionAdd id) s fun s' => NoStrand s s' ∧ s'.effects = s.effects
        ∧ CopyIs s' id fun z => z.done = true ∧ z.active = false ∧ z.status = 0 ∧ z.donek = y.chunks)
    ∧ (∀ a, y.failAt = none → y.chunks = copyChunks y → y.ctr ≠ 0 → engineLoc s y y.ctr .write = .ok a → isScratch a = false → isleOf a < 14 →
        Happens (.evCopyCompletionAdd id) s fun s' => NoStrand s s' ∧ (CopyIs s' id fun z => z.added = true ∧ z.done = false)
          ∧ ∃ e, s'.effects = s.effects ++ [e] ∧ e.kind = .add a y.amt ∧ e.copy = some y.id ∧ e.ownClose = some (copyRelease y 2))
    ∧ (∀ a, y.failAt = none → y.ctr ≠ 0 → engineLoc s y y.ctr .write = .ok a → isScratch a = true → scratchDue s y a = false →
        exec (.evCopyCompletionAdd id) s = .next s))
  ∧ (∀ c l num s t b, strandAt s c l = some t → t.batches.find? (fun b => b.number == num && b.sealed && b.token.isNone) = some b →
    (∀ k ∈ b.copies, ∀ z, copyAt s k = some z → z.done = true) → ∃ w : Word,
      ((∀ k ∈ b.copies, ∀ z, copyAt s k = some z → z.status = 0) → w = tokenWord num 0 0 0)
      ∧ (∀ i k z, b.copies[i]? = some k → copyAt s k = some z → z.status ≠ 0 →
          (∀ j q x, j < i → b.copies[j]? = some q → copyAt s q = some x → x.status = 0) → w = tokenWord num z.status i z.donek)
      ∧ Happens (.evBatchTokenWritten c l num) s fun s' => s'.mem = s.mem
          ∧ ((∀ r ∈ t.regions, r.id = b.region → r.cleared = true) → ∀ y ∈ s'.copies, y.id ∉ b.copies) ∧ StrandOf s' c l fun t' =>
          (∀ r, sget t'.sc r = if r = b.reg ∧ b.reg ≠ 0 then w else sget t.sc r) ∧ ∃ x ∈ t'.batches, x.number = num ∧ x.token = some w)

/-- R386 to R395, R402, R408: the semaphore of the package; a host port that goes down; posted writes, the grants that order them, their
pieces and their acknowledgement; a host's reads; and the line halves that a CXL host reads, owns and gives back.
Where the spec leaves a point open it rests on the model's own choices: DESIGN CHOICE, log 12; DEDUCED, log 53; DEDUCED, log 60; DEDUCED, log 80; DESIGN CHOICE, log 113. -/
def Obligations.HostEvents : Prop :=
(∀ h s, (portQuiet s h = false → exec (.evTake h) s = .next s)
    ∧ (portQuiet s h = true → s.owner = 0 → Happens (.evTake h) s fun s' => NoStrand s s' ∧ s'.owner = h.port + 1 ∧ s'.epoch = s.epoch + 1)
    ∧ (s.owner ≠ 0 → h.port ≠ 0 ∨ s.owner ≠ 2 ∨ s.takeAt ≠ some s.now → exec (.evTake h) s = .next s)
    ∧ (portQuiet s h = true → h.port = 0 → s.owner = 2 → s.takeAt = some s.now → exec (.evTake h) s = .next { s with owner := 1 }))
  ∧ (∀ h s, (portQuiet s h = false ∨ ownsSem s h = false → exec (.evGive h) s = .next s)
    ∧ (portQuiet s h = true → ownsSem s h = true → Happens (.evGive h) s fun s' => NoStrand s s' ∧ s'.owner = 0 ∧ s'.epoch = s.epoch + 1))
  ∧ (∀ port s, port < 2 → Happens (.evHostLinkDown port) s fun s' => NoStrand s s' ∧ (portAt s' port).up = false
    ∧ (portAt s' port).pieces = (portAt s port).pieces ∧ s'.owner = (if s.owner = port + 1 then 0 else s.owner)
    ∧ ∃ e ∈ s'.errLog, e.kind = 0x0E ∧ e.time = s.now)
  ∧ (∀ h p (a : Word) bytes s, h.port < 2 → vfAnswers s h p = true → teeOk s h p = true → bytes ≠ [] →
    (hostAddrs s p a.toNat bytes.length .write = none → hubWaits s p a.toNat bytes.length = false →
      Happens (.evHostPostedWrite h p a bytes) s fun s' => NoStrand s s'
      ∧ portAt s' h.port = { portAt s h.port with nextSeq := (portAt s h.port).nextSeq + 1 })
    ∧ (∀ as, hostAddrs s p a.toNat bytes.length .write = some as → (∀ x ∈ as, isleOf x ≠ 14) →
      (∀ e ∈ splitLines as bytes, routeOf s e.1 < 12 → portEntries (portAt s h.port) (routeOf s e.1)
        + ((splitLines as bytes).filter fun f => routeOf s f.1 == routeOf s e.1).length ≤ 512
        ∧ sharedUsed s (routeOf s e.1) + ((splitLines as bytes).filter fun f => routeOf s f.1 == routeOf s e.1).length ≤ 2048) →
      Happens (.evHostPostedWrite h p a bytes) s fun s' => PortOnly (walkLease s p [a.toNat, a.toNat + bytes.length - 1]) s' h.port fun q => ∃ new,
        q = { portAt s h.port with nextSeq := (portAt s h.port).nextSeq + 1, pieces := (portAt s h.port).pieces ++ new }
        ∧ (∀ x ∈ new, x.seq = (portAt s h.port).nextSeq ∧ x.performed = false ∧ ∃ n, x.route = routeOf s n ∧ ∀ e ∈ x.bytes, e.1 / 128 = n)
        ∧ ∀ b v, (∃ x ∈ new, mget x.bytes b = some v) ↔ lastAt (as.zip bytes) b = some v))
  ∧ (∀ port route s, port < 2 → route < 13 → Happens (.evGrantMessage port route) s fun s' => PortOnly s s' port fun q => ∃ g,
      (g = max (grantFor (portAt s port) route) (mgetD (portAt s port).granted route 0))
      ∧ mgetD q.granted route 0 = g ∧ mgetD q.seen route 0 = g ∧ { q with granted := (portAt s port).granted, seen := (portAt s port).seen } = portAt s port
      ∧ ∀ r, r ≠ route → mgetD q.granted r 0 = mgetD (portAt s port).granted r 0 ∧ mgetD q.seen r 0 = mgetD (portAt s port).seen r 0)
  ∧ (∀ port route s x, port < 2 → nextPiece (portAt s port) route = some x → (∀ e ∈ x.bytes, isleOf e.1 < 14 ∧ e.1 / 64 ∉ s.owned) →
    frameHeld s (x.bytes.map fun e => e.1) = false → Happens (.evHostPiecePerformed port route) s fun s' => s'.strands = s.strands
      ∧ (∀ a, memByte s'.mem a = (lastAt x.bytes a).getD (memByte s.mem a))
      ∧ portAt s' port = { portAt s port with pieces := (portAt s port).pieces.map fun y => if y = x then { y with performed := true } else y })
  ∧ (∀ port route s, port < 2 → (∃ x ∈ (portAt s port).pieces, x.route = route
      ∧ ∀ y ∈ (portAt s port).pieces, y.route = route → y.seq = x.seq → y.performed = true) →
    Happens (.evAck port route) s fun s' => PortOnly s s' port fun q => ∃ x ∈ (portAt s port).pieces, x.route = route
      ∧ (∀ y ∈ (portAt s port).pieces, y.route = route → y.seq = x.seq → y.performed = true)
      ∧ q = { portAt s port with pieces := (portAt s port).pieces.filter fun y => !(y.route == route && y.seq == x.seq) })
  ∧ (∀ h p (a : Word) n s, portQuiet s h = true → vfAnswers s h p = true →
    (teeOk s h p = false → Happens (.evHostRead h p a n) s fun s' => PortOnly s s' h.port fun q =>
      q = { portAt s h.port with reply := some (List.replicate n 0xFF) })
    ∧ (teeOk s h p = true → hubWaits s p a.toNat n = false → hostAddrs s p a.toNat n .read = none → Happens (.evHostRead h p a n) s fun s' => NoStrand s s'
      ∧ portAt s' h.port = { portAt s h.port with reply := none } ∧ ∃ e, s'.errLog = insertErr s.errLog e ∧ e.kind = 0x0F)
    ∧ (∀ as, teeOk s h p = true → hubWaits s p a.toNat n = false → hostAddrs s p a.toNat n .read = some as → (∀ x ∈ as, isleOf x < 14) →
      Happens (.evHostRead h p a n) s fun s' => PortOnly (walkLease s p [a.toNat, a.toNat + n - 1]) s' h.port fun q => q = { portAt s h.port with reply := some (as.map (memByte s.mem)) }))
  ∧ (∀ port half s k, movedHalf s half = k →
    (exposes s port half = false ∨ k ∈ s.owned ∨ halfClaimed s k = true → exec (.evCxlRead port half) s = .next s)
    ∧ (exposes s port half = true → k ∉ s.owned → halfClaimed s k = false → Happens (.evCxlRead port half) s fun s' => PortOnly s s' (2 + port) fun q =>
      q = { portAt s (2 + port) with reply := some ((List.range 64).map fun i => memByte s.mem (64 * k + i)) }))
  ∧ (∀ port half s k, movedHalf s half = k →
    (exposes s port half = false ∨ k ∈ s.owned ∨ halfPending s k = true ∨ halfClaimed s k = true → exec (.evCxlReadForOwnership port half) s = .next s)
    ∧ (∀ p held, exposes s port half = true → k ∉ s.owned → halfPending s k = false → halfClaimed s k = false → bankOf s half = some p →
      held = (s.owned.filter fun h => bankOf s h == some p) →
      (held.length ≤ Config.snoopRoom p → Happens (.evCxlReadForOwnership port half) s fun s' => NoStrand s s' ∧ s'.owned = s.owned ++ [k]
        ∧ mget s'.ownedBy k = some port
        ∧ portAt s' (2 + port) = { portAt s (2 + port) with reply := some ((List.range 64).map fun i => memByte s.mem (64 * k + i)) })
      ∧ (Config.snoopRoom p < held.length → Happens (.evCxlReadForOwnership port half) s fun s' => { s' with recalled := s.recalled } = s
        ∧ ∀ x, held.head? = some x → x ∈ s'.recalled)))
  ∧ (∀ port half dirty s k, movedHalf s half = k →
    (exposes s port half = false ∨ k ∉ s.owned ∨ mget s.ownedBy k ≠ some port → exec (.evCxlWriteBack port half dirty) s = .next s)
    ∧ (exposes s port half = true → k ∈ s.owned → mget s.ownedBy k = some port → Happens (.evCxlWriteBack port half dirty) s fun s' =>
      SameButWaits s s' ∧ s'.owned = s.owned.erase k
      ∧ ∀ a, memByte s'.mem a = (lastAt ((dirty.filter fun e => e.1 < 64).map fun e => (64 * k + e.1, e.2)) a).getD (memByte s.mem a)))
  ∧ (∀ half dirty s, half ∈ s.owned → Happens (.evBackInvalidationResponse half dirty) s fun s' =>
      SameButWaits s s' ∧ s'.owned = s.owned.erase half
      ∧ ∀ a, memByte s'.mem a = (lastAt ((dirty.filter fun e => e.1 < 64).map fun e => (64 * half + e.1, e.2)) a).getD (memByte s.mem a))

/-- R396 to R401, R416: a walk and the end of a lease; the wait of an unmap; a migration, from its check over the switch to the end of its
drain; and the retirement of a frame.
Where the spec leaves a point open it rests on the model's own choices: DEDUCED, log 50; DEDUCED, log 51; DEDUCED, log 52; DESIGN CHOICE, log 113; DESIGN CHOICE, log 141; DEDUCED, log 142. -/
def Obligations.TranslationEvents : Prop :=
(∀ p c (a : Word) s, (∃ e ∈ s.blocks, e.2.core = c ∧ e.2.part = p) → canonical a = true → inAperture a = false →
    ((tlbHit s c p (a.toNat % 2 ^ 57)).isSome → exec (.evTranslationWalk p c a) s = .next s)
    ∧ (∀ k, walk s p (a.toNat % 2 ^ 57) = .error k → exec (.evTranslationWalk p c a) s = .next s)
    ∧ (∀ t, tlbHit s c p (a.toNat % 2 ^ 57) = none → walk s p (a.toNat % 2 ^ 57) = .ok t → Happens (.evTranslationWalk p c a) s fun s' =>
      NoStrand s s' ∧ (coreOf s' c).tlb = (coreOf s c).tlb ++ [t]
      ∧ partAt s' p = { partAt s p with horizon := max (partAt s p).horizon t.lease }))
  ∧ (∀ c s, Happens (.evTranslationLeaseExpires c) s fun s' => { s' with cores := s.cores } = s ∧ (∀ k, k ≠ c → coreOf s' k = coreOf s k)
      ∧ coreOf s' c = { coreOf s c with tlb := (coreOf s c).tlb.filter fun t => s.now < t.lease })
  ∧ (∀ p h s, FunctionWrite (.evTunmap p h) h p s fun s' => PartOnly s s' p { partAt s p with
      tdone := max (partAt s p).tdone (max s.now (partAt s p).horizon + 2) })
  ∧ (∀ p h s x, partAt s p = x → FunctionWrite (.evMgo p h) h p s fun s' => s'.mem = s.mem ∧ s'.strands = s.strands
      ∧ (x.mstate = 1 → s' = s)
      ∧ (x.mstate ≠ 1 → entryWaits s x.msrc.toNat = true → PartOnly s s' p { x with mstate := 1, mreason := 0, mcheck := true })
      ∧ (x.mstate ≠ 1 → entryWaits s x.msrc.toNat = false → moveReason s p x.msrc.toNat x.mdst.toNat ≠ 0 → PartOnly s s' p { x with
          mstate := 3, mreason := BitVec.ofNat 8 (moveReason s p x.msrc.toNat x.mdst.toNat), mcheck := false })
      ∧ (x.mstate ≠ 1 → entryWaits s x.msrc.toNat = false → moveReason s p x.msrc.toNat x.mdst.toNat = 0 →
          ∃ m, partAt s' p = { x with mstate := 1, mreason := 0, mcheck := false, move := some m }
          ∧ m.src = memNat s.mem x.msrc.toNat 8 % 2 ^ 52 / 65536 * 65536 ∧ m.dst = x.mdst.toNat ∧ m.entry = x.msrc.toNat
          ∧ m.old.toNat = memNat s.mem x.msrc.toNat 8 ∧ m.switch = none))
  ∧ (∀ p s m, p ≠ 16 → (partAt s p).move = some m → m.switch = none → (partAt s p).mcheck = false →
    (moveReady s m = false → exec (.evMigrationSwitch p) s = .next s)
    ∧ (moveReady s m = true → memNat s.mem m.entry 8 ≠ m.old.toNat → Happens (.evMigrationSwitch p) s fun s' =>
      s'.mem = s.mem ∧ SameButWaits s s' ∧ partAt s' p = { partAt s p with move := none, mstate := 3, mreason := 4 })
    ∧ (moveReady s m = true → memNat s.mem m.entry 8 = m.old.toNat → s.mem.wf = true → m.dst < 2 ^ 52 →
      Happens (.evMigrationSwitch p) s fun s' => ∃ e, e = movedLoc m m.entry
        ∧ memNat s'.mem e 8 = m.old.toNat % 65536 + m.dst / 65536 * 65536 + m.old.toNat / 2 ^ 52 * 2 ^ 52
        ∧ (∀ a, a < e ∨ e + 8 ≤ a → memByte s'.mem a = if a / 65536 = m.dst / 65536 then memByte s.mem (m.src / 65536 * 65536 + a % 65536) else memByte s.mem a)
        ∧ partAt s' p = { partAt s p with move := some { m with switch := some s.now, drain := drainOf s m (partAt s p).horizon } }))
  ∧ (∀ s m, s.retire.move = some m → m.switch = none → moveReady s m = true → Happens (.evMigrationSwitch 16) s fun s' =>
      { s' with retire := s.retire } = s ∧ ∃ d, s'.retire = { s.retire with move := some { m with switch := some s.now, drain := d } } ∧ s.now + 2 ≤ d)
  ∧ (∀ p s m t, (partAt s p).move = some m → m.switch = some t →
    (s.now ≤ m.drain → exec (.evMigrationDrainEnds p) s = .next s)
    ∧ (m.drain < s.now → (∀ k ∈ s.owned, k / 1024 ≠ m.dst / 65536) → Happens (.evMigrationDrainEnds p) s fun s' =>
      s'.mem = s.mem ∧ SameButWaits s s' ∧ partAt s' p = { partAt s p with move := none, mstate := 2 }))
  ∧ (∀ h s, OwnerOrZhevwell (.evRgo h) h s fun s' => NoStrand s s' ∧ (s.retire.state = 1 → s' = s)
      ∧ (s.retire.state ≠ 1 → retireReason s s.retire.frame.toNat ≠ 0 → s'.retire = { s.retire with
          state := 3, reason := BitVec.ofNat 8 (retireReason s s.retire.frame.toNat) } ∧ ∃ e, s'.errLog = insertErr s.errLog e ∧ e.kind = 0x0D)
      ∧ (s.retire.state ≠ 1 → retireReason s s.retire.frame.toNat = 0 → ∃ m, s'.retire = { s.retire with state := 1, reason := 0, move := some m }
          ∧ m.src = s.retire.frame.toNat ∧ m.switch = none))
  ∧ (∀ s m t, s.retire.move = some m → m.switch = some t → (s.now ≤ m.drain → exec .evRetirementConfirmed s = .next s)
    ∧ (m.drain < s.now → Happens .evRetirementConfirmed s fun s' => s'.mem = s.mem ∧ SameButWaits s s' ∧ s'.retire = { s.retire with state := 2, move := none }
      ∧ (∃ b, s'.flash = { s.flash with bad := s.flash.bad ++ [b] } ∧ b.isle = isleOf m.src ∧ b.frame.toNat = m.src / 65536 % 2 ^ 23
        ∧ ∀ older r newer, s.errLog = older ++ r :: newer → r.kind ≠ 0x0D → r.addr ≠ 0 → r.addr.toNat / 65536 = m.src / 65536 →
            (∀ x ∈ newer, x.kind = 0x0D ∨ x.addr = 0 ∨ x.addr.toNat / 65536 ≠ m.src / 65536) → b.why = r.kind)
      ∧ ∃ e, s'.errLog = insertErr s.errLog e ∧ e.kind = 0x0D ∧ e.addr.toNat = m.src % 2 ^ 64))

/-- R8, R197, R225, R319 to R328, R356, R364 to R366, R377, R379, R381 to R387, R403, R414, R427, R429 to R431, R436, R438: what a host's
write of a register does, through which port and in which state it does anything, and what follows it; a write of PSERVE moves a
frozen interface to ERROR, and one of DGRID halts or resumes.
Where the spec leaves a point open it rests on the model's own choices: DEDUCED, log 40; DEDUCED, log 41; DEDUCED, log 47; DEDUCED, log 48; DEDUCED, log 55; DEDUCED, log 56; DEDUCED, log 87; DEDUCED, log 118; DESIGN CHOICE, log 141. -/
def Obligations.RegisterEvents : Prop :=
(∀ p h s (on : Bool) i, i = (if on then .evHalt p h else .evDebugResume p h) → FunctionWrite i h p s fun s' => s'.mem = s.mem
      ∧ (partAt s' p).halt = on ∧ ∀ c l t, strandAt s c l = some t → ∃ t', strandAt s' c l = some t' ∧ t'.sc = t.sc ∧ t'.ln = t.ln
        ∧ t'.halted = if t.part = p ∧ t.grid = (partAt s p).dgrid.toNat then on else t.halted)
  ∧ (∀ p h s c l t b, strandAt s c l = some t → l < 64 → blockAt s t.block = some b →
    (∀ e ∈ s.strands, e.2.part = p → e.2.grid = (partAt s p).dgrid.toNat → e.2.number = (partAt s p).dstrand.toNat / 2 ^ 32 → e = (skey c l, t)
      ∨ ∃ x, blockAt s e.2.block = some x ∧ x.number ≠ (partAt s p).dstrand.toNat % 2 ^ 32) → (skey c l, t) ∈ s.strands →
    t.part = p → t.grid = (partAt s p).dgrid.toNat → t.halted = true → t.number = (partAt s p).dstrand.toNat / 2 ^ 32 →
    b.number = (partAt s p).dstrand.toNat % 2 ^ 32 → (partAt s p).lstep = false ∨ t.st.current.isSome →
    FunctionWrite (.evStep p h) h p s fun s' => s'.mem = s.mem ∧ StrandOf s' c l fun t' =>
      t'.stepping = (if (partAt s p).lstep then 2 else 1) ∧ t'.sc = t.sc ∧ t'.ln = t.ln ∧ t'.halted = true)
  ∧ (∀ p h q v s k, q < 64 → queueOf (partAt s p) q = k → FunctionWrite (.evQpush p h q v) h p s fun s' => NoStrand s s'
      ∧ (k.todo ≠ [] ∨ recordWaits s p q (v, h.port) = true → { s' with parts := s.parts } = s
        ∧ ∀ j, queueOf (partAt s' p) j = if j = q then { k with todo := k.todo ++ [(v, h.port)] } else queueOf (partAt s p) j)
      ∧ (k.todo = [] → recordWaits s p q (v, h.port) = false → (pushStatus s p q v).1 ≠ 0 →
        ∀ j, queueOf (partAt s' p) j = if j = q then { k with lastst := BitVec.ofNat 8 (pushStatus s p q v).1 } else queueOf (partAt s p) j)
      ∧ (k.todo = [] → recordWaits s p q (v, h.port) = false → (pushStatus s p q v).1 = 0 →
        ∃ e, (queueOf (partAt s' p) (parseRecord (pushStatus s p q v).2).queue).records
          = (queueOf (partAt s p) (parseRecord (pushStatus s p q v).2).queue).records ++ [e] ∧ e.arrived = s.now ∧ e.source = h.port))
  ∧ (∀ p h v s g, gridAt s p v.toNat = some g → FunctionWrite (.evParkres p h v) h p s fun s' => NoStrand s s'
      ∧ (g.parked = false → s' = s) ∧ (g.parked = true → gridAt s' p v.toNat = some { g with
          parked := false, gangs := g.gangs.map fun x => { x with hold := false, retries := 0 } }))
  ∧ (∀ p h n v s, n < 4096 → (vfOrOwner s h p = false → exec (.evPeriodWrite p h n v) s = .next s)
    ∧ (vfOrOwner s h p = true → Happens (.evPeriodWrite p h n v) s fun s' => NoStrand s s'
      ∧ (accountOf (partAt s' p) n).period = v ∧ (accountOf (partAt s' p) n).refillAt = s.now + v.toNat
      ∧ (accountOf (partAt s' p) n).refill = (accountOf (partAt s p) n).refill ∧ (accountOf (partAt s' p) n).cap = (accountOf (partAt s p) n).cap))
  ∧ (∀ p h v s, FunctionWrite (.evSpcfgWrite p h v) h p s fun s' =>
      (min (spLimit (partAt s p)) 16 < v.toNat % 32 → s' = s)
      ∧ (v.toNat % 32 ≤ min (spLimit (partAt s p)) 16 → PartOnly s s' p { partAt s p with spsize := v.toNat % 32 }))
  ∧ (∀ h p s x, p < 16 → partAt s p = x → OwnerEffect (.evCommit h p) h s fun s' => NoStrand s s'
      ∧ (x.busy = true → s' = s)
      ∧ (x.busy = false → recNat x.staged = recNat x.record → PartOnly s s' p { x with refused := false, reason := 0, staged := x.record })
      ∧ (x.busy = false → recNat x.staged ≠ recNat x.record → commitReason s p = 0 → (partAt s' p).record = x.staged ∧ (partAt s' p).refused = false
          ∧ (partAt s' p).reason = 0)
      ∧ (x.busy = false → recNat x.staged ≠ recNat x.record → commitReason s p ≠ 0 → (partAt s' p).record = x.record ∧ (partAt s' p).refused = true
          ∧ (partAt s' p).reason = BitVec.ofNat 8 (commitReason s p) ∧ (partAt s' p).staged = x.record))
  ∧ (∀ p s r, r ∈ (partAt s p).awaiting → (recValid (partAt s p) = true → r ∉ handed (resourceBits (partAt s p).record)) → mayHandOver s p r = true →
    Happens (.evResourceHandover p) s fun s' => s'.mem = s.mem ∧ r ∉ (partAt s' p).awaiting)
  ∧ (∀ h d v s, d < 8 → OwnerEffect (.evQcfgWrite h d v) h s fun s' =>
      { s' with qcfg := s.qcfg, strands := s.strands, cores := s.cores, records := s.records, msgs := s.msgs, uncommitted := s.uncommitted } = s
      ∧ (mget s'.uncommitted d).isSome ∧ (∀ r ∈ s'.records, ∃ q ∈ s.records, { r with close := q.close } = q)
      ∧ (∀ k, (mget s'.strands k).map (fun t => { t with regions := [] }) = (mget s.strands k).map fun t => { t with regions := [] })
      ∧ (∀ c l t, l < 64 → strandAt s c l = some t → StrandOf s' c l fun t' => t'.regions.map (fun r => r.id) = t.regions.map (fun r => r.id)
        ∧ ∀ r ∈ t.regions, dieOf c ≠ d ∨ r.close ≠ some s.now → r ∈ t'.regions)
      ∧ (qcfgAt s' d).qcore.toNat = max (qcfgAt s d).qcore.toNat (v.toNat % 65536)
      ∧ (qcfgAt s' d).qdie.toNat = max (qcfgAt s d).qdie.toNat (v.toNat / 2 ^ 16 % 65536)
      ∧ (qcfgAt s' d).qpkg.toNat = max (qcfgAt s d).qpkg.toNat (v.toNat / 2 ^ 32 % 65536)
      ∧ (qcfgAt s' d).replayTh.toNat = v.toNat / 2 ^ 48)
  ∧ (∀ d s, Happens (.evSignedFlashCommit (.qcfg d)) s fun s' => { s' with flash := s.flash, uncommitted := s.uncommitted } = s
      ∧ mget s'.flash.qcfg d = some (qcfgAt s d) ∧ s'.flash.pwrctl = s.flash.pwrctl ∧ s'.uncommitted = s.uncommitted.filter fun e => e.1 != d)
  ∧ (∀ s, Happens (.evSignedFlashCommit .pwrctl) s fun s' => s' = { s with
      flash := { s.flash with pwrctl := s.pwrctl }, uncommitted := s.uncommitted.filter fun e => e.1 != 8 })
  ∧ (∀ h k v s x, k < 192 → hearthAt s k = x → OwnerOrZhevwell (.evStepRegisterWrite h k v) h s fun s' =>
      (12 ≤ v.toNat % 16 ∨ (x.pend = false ∧ x.step.toNat = v.toNat % 16) → s' = s)
      ∧ (v.toNat % 16 < 12 → x.pend = true ∨ x.step.toNat ≠ v.toNat % 16 → { s' with hearths := s.hearths } = s
        ∧ (∀ j, j ≠ k → hearthAt s' j = hearthAt s j) ∧ hearthAt s' k = { x with
          target := BitVec.ofNat 4 (v.toNat % 16), since := (if x.pend then x.since else s.now), pend := true }))
  ∧ (∀ k s, ((hearthAt s k).pend = false → exec (.evStepChangeDone k) s = .next s)
    ∧ (∀ e ∈ s.parts, ∀ y ∈ e.2.grids, ∀ x ∈ y.gangs, (hearthAt s k).pend = true → x.state = .saving → hearthOf x.core = k →
      (∀ q ∈ s.strands, q.2.gang = x.id → q.2.saving = false) → Happens (.evStepChangeDone k) s fun s' => s'.mem = s.mem
        ∧ ∀ c l t, x.core ≤ c → c < x.core + x.count → l < 64 → strandAt s' c l = some t → t.gang = x.id → t.saving = true)
    ∧ ((hearthAt s k).pend = true → (∀ e ∈ s.parts, ∀ y ∈ e.2.grids, ∀ x ∈ y.gangs, x.state ≠ .saving ∨ hearthOf x.core ≠ k) →
      Happens (.evStepChangeDone k) s fun s' => { s' with hearths := s.hearths, cores := s.cores } = s
      ∧ (∀ c, coreOf s' c = { coreOf s c with woken := (coreOf s' c).woken } ∧ (hearthOf c ≠ k → coreOf s' c = coreOf s c)
        ∧ (hearthOf c = k → (coreOf s' c).woken = (coreOf s c).woken.map fun t => if (hearthAt s k).since ≤ t then s.now else t))
      ∧ hearthAt s' k = { hearthAt s k with step := (hearthAt s k).target, pend := false, stops := (hearthAt s k).stops + 1 }))
  ∧ (∀ h v s, OwnerOnly (.evPwrctlWrite h v) h s fun s' => { s' with pwrctl := s.pwrctl, uncommitted := s.uncommitted } = s
      ∧ (mget s'.uncommitted 8).isSome ∧ s'.pwrctl.ramp.toNat = (if 1 ≤ v.toNat % 512 ∧ v.toNat % 512 ≤ 500 then v.toNat % 512 else s.pwrctl.ramp.toNat)
      ∧ s'.pwrctl.floor.toNat = (if v.toNat / 2 ^ 16 % 4096 ≤ 3000 then v.toNat / 2 ^ 16 % 4096 else s.pwrctl.floor.toNat)
      ∧ s'.pwrctl.cap.toNat = (if 1 ≤ v.toNat / 2 ^ 32 % 4096 ∧ v.toNat / 2 ^ 32 % 4096 ≤ 3000 then v.toNat / 2 ^ 32 % 4096 else s.pwrctl.cap.toNat))
  ∧ (∀ h s, OwnerOnly (.evErrnext h) h s fun s' => s' = { s with ring := s.ring.drop 1 })
  ∧ (∀ h s, (portQuiet s h = false → exec (.evTstatRead h) s = .next s)
    ∧ (portQuiet s h = true → exec (.evTstatRead h) s = .next { s with ptp := { s.ptp with offjump := false } }))
  ∧ (∀ h s, OwnerEffect (.evFwgo h) h s fun s' =>
      s' = if s.fw.state = 1 then s else { s with fw := { s.fw with state := 1, reason := 0 } })
  ∧ (∀ h s, OwnerEffect (.evAct h) h s fun s' => (s.fw.state ≠ 2 → s' = s)
      ∧ (s.fw.state = 2 → (∃ p, p < 16 ∧ frozen s p = true) → s' = { s with fw := { s.fw with heldAct := true } })
      ∧ (s.fw.state = 2 → (∀ p, p < 16 → frozen s p = false) → s' = { s with fw := { s.fw with armed := true } }))
  ∧ (∀ h r v s p f, functionRegister r v = some (p, f) → FunctionWrite (.evRegisterWrite h r v) h p s fun s' => PartOnly s s' p (f (partAt s p)))
  ∧ (∀ h r v s p f, damperRegister r v = some (p, f) → (vfOrOwner s h p = false → exec (.evRegisterWrite h r v) s = .next s)
    ∧ (vfOrOwner s h p = true → Happens (.evRegisterWrite h r v) s fun s' => PartOnly s s' p (f (partAt s p))))
  ∧ (∀ h r v s f, packageRegister r v = some f → OwnerEffect (.evRegisterWrite h r v) h s fun s' => s' = f s)
  ∧ (∀ h v s, OwnerOrZhevwell (.evRegisterWrite h .rframe v) h s fun s' =>
      s' = { s with retire := { s.retire with frame := BitVec.ofNat 64 (v.toNat % 2 ^ 52 / 65536 * 65536) } })
  ∧ (∀ h n v s, n < 2 → OwnerEffect (.evRegisterWrite h (.pserve n) v) h s fun s' => NoStrand s s' ∧ ∀ p, p < 16 →
      let changes := (portAt s n).pserve.getLsbD p ≠ v.getLsbD p
      ((portAt s' n).pserve.getLsbD p = if frozen s p = true then (portAt s n).pserve.getLsbD p else v.getLsbD p)
      ∧ (frozen s p = true → changes → (partAt s' p).tdisp.state = .error)
      ∧ (frozen s p = false ∨ ¬ changes → (partAt s' p).tdisp = (partAt s p).tdisp))
  ∧ (∀ h p v s, FunctionWrite (.evRegisterWrite h (.dgrid p) v) h p s fun s' => s'.mem = s.mem ∧ (partAt s' p).dgrid = v
      ∧ (partAt s' p).halt = (partAt s p).halt ∧ ∀ c l t, strandAt s c l = some t → ∃ t', strandAt s' c l = some t' ∧ t'.sc = t.sc ∧ t'.ln = t.ln
        ∧ t'.halted = if t.part = p ∧ (partAt s p).halt = true then
            (if t.grid = v.toNat then true else if t.grid = (partAt s p).dgrid.toNat then false else t.halted) else t.halted)
  ∧ (∀ h p n v s, n < 4096 → vfOrOwner s h p = true →
    Happens (.evRegisterWrite h (.balance p n) v) s (fun s' => NoStrand s s' ∧ (accountOf (partAt s' p) n).balance = v)
    ∧ Happens (.evRegisterWrite h (.refill p n) v) s (fun s' => NoStrand s s' ∧ (accountOf (partAt s' p) n).refill = v)
    ∧ Happens (.evRegisterWrite h (.cap p n) v) s (fun s' => NoStrand s s' ∧ (accountOf (partAt s' p) n).cap = v)
    ∧ Happens (.evRegisterWrite h (.rateValid p n) v) s (fun s' => NoStrand s s' ∧ (accountOf (partAt s' p) n).rate.toNat = v.toNat % 65536
      ∧ (accountOf (partAt s' p) n).valid = (n != 0 && v.toNat.testBit 16)))

/-- R275, R276, R360, R407, R412, R418 to R422: a strait that fails, with the routes over it, retrains or is commanded to; and the collective engine: its chunks, its
completion add, a stall, a packet of an older attempt, and the token that aborts a group.
Where the spec leaves a point open it rests on the model's own choices: DEDUCED, log 69; DEDUCED, log 70; DESIGN CHOICE, log 127; DESIGN CHOICE, log 144. -/
def Obligations.LinkEvents : Prop :=
(∀ n left s, (58 ≤ n ∨ (straitAt s n).up = false ∨ (straitAt s n).lanes ≤ left → exec (.evStraitLaneFailure n left) s = .next s)
    ∧ (n < 58 → (straitAt s n).up = true → left < (straitAt s n).lanes → Happens (.evStraitLaneFailure n left) s fun s' => NoStrand s s'
      ∧ (left = 0 → straitAt s' n = { straitAt s n with up := false, width := 0, lanes := 0, retraining := none }
          ∧ (∃ e, s'.errLog = insertErr s.errLog e ∧ e.kind = 0x09)
          ∧ ∀ a b, (∀ e ∈ traffic s, e.1 < 23 ∧ e.2 < 23) → a < 23 → b < 23 → n ∈ routeStraits a b false → routeDead s' a b true = false → routeTaken s' a b = true)
      ∧ (left ≠ 0 → s'.errLog = s.errLog ∧ straitAt s' n = { straitAt s n with lanes := left, retraining := some s.now })))
  ∧ (∀ n s, ((straitAt s n).retraining = none → exec (.evStraitRetrainDone n) s = .next s)
    ∧ ((straitAt s n).retraining.isSome → Happens (.evStraitRetrainDone n) s fun s' => NoStrand s s'
      ∧ ((straitAt s n).lanes = 8 → s'.errLog = s.errLog ∧ straitAt s' n = { straitAt s n with
          up := true, width := 8, peer := Config.straitPeer n, cost := 2, retraining := none })
      ∧ ((straitAt s n).lanes ≠ 8 → straitAt s' n = { straitAt s n with
          up := true, width := 4, peer := Config.straitPeer n, cost := 4, retraining := none }
          ∧ ∃ e, s'.errLog = insertErr s.errLog e ∧ e.kind = 0x08)))
  ∧ (∀ h n s, n < 58 → OwnerOnly (.evStraitRetrain h n) h s fun s' => { s' with straits := s.straits } = s
      ∧ straitAt s' n = { straitAt s n with lanes := 8, retraining := some s.now } ∧ ∀ k, k ≠ n → straitAt s' k = straitAt s k)
  ∧ (∀ n g (a : W32) s, (18 ≤ n ∨ (groupAt s g).attempt.toNat ≤ a.toNat → exec (.evCollectivePacketArrives n g a) s = .next s)
    ∧ (n < 18 → a.toNat < (groupAt s g).attempt.toNat → Happens (.evCollectivePacketArrives n g a) s fun s' =>
      { s' with straits := s.straits, merged := s.merged } = s ∧ straitAt s' n = { straitAt s n with stale := (straitAt s n).stale + 1 }))
  ∧ (∀ k ranks s d rest, (mgetD s.channels k Channel.reset).descs = d :: rest →
    (d.aborted = true ∨ chunkWhole d (groupAt s d.group) ranks = false ∨ chunkWaits s d (groupAt s d.group) (chunkLength d ranks) = true → exec (.evCollectiveChunk k ranks) s = .next s)
    ∧ (∀ bs, d.aborted = false → chunkWhole d (groupAt s d.group) ranks = true → collChunk s d (groupAt s d.group) ranks (chunkLength d ranks) = some bs →
      (∀ e ∈ bs, isleOf e.1 < 14) → chunkWaits s d (groupAt s d.group) (chunkLength d ranks) = false → frameHeld s (bs.map fun e => e.1) = false →
      (∀ a ∈ chunkReads s d (groupAt s d.group) (chunkLength d ranks), hostDropped s d.part a = false) → Happens (.evCollectiveChunk k ranks) s fun s' => s'.strands = s.strands
        ∧ (∀ a, memByte s'.mem a = (lastAt bs a).getD (memByte s.mem a))
        ∧ (mgetD s'.channels k Channel.reset).moved = s.now ∧ (mgetD s'.channels k Channel.reset).stalled = false
        ∧ ∃ e more, (mgetD s'.channels k Channel.reset).descs = e :: more ∧ e.doneN = d.doneN + chunkLength d ranks ∧ s.now ≤ e.gwct))
  ∧ (∀ k s d rest, (mgetD s.channels k Channel.reset).descs = d :: rest →
    (d.aborted = true → Happens (.evCollectiveCompletionAdd k) s fun s' => NoStrand s s'
      ∧ (mgetD s'.channels k Channel.reset).descs.length = rest.length)
    ∧ (d.aborted = false → d.doneN < collTotal d (groupAt s d.group) ∨ s.now ≤ d.gwct → exec (.evCollectiveCompletionAdd k) s = .next s)
    ∧ (d.aborted = false → collTotal d (groupAt s d.group) ≤ d.doneN → d.gwct < s.now → d.ctr = 0 → Happens (.evCollectiveCompletionAdd k) s fun s' =>
      NoStrand s s' ∧ (mgetD s'.channels k Channel.reset).descs.length = rest.length)
    ∧ (∀ pa, d.aborted = false → collTotal d (groupAt s d.group) ≤ d.doneN → d.gwct < s.now → d.ctr ≠ 0 → hubAddr s d.part d.ctr = some pa →
      isleOf pa < 14 → hubWaits s d.part d.ctr.toNat 8 = false → triggersWait s d.part = false → frameHeld s [pa] = false → Happens (.evCollectiveCompletionAdd k) s fun s' => s'.strands = s.strands
        ∧ memNat s'.mem pa 8 = min (memNat s.mem pa 8 + d.amt.toNat) (2 ^ 64 - 1) ∧ (∀ a, a < pa ∨ pa + 8 ≤ a → memByte s'.mem a = memByte s.mem a)
        ∧ (mgetD s'.channels k Channel.reset).descs.length = rest.length))
  ∧ (∀ k s d rest ch, mgetD s.channels k Channel.reset = ch → ch.descs = d :: rest →
    (ch.stalled = true ∨ s.now < ch.moved + 2000 → exec (.evCollectiveStall k) s = .next s)
    ∧ (ch.stalled = false → ch.moved + 2000 ≤ s.now → Happens (.evCollectiveStall k) s fun s' => NoStrand s s'
      ∧ mgetD s'.channels k Channel.reset = { ch with stalled := true } ∧ ∃ e, s'.errLog = insertErr s.errLog e ∧ e.kind = 0x0B))
  ∧ (∀ p h s g, g = (partAt s p).gsel.toNat % 65536 → FunctionWrite (.evGabort p h) h p s fun s' => NoStrand s s'
      ∧ ((groupAt s g).owner ≠ p → s' = s)
      ∧ ((groupAt s g).owner = p → (groupAt s g).attempt.toNat + 1 < 2 ^ 32 → groupAt s' g = { groupAt s g with attempt := (groupAt s g).attempt + 1 }
          ∧ (∀ n, n < 18 → (groupAt s g).straits.getLsbD n = true → (straitAt s' n).tokens = (straitAt s n).tokens ++ [(g, (groupAt s g).attempt + 1)])
          ∧ (∃ e, s'.errLog = insertErr s.errLog e ∧ e.kind = 0x0C) ∧ ∀ k d, d ∈ (mgetD s'.channels k Channel.reset).descs → d.group = g →
            d.attempt.toNat ≤ (groupAt s g).attempt.toNat → d.aborted = true))
  ∧ (∀ g (a : W32) s, g < 65536 → Happens (.evAbortToken g a) s fun s' => NoStrand s s'
      ∧ (groupAt s' g).attempt.toNat = max (groupAt s g).attempt.toNat a.toNat ∧ (∃ e, s'.errLog = insertErr s.errLog e ∧ e.kind = 0x0C)
      ∧ ∀ k d, d ∈ (mgetD s'.channels k Channel.reset).descs → d.group = g → d.attempt.toNat < a.toNat → d.aborted = true)

/-- R4, R216, R221, R402 to R405, R423 to R428, R432, R434, R436, R437: resets of the module and of a die; the PTP clock, the limiter,
telemetry and replays; the verification of firmware; and the interfaces: their lock, start, stop, loss, report and error.
Where the spec leaves a point open it rests on the model's own choices: DESIGN CHOICE, log 8; DEDUCED, log 71; DEDUCED, log 72; DEDUCED, log 74; PRESUMED, log 75; DEDUCED, log 76; DEDUCED, log 77; DESIGN CHOICE, log 113; DEDUCED, log 146. -/
def Obligations.ModuleEvents : Prop :=
(∀ power s, Happens (.evModuleReset power) s fun s' => s'.now = 0 ∧ s'.mem = [] ∧ s'.strands = [] ∧ s'.blocks = [] ∧ s'.cores = [] ∧ s'.effects = []
      ∧ s'.owner = 0 ∧ s'.pwrctl = s.flash.pwrctl ∧ { s'.flash with inc := s.flash.inc } = s.flash
      ∧ (∀ d, d < 23 → mgetD s'.incs d 0 = mgetD s.flash.inc d 0 + 1 ∧ mgetD s'.flash.inc d 0 = mgetD s.flash.inc d 0 + 1)
      ∧ (∀ d, d < 8 → (qcfgAt s' d).qcore.toNat = max 32 (mgetD s.flash.qcfg d Qcfg.reset).qcore.toNat
        ∧ (qcfgAt s' d).qdie.toNat = max 64 (mgetD s.flash.qcfg d Qcfg.reset).qdie.toNat
        ∧ (qcfgAt s' d).qpkg.toNat = max 128 (mgetD s.flash.qcfg d Qcfg.reset).qpkg.toNat)
      ∧ s'.fw.fwver = (if s.fw.armed then s.fw.staged else s.fw.fwver) ∧ s'.fw.armed = false ∧ s'.fw.state = 0
      ∧ s'.fw.minver.toNat = (if s.fw.armed then max s.fw.minver.toNat s.fw.staged.toNat else s.fw.minver.toNat))
  ∧ (∀ h die s, OwnerOnly (.evComputeDieReset h die) h s fun s' =>
      (8 ≤ die ∨ dieOwned s die = true ∨ (∃ d ∈ s.drains, d.die = die) → s' = s)
      ∧ (die < 8 → dieOwned s die = false → (∀ d ∈ s.drains, d.die ≠ die) → s' = { s with drains := s.drains ++ [{ die := die, since := s.now }] }))
  ∧ (∀ die s, ((∀ d ∈ s.drains, d.die ≠ die) → exec (.evDieResetDrainEnds die) s = .next s)
    ∧ (dieOwned s die = true → Happens (.evDieResetDrainEnds die) s fun s' => s' = { s with drains := s.drains.filter fun d => d.die != die })
    ∧ (dieOwned s die = false → (∃ d ∈ s.drains, d.die = die ∧ (dieDrained s die = true ∨ d.since + 100000 ≤ s.now)) →
      Happens (.evDieResetDrainEnds die) s fun s' => s'.mem = s.mem
        ∧ s'.strands = s.strands.filter (fun e => dieOf (e.1 / 64) != die) ∧ s'.blocks = s.blocks.filter (fun e => dieOf e.2.core != die)
        ∧ s'.copies = s.copies.filter (fun y => dieOf y.core != die)
        ∧ (qcfgAt s' die).qcore.toNat = max 32 (mgetD s.flash.qcfg die Qcfg.reset).qcore.toNat
        ∧ (qcfgAt s' die).qdie.toNat = max 64 (mgetD s.flash.qcfg die Qcfg.reset).qdie.toNat
        ∧ (qcfgAt s' die).qpkg.toNat = max 128 (mgetD s.flash.qcfg die Qcfg.reset).qpkg.toNat ∧ mgetD s'.incs die 0 = mgetD s.incs die 0 + 1 ∧ (∀ d ∈ s'.drains, d.die ≠ die)
        ∧ (∀ e ∈ s'.effects, e ∈ s.effects ∧ (dieOf e.tag.core = die → e.stage ≠ .pending ∧ e.stage ≠ .ingress))
        ∧ (∀ r ∈ s'.records, dieOf r.tag.core ≠ die) ∧ (∀ c, dieOf c = die → coreOf s' c = Core.reset)
        ∧ ∃ e, s'.errLog = insertErr s.errLog e ∧ e.kind = 0x11))
  ∧ (∀ (ptp : Word) s, (s.ptp.locked = true → exec (.evPtpLock ptp) s = .next s)
    ∧ (s.ptp.locked = false → Happens (.evPtpLock ptp) s fun s' => { s' with ptp := s.ptp } = s ∧ s'.ptp.locked = true ∧ s'.ptp.seen = true
      ∧ s'.ptp.offset = (if s.ptp.seen then s.ptp.offset else ptp - BitVec.ofNat 64 s.now)))
  ∧ (∀ s, Happens .evPtpLockLost s fun s' => { s' with ptp := s.ptp } = s ∧ s'.ptp.locked = false ∧ s'.ptp.offset = s.ptp.offset)
  ∧ (∀ (ptp : Word) s, (s.ptp.locked = false ∨ s.ptp.err.toInt.natAbs ≤ 1000000 ∨ s.now ≠ s.telNext → exec (.evPtpoffReplaced ptp) s = .next s)
    ∧ (s.ptp.locked = true → 1000000 < s.ptp.err.toInt.natAbs → s.now = s.telNext → Happens (.evPtpoffReplaced ptp) s fun s' =>
      { s' with ptp := s.ptp } = s ∧ s'.ptp.offset = ptp - BitVec.ofNat 64 s.now
        ∧ s'.ptp.offjump = (s.ptp.offjump || s.ptp.offset != ptp - BitVec.ofNat 64 s.now)))
  ∧ (∀ e s, exec (.evPtpOffsetMeasurement e) s = .next { s with ptp := { s.ptp with err := e } })
  ∧ (∀ power s, (s.now % 1000 ≠ 0 → exec (.evRampInterval power) s = .next s)
    ∧ (∀ old, s.now % 1000 = 0 → s.ramp.level = some old → s.ramp.last ≠ s.now → s.now < s.telNext + Config.telemetryPeriod →
      Happens (.evRampInterval power) s fun s' => NoStrand s s' ∧ s'.ramp.demand = power ∧ s'.ramp.last = s.now
        ∧ s'.ramp.level = some (min (1000 * s.pwrctl.cap.toNat) (max (old - s.pwrctl.ramp.toNat) (min power (old + s.pwrctl.ramp.toNat))))))
  ∧ (∀ m s, (s.telWait = [] → exec (.evTelemetryRecord m) s = .next s)
    ∧ (∀ t rest, s.telWait = t :: rest → Happens (.evTelemetryRecord m) s fun s' => s'.telWait = rest ∧ s'.telSeq = s.telSeq + 1
      ∧ { s' with telWait := s.telWait, telSeq := s.telSeq, telemetry := s.telemetry } = s
      ∧ s'.telemetry = (s.telemetry ++ [{ t with seq := s.telSeq, m := m }]).drop (s.telemetry.length - 63)))
  ∧ (∀ h s, h < 192 → Happens (.evTimingReplay h) s fun s' => NoStrand s s' ∧ (hearthAt s' h).replays = (hearthAt s h).replays + 1
      ∧ (∀ limit, limit = (qcfgAt s (h / 24)).replayTh.toNat →
        (limit = 0 ∨ (hearthAt s h).raised = true ∨ (hearthAt s h).replays < limit → s'.errLog = s.errLog)
        ∧ (limit ≠ 0 → (hearthAt s h).raised = false → limit ≤ (hearthAt s h).replays → (hearthAt s' h).raised = true
            ∧ ∃ e, s'.errLog = insertErr s.errLog e ∧ e.kind = 0x07)))
  ∧ (∀ s, (s.fw.state ≠ 1 ∨ imageOwned s = true → exec .evFirmwareVerifyDone s = .next s)
    ∧ (s.fw.state = 1 → imageOwned s = false → Happens .evFirmwareVerifyDone s fun s' => { s' with fw := s.fw } = s
      ∧ (∀ image, image = physBytes s s.fw.fwaddr.toNat (s.fw.fwlen.toNat - 2820) → imageReason s = 0 →
          s'.fw = { s.fw with state := 2, staged := Config.imageVersion image, stagedMeasure := Config.imageMeasure image })
      ∧ (imageReason s ≠ 0 → s'.fw = { s.fw with state := 3, reason := BitVec.ofNat 8 (imageReason s) })))
  ∧ (∀ p h s d, (partAt s p).tdisp = d →
    (portQuiet s h = false ∨ vfAnswers s h p = false ∨ d.state ≠ .unlocked → exec (.evLockInterfaceRequest p h) s = .next s)
    ∧ (portQuiet s h = true → vfAnswers s h p = true → d.state = .unlocked → Happens (.evLockInterfaceRequest p h) s fun s' => NoStrand s s'
      ∧ ∃ n, (partAt s' p).tdisp = { d with state := .locked, port := h.port, nonce := n, tick := s.now, epoch := s.epoch }
        ∧ (portAt s' h.port).reply = some (nonceBytes n)
        ∧ s'.fw.log = if s.fw.armed then s.fw.log ++ [(s.now, s.fw.fwver, s.fw.staged)] else s.fw.log))
  ∧ (∀ p h (n : BitVec 256) s d, (partAt s p).tdisp = d →
    (portQuiet s h = false ∨ vfAnswers s h p = false ∨ d.state ≠ .locked ∨ d.nonce ≠ n → exec (.evStartInterfaceRequest p h n) s = .next s)
    ∧ (portQuiet s h = true → vfAnswers s h p = true → d.state = .locked → d.nonce = n → Happens (.evStartInterfaceRequest p h n) s fun s' =>
      PartOnly s s' p { partAt s p with tdisp := { d with state := .run } }))
  ∧ (∀ p h s, (portQuiet s h = false ∨ vfAnswers s h p = false ∨ (partAt s p).tdisp.state = .unlocked → exec (.evStopInterfaceRequest p h) s = .next s)
    ∧ (portQuiet s h = true → vfAnswers s h p = true → (partAt s p).tdisp.state ≠ .unlocked → Happens (.evStopInterfaceRequest p h) s fun s' =>
      (partAt s' p).tdisp = Tdisp.reset ∧ (∀ n g, gridAt s' p n = some g → g.killed = true ∨ g.code.isSome)
        ∧ ∀ c, ownsHearth (partAt s p) (hearthOf c) = true → (coreOf s' c).blocks = [] ∧ (coreOf s' c).l1 = [] ∧ (coreOf s' c).hwb = []
          ∧ (coreOf s' c).items = [] ∧ (coreOf s' c).griddle = Griddle.reset))
  ∧ (∀ p s, Happens (.evIdeStreamLoss p) s fun s' => NoStrand s s' ∧ (frozen s p = false → (partAt s' p).tdisp = (partAt s p).tdisp)
      ∧ (frozen s p = true → (partAt s' p).tdisp = { (partAt s p).tdisp with state := .error, since := s.now, acted := false }
        ∧ ∃ e, s'.errLog = insertErr s.errLog e ∧ e.kind = 0x10))
  ∧ (∀ p h s, (portQuiet s h = false ∨ vfAnswers s h p = false ∨ frozen s p = false → exec (.evGetDeviceInterfaceReport p h) s = .next s)
    ∧ (portQuiet s h = true → vfAnswers s h p = true → frozen s p = true → Happens (.evGetDeviceInterfaceReport p h) s fun s' =>
      { s' with fw := s.fw, ports := s.ports, flash := s.flash } = s ∧ (portAt s' h.port).reply = some (signedReport s p)
        ∧ (mget s'.flash.certs s'.fw.keyGen).isSome
        ∧ s'.flash.idIndex = (if (mget s.flash.certs s'.fw.keyGen).isSome then s.flash.idIndex else s.flash.idIndex + 1)
        ∧ s'.fw = (if s.fw.keyIndex < 2 ^ 20 then { s.fw with keyIndex := s.fw.keyIndex + 1 } else { s.fw with keyGen := s.fw.keyGen + 1, keyIndex := 1 })))
  ∧ (∀ p s, ((partAt s p).tdisp.state ≠ .error ∨ (partAt s p).tdisp.acted = true → exec (.evInterfaceError p) s = .next s)
    ∧ ((partAt s p).tdisp.state = .error → (partAt s p).tdisp.acted = false → Happens (.evInterfaceError p) s fun s' =>
      (partAt s' p).tdisp = { (partAt s p).tdisp with acted := true } ∧ ∀ n g, gridAt s' p n = some g → g.killed = true ∨ g.code.isSome))
end

