-- ==== Sys2Proof/Laws/Dispatch.lean ====
section
/-! SUPPORT. `exec` of each instruction is its meaning. -/

namespace Sys2Proof.Machine

open Sys2Proof

theorem exec_sadd d a b s : exec (.sadd d a b) s = execSadd d a b s := rfl
theorem exec_saddImm d a v s : exec (.saddImm d a v) s = execSaddImm d a v s := rfl
theorem exec_ssub d a b s : exec (.ssub d a b) s = execSsub d a b s := rfl
theorem exec_smul d a b s : exec (.smul d a b) s = execSmul d a b s := rfl
theorem exec_smulhI64 d a b s : exec (.smulhI64 d a b) s = execSmulhI64 d a b s := rfl
theorem exec_smulhN64 d a b s : exec (.smulhN64 d a b) s = execSmulhN64 d a b s := rfl
theorem exec_sdivI64 d a b s : exec (.sdivI64 d a b) s = execSdivI64 d a b s := rfl
theorem exec_sdivN64 d a b s : exec (.sdivN64 d a b) s = execSdivN64 d a b s := rfl
theorem exec_sremI64 d a b s : exec (.sremI64 d a b) s = execSremI64 d a b s := rfl
theorem exec_sremN64 d a b s : exec (.sremN64 d a b) s = execSremN64 d a b s := rfl
theorem exec_sand d a b s : exec (.sand d a b) s = execSand d a b s := rfl
theorem exec_sandImm d a v s : exec (.sandImm d a v) s = execSandImm d a v s := rfl
theorem exec_sor d a b s : exec (.sor d a b) s = execSor d a b s := rfl
theorem exec_sorImm d a v s : exec (.sorImm d a v) s = execSorImm d a v s := rfl
theorem exec_sxor d a b s : exec (.sxor d a b) s = execSxor d a b s := rfl
theorem exec_sxorImm d a v s : exec (.sxorImm d a v) s = execSxorImm d a v s := rfl
theorem exec_sandn d a b s : exec (.sandn d a b) s = execSandn d a b s := rfl
theorem exec_sshl d a b s : exec (.sshl d a b) s = execSshl d a b s := rfl
theorem exec_sshlImm d a n s : exec (.sshlImm d a n) s = execSshlImm d a n s := rfl
theorem exec_sshr d a b s : exec (.sshr d a b) s = execSshr d a b s := rfl
theorem exec_sshrImm d a n s : exec (.sshrImm d a n) s = execSshrImm d a n s := rfl
theorem exec_ssra d a b s : exec (.ssra d a b) s = execSsra d a b s := rfl
theorem exec_ssraImm d a n s : exec (.ssraImm d a n) s = execSsraImm d a n s := rfl
theorem exec_sminI64 d a b s : exec (.sminI64 d a b) s = execSminI64 d a b s := rfl
theorem exec_smaxI64 d a b s : exec (.smaxI64 d a b) s = execSmaxI64 d a b s := rfl
theorem exec_sminN64 d a b s : exec (.sminN64 d a b) s = execSminN64 d a b s := rfl
theorem exec_smaxN64 d a b s : exec (.smaxN64 d a b) s = execSmaxN64 d a b s := rfl
theorem exec_sclz d a s : exec (.sclz d a) s = execSclz d a s := rfl
theorem exec_spopc d a s : exec (.spopc d a) s = execSpopc d a s := rfl
theorem exec_smov d a s : exec (.smov d a) s = execSmov d a s := rfl
theorem exec_ssel d a b s : exec (.ssel d a b) s = execSsel d a b s := rfl
theorem exec_smovMailbox d m s : exec (.smovMailbox d m) s = execSmovMailbox d m s := rfl
theorem exec_scmp d a b c s : exec (.scmp d a b c) s = execScmp d a b c s := rfl
theorem exec_sli d v s : exec (.sli d v) s = execSli d v s := rfl
theorem exec_slui d v s : exec (.slui d v) s = execSlui d v s := rfl
theorem exec_sbEq a b o s : exec (.sbEq a b o) s = execSbEq a b o s := rfl
theorem exec_sbNe a b o s : exec (.sbNe a b o) s = execSbNe a b o s := rfl
theorem exec_sbLt a b o s : exec (.sbLt a b o) s = execSbLt a b o s := rfl
theorem exec_sbGe a b o s : exec (.sbGe a b o) s = execSbGe a b o s := rfl
theorem exec_sbLtn a b o s : exec (.sbLtn a b o) s = execSbLtn a b o s := rfl
theorem exec_sbGen a b o s : exec (.sbGen a b o) s = execSbGen a b o s := rfl
theorem exec_pqpush a o s : exec (.pqpush a o) s = execPqpush a o s := rfl
theorem exec_pqjoin o s : exec (.pqjoin o) s = execPqjoin o s := rfl
theorem exec_sj o s : exec (.sj o) s = execSj o s := rfl
theorem exec_scall o s : exec (.scall o) s = execScall o s := rfl
theorem exec_lrun c s : exec (.lrun c) s = execLrun c s := rfl
theorem exec_sjr a s : exec (.sjr a) s = execSjr a s := rfl
theorem exec_scallr a s : exec (.scallr a) s = execScallr a s := rfl
theorem exec_sret s : exec .sret s = execSret s := rfl
theorem exec_exit s : exec .exit s = execExit s := rfl
theorem exec_sexec a s : exec (.sexec a) s = execSexec a s := rfl
theorem exec_pqnext s : exec .pqnext s = execPqnext s := rfl
theorem exec_pqsave a s : exec (.pqsave a) s = execPqsave a s := rfl
theorem exec_pqload a s : exec (.pqload a) s = execPqload a s := rfl
theorem exec_syield s : exec .syield s = execSyield s := rfl
theorem exec_lk k a s : exec (.lk k a) s = execLk k a s := rfl
theorem exec_lwait f s : exec (.lwait f) s = execLwait f s := rfl
theorem exec_region o s : exec (.region o) s = execRegion o s := rfl
theorem exec_iqloop p v m s : exec (.iqloop p v m) s = execIqloop p v m s := rfl
theorem exec_mark t s : exec (.mark t) s = execMark t s := rfl
theorem exec_cut d t s : exec (.cut d t) s = execCut d t s := rfl
theorem exec_glaunch d a s : exec (.glaunch d a) s = execGlaunch d a s := rfl
theorem exec_stime d s : exec (.stime d) s = execStime d s := rfl
theorem exec_srd d n s : exec (.srd d n) s = execSrd d n s := rfl
theorem exec_swr a n s : exec (.swr a n) s = execSwr a n s := rfl
theorem exec_trap c s : exec (.trap c) s = execTrap c s := rfl
theorem exec_brk c s : exec (.brk c) s = execBrk c s := rfl
theorem exec_meet a n s : exec (.meet a n) s = execMeet a n s := rfl
theorem exec_nop s : exec .nop s = execNop s := rfl
theorem exec_sld d a o z h s : exec (.sld d a o z h) s = execSld d a o z h s := rfl
theorem exec_sldAcquire d a o z c s : exec (.sldAcquire d a o z c) s = execSldAcquire d a o z c s := rfl
theorem exec_sst d a o z h s : exec (.sst d a o z h) s = execSst d a o z h s := rfl
theorem exec_sstRelease d a o z c s : exec (.sstRelease d a o z c) s = execSstRelease d a o z c s := rfl
theorem exec_fence k c s : exec (.fence k c) s = execFence k c s := rfl
theorem exec_cadd a b c s : exec (.cadd a b c) s = execCadd a b c s := rfl
theorem exec_cwait a b c s : exec (.cwait a b c) s = execCwait a b c s := rfl
theorem exec_cread d a s : exec (.cread d a) s = execCread d a s := rfl
theorem exec_cpy d a b s : exec (.cpy d a b) s = execCpy d a b s := rfl
theorem exec_cpy2d d a b s : exec (.cpy2d d a b) s = execCpy2d d a b s := rfl
theorem exec_cseal d s : exec (.cseal d) s = execCseal d s := rfl
theorem exec_wmap d a b m s : exec (.wmap d a b m) s = execWmap d a b m s := rfl
theorem exec_wunmap a s : exec (.wunmap a) s = execWunmap a s := rfl
theorem exec_wflush a s : exec (.wflush a) s = execWflush a s := rfl
theorem exec_winval a s : exec (.winval a) s = execWinval a s := rfl
theorem exec_claim a b s : exec (.claim a b) s = execClaim a b s := rfl
theorem exec_xcoll d a s : exec (.xcoll d a) s = execXcoll d a s := rfl
theorem exec_graft a b s : exec (.graft a b) s = execGraft a b s := rfl
theorem exec_sfree a s : exec (.sfree a) s = execSfree a s := rfl
theorem exec_sinfo d a s : exec (.sinfo d a) s = execSinfo d a s := rfl
theorem exec_mres d s : exec (.mres d) s = execMres d s := rfl
theorem exec_mrel s : exec .mrel s = execMrel s := rfl
theorem exec_mrun a s : exec (.mrun a) s = execMrun a s := rfl
theorem exec_vadd f s : exec (.vadd f) s = execVadd f s := rfl
theorem exec_vsub f s : exec (.vsub f) s = execVsub f s := rfl
theorem exec_vmul f s : exec (.vmul f) s = execVmul f s := rfl
theorem exec_vmulHi f s : exec (.vmulHi f) s = execVmulHi f s := rfl
theorem exec_vmad f s : exec (.vmad f) s = execVmad f s := rfl
theorem exec_vmin f s : exec (.vmin f) s = execVmin f s := rfl
theorem exec_vmax f s : exec (.vmax f) s = execVmax f s := rfl
theorem exec_vand f s : exec (.vand f) s = execVand f s := rfl
theorem exec_vor f s : exec (.vor f) s = execVor f s := rfl
theorem exec_vxor f s : exec (.vxor f) s = execVxor f s := rfl
theorem exec_vnot f s : exec (.vnot f) s = execVnot f s := rfl
theorem exec_vshl f s : exec (.vshl f) s = execVshl f s := rfl
theorem exec_vshr f s : exec (.vshr f) s = execVshr f s := rfl
theorem exec_vsra f s : exec (.vsra f) s = execVsra f s := rfl
theorem exec_vbfe f s : exec (.vbfe f) s = execVbfe f s := rfl
theorem exec_vbfi f s : exec (.vbfi f) s = execVbfi f s := rfl
theorem exec_vpopc f s : exec (.vpopc f) s = execVpopc f s := rfl
theorem exec_vclz f s : exec (.vclz f) s = execVclz f s := rfl
theorem exec_vbrev f s : exec (.vbrev f) s = execVbrev f s := rfl
theorem exec_vsel f s : exec (.vsel f) s = execVsel f s := rfl
theorem exec_vmov f s : exec (.vmov f) s = execVmov f s := rfl
theorem exec_vli f s : exec (.vli f) s = execVli f s := rfl
theorem exec_vliHi f s : exec (.vliHi f) s = execVliHi f s := rfl
theorem exec_vfadd f s : exec (.vfadd f) s = execVfadd f s := rfl
theorem exec_vfsub f s : exec (.vfsub f) s = execVfsub f s := rfl
theorem exec_vfmul f s : exec (.vfmul f) s = execVfmul f s := rfl
theorem exec_vffma f s : exec (.vffma f) s = execVffma f s := rfl
theorem exec_vfmin f s : exec (.vfmin f) s = execVfmin f s := rfl
theorem exec_vfmax f s : exec (.vfmax f) s = execVfmax f s := rfl
theorem exec_vfrcp f s : exec (.vfrcp f) s = execVfrcp f s := rfl
theorem exec_vfrsq f s : exec (.vfrsq f) s = execVfrsq f s := rfl
theorem exec_vfsqrt f s : exec (.vfsqrt f) s = execVfsqrt f s := rfl
theorem exec_vfdiv f s : exec (.vfdiv f) s = execVfdiv f s := rfl
theorem exec_vfexp2 f s : exec (.vfexp2 f) s = execVfexp2 f s := rfl
theorem exec_vflog2 f s : exec (.vflog2 f) s = execVflog2 f s := rfl
theorem exec_vfsin f s : exec (.vfsin f) s = execVfsin f s := rfl
theorem exec_vfcos f s : exec (.vfcos f) s = execVfcos f s := rfl
theorem exec_vfrnd f s : exec (.vfrnd f) s = execVfrnd f s := rfl
theorem exec_vffrac f s : exec (.vffrac f) s = execVffrac f s := rfl
theorem exec_vfcls f s : exec (.vfcls f) s = execVfcls f s := rfl
theorem exec_vicmp f s : exec (.vicmp f) s = execVicmp f s := rfl
theorem exec_vfcmp f s : exec (.vfcmp f) s = execVfcmp f s := rfl
theorem exec_pand f s : exec (.pand f) s = execPand f s := rfl
theorem exec_por f s : exec (.por f) s = execPor f s := rfl
theorem exec_pxor f s : exec (.pxor f) s = execPxor f s := rfl
theorem exec_pnot f s : exec (.pnot f) s = execPnot f s := rfl
theorem exec_pmov f s : exec (.pmov f) s = execPmov f s := rfl
theorem exec_pmovFromLane f s : exec (.pmovFromLane f) s = execPmovFromLane f s := rfl
theorem exec_pmovToLane f s : exec (.pmovToLane f) s = execPmovToLane f s := rfl
theorem exec_vdot4 f s : exec (.vdot4 f) s = execVdot4 f s := rfl
theorem exec_vfdot2 f s : exec (.vfdot2 f) s = execVfdot2 f s := rfl
theorem exec_vcvtDec f s : exec (.vcvtDec f) s = execVcvtDec f s := rfl
theorem exec_vcvtEnc f s : exec (.vcvtEnc f) s = execVcvtEnc f s := rfl
theorem exec_vpk f s : exec (.vpk f) s = execVpk f s := rfl
theorem exec_vupk f s : exec (.vupk f) s = execVupk f s := rfl
theorem exec_vscl f s : exec (.vscl f) s = execVscl f s := rfl
theorem exec_vshfl f s : exec (.vshfl f) s = execVshfl f s := rfl
theorem exec_vbcast f s : exec (.vbcast f) s = execVbcast f s := rfl
theorem exec_vbcastFirst f s : exec (.vbcastFirst f) s = execVbcastFirst f s := rfl
theorem exec_vscan f s : exec (.vscan f) s = execVscan f s := rfl
theorem exec_vballot f s : exec (.vballot f) s = execVballot f s := rfl
theorem exec_vballotCnt f s : exec (.vballotCnt f) s = execVballotCnt f s := rfl
theorem exec_vred f s : exec (.vred f) s = execVred f s := rfl
theorem exec_vmbox f s : exec (.vmbox f) s = execVmbox f s := rfl
theorem exec_vmboxLast f s : exec (.vmboxLast f) s = execVmboxLast f s := rfl
theorem exec_vlid f s : exec (.vlid f) s = execVlid f s := rfl
theorem exec_vixs f s : exec (.vixs f) s = execVixs f s := rfl
theorem exec_vld f s : exec (.vld f) s = execVld f s := rfl
theorem exec_vldAcquire f s : exec (.vldAcquire f) s = execVldAcquire f s := rfl
theorem exec_vst f s : exec (.vst f) s = execVst f s := rfl
theorem exec_vstRelease f s : exec (.vstRelease f) s = execVstRelease f s := rfl
theorem exec_vlds f s : exec (.vlds f) s = execVlds f s := rfl
theorem exec_vsts f s : exec (.vsts f) s = execVsts f s := rfl
theorem exec_vatom f s : exec (.vatom f) s = execVatom f s := rfl
theorem exec_vatomCas f s : exec (.vatomCas f) s = execVatomCas f s := rfl
theorem exec_vredm f s : exec (.vredm f) s = execVredm f s := rfl
theorem exec_vpref f s : exec (.vpref f) s = execVpref f s := rfl
theorem exec_gmma f s : exec (.gmma f) s = execGmma f s := rfl
theorem exec_gldb f s : exec (.gldb f) s = execGldb f s := rfl
theorem exec_gclr f s : exec (.gclr f) s = execGclr f s := rfl
theorem exec_gst f s : exec (.gst f) s = execGst f s := rfl
theorem exec_gmov f s : exec (.gmov f) s = execGmov f s := rfl
theorem exec_gmovTr f s : exec (.gmovTr f) s = execGmovTr f s := rfl
theorem exec_gmeet f s : exec (.gmeet f) s = execGmeet f s := rfl
theorem exec_gend f s : exec (.gend f) s = execGend f s := rfl
theorem exec_dLdq d z m x s : exec (.dLdq d z m x) s = execDLdq d z m x s := rfl
theorem exec_dLdt d z m x s : exec (.dLdt d z m x) s = execDLdt d z m x s := rfl
theorem exec_dLdh d z m x s : exec (.dLdh d z m x) s = execDLdh d z m x s := rfl
theorem exec_dLde d z m x s : exec (.dLde d z m x) s = execDLde d z m x s := rfl
theorem exec_dAdd d z m x s : exec (.dAdd d z m x) s = execDAdd d z m x s := rfl
theorem exec_dSub d z m x s : exec (.dSub d z m x) s = execDSub d z m x s := rfl
theorem exec_dMul d z m x s : exec (.dMul d z m x) s = execDMul d z m x s := rfl
theorem exec_dMin d z m x s : exec (.dMin d z m x) s = execDMin d z m x s := rfl
theorem exec_dMax d z m x s : exec (.dMax d z m x) s = execDMax d z m x s := rfl
theorem exec_dAnd d z m x s : exec (.dAnd d z m x) s = execDAnd d z m x s := rfl
theorem exec_dOr d z m x s : exec (.dOr d z m x) s = execDOr d z m x s := rfl
theorem exec_dXor d z m x s : exec (.dXor d z m x) s = execDXor d z m x s := rfl
theorem exec_dShl d z m x s : exec (.dShl d z m x) s = execDShl d z m x s := rfl
theorem exec_dShr d z m x s : exec (.dShr d z m x) s = execDShr d z m x s := rfl
theorem exec_dCmp d z m x s : exec (.dCmp d z m x) s = execDCmp d z m x s := rfl
theorem exec_dJf c z m x s : exec (.dJf c z m x) s = execDJf c z m x s := rfl
theorem exec_dBest d z m x s : exec (.dBest d z m x) s = execDBest d z m x s := rfl
theorem exec_dDsp q z m x s : exec (.dDsp q z m x) s = execDDsp q z m x s := rfl
theorem exec_dPre c s : exec (.dPre c) s = execDPre c s := rfl
theorem exec_dPark s : exec .dPark s = execDPark s := rfl
theorem exec_dKill s : exec .dKill s = execDKill s := rfl
theorem exec_dRetry z m x s : exec (.dRetry z m x) s = execDRetry z m x s := rfl
theorem exec_dSusp s : exec .dSusp s = execDSusp s := rfl
theorem exec_dGrant s : exec .dGrant s = execDGrant s := rfl
theorem exec_dFill q z m x s : exec (.dFill q z m x) s = execDFill q z m x s := rfl
theorem exec_dHold s : exec .dHold s = execDHold s := rfl
theorem exec_evClauseStart core slot s : exec (.evClauseStart core slot) s = execEvClauseStart core slot s := rfl
theorem exec_evLaneWriteLands core slot op s : exec (.evLaneWriteLands core slot op) s = execEvLaneWriteLands core slot op s := rfl
theorem exec_evMemoryOperationCompletes core slot op s : exec (.evMemoryOperationCompletes core slot op) s = execEvMemoryOperationCompletes core slot op s := rfl
theorem exec_evGwctCompletion effect s : exec (.evGwctCompletion effect) s = execEvGwctCompletion effect s := rfl
theorem exec_evReleaseWaitEnds core slot s : exec (.evReleaseWaitEnds core slot) s = execEvReleaseWaitEnds core slot s := rfl
theorem exec_evCoreClockStop core s : exec (.evCoreClockStop core) s = execEvCoreClockStop core s := rfl
theorem exec_evCoreWake core s : exec (.evCoreWake core) s = execEvCoreWake core s := rfl
theorem exec_evEffectiveCloseDetermined core slot region s : exec (.evEffectiveCloseDetermined core slot region) s = execEvEffectiveCloseDetermined core slot region s := rfl
theorem exec_evRegionCleared core slot region s : exec (.evRegionCleared core slot region) s = execEvRegionCleared core slot region s := rfl
theorem exec_evRegionReleased core slot region s : exec (.evRegionReleased core slot region) s = execEvRegionReleased core slot region s := rfl
theorem exec_evNeighbourWriteApplied core entry s : exec (.evNeighbourWriteApplied core entry) s = execEvNeighbourWriteApplied core entry s := rfl
theorem exec_evSensorEvent kind place second s : exec (.evSensorEvent kind place second) s = execEvSensorEvent kind place second s := rfl
theorem exec_evSensorReportArrives report s : exec (.evSensorReportArrives report) s = execEvSensorReportArrives report s := rfl
theorem exec_evSensorSquash report core s : exec (.evSensorSquash report core) s = execEvSensorSquash report core s := rfl
theorem exec_evHeldEffectArrives effect s : exec (.evHeldEffectArrives effect) s = execEvHeldEffectArrives effect s := rfl
theorem exec_evPendingWriteAccepted home s : exec (.evPendingWriteAccepted home) s = execEvPendingWriteAccepted home s := rfl
theorem exec_evClose home core s : exec (.evClose home core) s = execEvClose home core s := rfl
theorem exec_evSquash home core s : exec (.evSquash home core) s = execEvSquash home core s := rfl
theorem exec_evHomeRelease home s : exec (.evHomeRelease home) s = execEvHomeRelease home s := rfl
theorem exec_evCreditReturned home core s : exec (.evCreditReturned home core) s = execEvCreditReturned home core s := rfl
theorem exec_evHeartbeat die s : exec (.evHeartbeat die) s = execEvHeartbeat die s := rfl
theorem exec_evHeartbeatReceived home die s : exec (.evHeartbeatReceived home die) s = execEvHeartbeatReceived home die s := rfl
theorem exec_evRegionResourceTrap core resource s : exec (.evRegionResourceTrap core resource) s = execEvRegionResourceTrap core resource s := rfl
theorem exec_evAtomicPerform core slot s : exec (.evAtomicPerform core slot) s = execEvAtomicPerform core slot s := rfl
theorem exec_evTrapDelivery core slot s : exec (.evTrapDelivery core slot) s = execEvTrapDelivery core slot s := rfl
theorem exec_evStrandSlotFreed core slot s : exec (.evStrandSlotFreed core slot) s = execEvStrandSlotFreed core slot s := rfl
theorem exec_evBlockGriddleRelease core s : exec (.evBlockGriddleRelease core) s = execEvBlockGriddleRelease core s := rfl
theorem exec_evGridRetire part grid s : exec (.evGridRetire part grid) s = execEvGridRetire part grid s := rfl
theorem exec_evCompletionStatusWrite part grid s : exec (.evCompletionStatusWrite part grid) s = execEvCompletionStatusWrite part grid s := rfl
theorem exec_evCompletionCounterAdd part grid s : exec (.evCompletionCounterAdd part grid) s = execEvCompletionCounterAdd part grid s := rfl
theorem exec_evSegmentCleared core s : exec (.evSegmentCleared core) s = execEvSegmentCleared core s := rfl
theorem exec_evImplicitMeet core s : exec (.evImplicitMeet core) s = execEvImplicitMeet core s := rfl
theorem exec_evMeetWaitSatisfied core s : exec (.evMeetWaitSatisfied core) s = execEvMeetWaitSatisfied core s := rfl
theorem exec_evCopyStart copy s : exec (.evCopyStart copy) s = execEvCopyStart copy s := rfl
theorem exec_evCopyDataStaged copy s : exec (.evCopyDataStaged copy) s = execEvCopyDataStaged copy s := rfl
theorem exec_evCopyChunkWrite copy s : exec (.evCopyChunkWrite copy) s = execEvCopyChunkWrite copy s := rfl
theorem exec_evCopyCompletionAdd copy s : exec (.evCopyCompletionAdd copy) s = execEvCopyCompletionAdd copy s := rfl
theorem exec_evBatchTokenWritten core slot batch s : exec (.evBatchTokenWritten core slot batch) s = execEvBatchTokenWritten core slot batch s := rfl
theorem exec_evFillRequest core line s : exec (.evFillRequest core line) s = execEvFillRequest core line s := rfl
theorem exec_evL1FillLands core line s : exec (.evL1FillLands core line) s = execEvL1FillLands core line s := rfl
theorem exec_evWindowFillLands block chunk s : exec (.evWindowFillLands block chunk) s = execEvWindowFillLands block chunk s := rfl
theorem exec_evGenerationSweep core s : exec (.evGenerationSweep core) s = execEvGenerationSweep core s := rfl
theorem exec_evCounterWake core slot s : exec (.evCounterWake core slot) s = execEvCounterWake core slot s := rfl
theorem exec_evCounterRepoll core slot s : exec (.evCounterRepoll core slot) s = execEvCounterRepoll core slot s := rfl
theorem exec_evItemQueueRefill core s : exec (.evItemQueueRefill core) s = execEvItemQueueRefill core s := rfl
theorem exec_evDispatchPeriodic part hearth s : exec (.evDispatchPeriodic part hearth) s = execEvDispatchPeriodic part hearth s := rfl
theorem exec_evPreemptQuantum part gang s : exec (.evPreemptQuantum part gang) s = execEvPreemptQuantum part gang s := rfl
theorem exec_evDecisionBegins part s : exec (.evDecisionBegins part) s = execEvDecisionBegins part s := rfl
theorem exec_evDamperOverrun part s : exec (.evDamperOverrun part) s = execEvDamperOverrun part s := rfl
theorem exec_evLoad part h s : exec (.evLoad part h) s = execEvLoad part h s := rfl
theorem exec_evDamperLoadCheckDone part s : exec (.evDamperLoadCheckDone part) s = execEvDamperLoadCheckDone part s := rfl
theorem exec_evPreemptionRequest part gang cause s : exec (.evPreemptionRequest part gang cause) s = execEvPreemptionRequest part gang cause s := rfl
theorem exec_evContextSave part gang s : exec (.evContextSave part gang) s = execEvContextSave part gang s := rfl
theorem exec_evCollectiveStall channel s : exec (.evCollectiveStall channel) s = execEvCollectiveStall channel s := rfl
theorem exec_evFillerWithdrawal part s : exec (.evFillerWithdrawal part) s = execEvFillerWithdrawal part s := rfl
theorem exec_evAccountRefill part acct s : exec (.evAccountRefill part acct) s = execEvAccountRefill part acct s := rfl
theorem exec_evAccountCharge part acct s : exec (.evAccountCharge part acct) s = execEvAccountCharge part acct s := rfl
theorem exec_evPeriodWrite part h acct value s : exec (.evPeriodWrite part h acct value) s = execEvPeriodWrite part h acct value s := rfl
theorem exec_evParkres part h value s : exec (.evParkres part h value) s = execEvParkres part h value s := rfl
theorem exec_evHalt part h s : exec (.evHalt part h) s = execEvHalt part h s := rfl
theorem exec_evDebugResume part h s : exec (.evDebugResume part h) s = execEvDebugResume part h s := rfl
theorem exec_evStep part h s : exec (.evStep part h) s = execEvStep part h s := rfl
theorem exec_evQpush part h queue value s : exec (.evQpush part h queue value) s = execEvQpush part h queue value s := rfl
theorem exec_evQcfgWrite h die value s : exec (.evQcfgWrite h die value) s = execEvQcfgWrite h die value s := rfl
theorem exec_evSignedFlashCommit item s : exec (.evSignedFlashCommit item) s = execEvSignedFlashCommit item s := rfl
theorem exec_evSpcfgWrite part h value s : exec (.evSpcfgWrite part h value) s = execEvSpcfgWrite part h value s := rfl
theorem exec_evSpsizeTakesEffect core s : exec (.evSpsizeTakesEffect core) s = execEvSpsizeTakesEffect core s := rfl
theorem exec_evCommit h part s : exec (.evCommit h part) s = execEvCommit h part s := rfl
theorem exec_evResourceHandover part s : exec (.evResourceHandover part) s = execEvResourceHandover part s := rfl
theorem exec_evTake h s : exec (.evTake h) s = execEvTake h s := rfl
theorem exec_evGive h s : exec (.evGive h) s = execEvGive h s := rfl
theorem exec_evHostLinkDown port s : exec (.evHostLinkDown port) s = execEvHostLinkDown port s := rfl
theorem exec_evHostPostedWrite h part addr bytes s : exec (.evHostPostedWrite h part addr bytes) s = execEvHostPostedWrite h part addr bytes s := rfl
theorem exec_evGrantMessage port route s : exec (.evGrantMessage port route) s = execEvGrantMessage port route s := rfl
theorem exec_evHostPiecePerformed port route s : exec (.evHostPiecePerformed port route) s = execEvHostPiecePerformed port route s := rfl
theorem exec_evAck port route s : exec (.evAck port route) s = execEvAck port route s := rfl
theorem exec_evHostRead h part addr size s : exec (.evHostRead h part addr size) s = execEvHostRead h part addr size s := rfl
theorem exec_evCxlRead port half s : exec (.evCxlRead port half) s = execEvCxlRead port half s := rfl
theorem exec_evCxlReadForOwnership port half s : exec (.evCxlReadForOwnership port half) s = execEvCxlReadForOwnership port half s := rfl
theorem exec_evCxlWriteBack port half dirty s : exec (.evCxlWriteBack port half dirty) s = execEvCxlWriteBack port half dirty s := rfl
theorem exec_evBackInvalidationResponse half dirty s : exec (.evBackInvalidationResponse half dirty) s = execEvBackInvalidationResponse half dirty s := rfl
theorem exec_evTranslationWalk part core addr s : exec (.evTranslationWalk part core addr) s = execEvTranslationWalk part core addr s := rfl
theorem exec_evTranslationLeaseExpires core s : exec (.evTranslationLeaseExpires core) s = execEvTranslationLeaseExpires core s := rfl
theorem exec_evTunmap part h s : exec (.evTunmap part h) s = execEvTunmap part h s := rfl
theorem exec_evMgo part h s : exec (.evMgo part h) s = execEvMgo part h s := rfl
theorem exec_evMigrationSwitch part s : exec (.evMigrationSwitch part) s = execEvMigrationSwitch part s := rfl
theorem exec_evMigrationDrainEnds part s : exec (.evMigrationDrainEnds part) s = execEvMigrationDrainEnds part s := rfl
theorem exec_evLockInterfaceRequest part h s : exec (.evLockInterfaceRequest part h) s = execEvLockInterfaceRequest part h s := rfl
theorem exec_evGetDeviceInterfaceReport part h s : exec (.evGetDeviceInterfaceReport part h) s = execEvGetDeviceInterfaceReport part h s := rfl
theorem exec_evStartInterfaceRequest part h nonce s : exec (.evStartInterfaceRequest part h nonce) s = execEvStartInterfaceRequest part h nonce s := rfl
theorem exec_evStopInterfaceRequest part h s : exec (.evStopInterfaceRequest part h) s = execEvStopInterfaceRequest part h s := rfl
theorem exec_evIdeStreamLoss part s : exec (.evIdeStreamLoss part) s = execEvIdeStreamLoss part s := rfl
theorem exec_evInterfaceError part s : exec (.evInterfaceError part) s = execEvInterfaceError part s := rfl
theorem exec_evStraitLaneFailure strait left s : exec (.evStraitLaneFailure strait left) s = execEvStraitLaneFailure strait left s := rfl
theorem exec_evStraitRetrainDone strait s : exec (.evStraitRetrainDone strait) s = execEvStraitRetrainDone strait s := rfl
theorem exec_evStraitRetrain h strait s : exec (.evStraitRetrain h strait) s = execEvStraitRetrain h strait s := rfl
theorem exec_evCollectiveChunk channel ranks s : exec (.evCollectiveChunk channel ranks) s = execEvCollectiveChunk channel ranks s := rfl
theorem exec_evCollectiveCompletionAdd channel s : exec (.evCollectiveCompletionAdd channel) s = execEvCollectiveCompletionAdd channel s := rfl
theorem exec_evCollectivePacketArrives strait group attempt s : exec (.evCollectivePacketArrives strait group attempt) s = execEvCollectivePacketArrives strait group attempt s := rfl
theorem exec_evGabort part h s : exec (.evGabort part h) s = execEvGabort part h s := rfl
theorem exec_evAbortToken group attempt s : exec (.evAbortToken group attempt) s = execEvAbortToken group attempt s := rfl
theorem exec_evErrnext h s : exec (.evErrnext h) s = execEvErrnext h s := rfl
theorem exec_evRgo h s : exec (.evRgo h) s = execEvRgo h s := rfl
theorem exec_evRetirementConfirmed s : exec .evRetirementConfirmed s = execEvRetirementConfirmed s := rfl
theorem exec_evModuleReset power s : exec (.evModuleReset power) s = execEvModuleReset power s := rfl
theorem exec_evComputeDieReset h die s : exec (.evComputeDieReset h die) s = execEvComputeDieReset h die s := rfl
theorem exec_evDieResetDrainEnds die s : exec (.evDieResetDrainEnds die) s = execEvDieResetDrainEnds die s := rfl
theorem exec_evPtpLock ptp s : exec (.evPtpLock ptp) s = execEvPtpLock ptp s := rfl
theorem exec_evPtpLockLost s : exec .evPtpLockLost s = execEvPtpLockLost s := rfl
theorem exec_evPtpoffReplaced ptp s : exec (.evPtpoffReplaced ptp) s = execEvPtpoffReplaced ptp s := rfl
theorem exec_evTstatRead h s : exec (.evTstatRead h) s = execEvTstatRead h s := rfl
theorem exec_evStepRegisterWrite h hearth value s : exec (.evStepRegisterWrite h hearth value) s = execEvStepRegisterWrite h hearth value s := rfl
theorem exec_evStepChangeDone hearth s : exec (.evStepChangeDone hearth) s = execEvStepChangeDone hearth s := rfl
theorem exec_evPwrctlWrite h value s : exec (.evPwrctlWrite h value) s = execEvPwrctlWrite h value s := rfl
theorem exec_evRampInterval power s : exec (.evRampInterval power) s = execEvRampInterval power s := rfl
theorem exec_evTelemetryRecord m s : exec (.evTelemetryRecord m) s = execEvTelemetryRecord m s := rfl
theorem exec_evTimingReplay hearth s : exec (.evTimingReplay hearth) s = execEvTimingReplay hearth s := rfl
theorem exec_evFwgo h s : exec (.evFwgo h) s = execEvFwgo h s := rfl
theorem exec_evFirmwareVerifyDone s : exec .evFirmwareVerifyDone s = execEvFirmwareVerifyDone s := rfl
theorem exec_evAct h s : exec (.evAct h) s = execEvAct h s := rfl
theorem exec_evRegisterWrite h place value s : exec (.evRegisterWrite h place value) s = execEvRegisterWrite h place value s := rfl
theorem exec_evReservedEncoding stream cause s : exec (.evReservedEncoding stream cause) s = execEvReservedEncoding stream cause s := rfl
theorem exec_evInstructionFetchFault stream s : exec (.evInstructionFetchFault stream) s = execEvInstructionFetchFault stream s := rfl
theorem exec_evPcieAtomicopCompletion request refused old s : exec (.evPcieAtomicopCompletion request refused old) s = execEvPcieAtomicopCompletion request refused old s := rfl
theorem exec_evPtpOffsetMeasurement error s : exec (.evPtpOffsetMeasurement error) s = execEvPtpOffsetMeasurement error s := rfl

end Sys2Proof.Machine
end

