-- ==== Sys2Proof/Laws/Map.lean ====
section
/-! SUPPORT. Laws of sparse data and of memory: what a read gives after a write, and that every memory operation keeps
the canonical form. -/

namespace Sys2Proof

variable {α : Type}

/-! ### Sparse data -/

@[simp] theorem mget_mset_self (m : List (Nat × α)) (k : Nat) (v : α) : mget (mset m k v) k = some v := by
  induction m with
  | nil => simp [mset, mget]
  | cons e t ih =>
    obtain ⟨a, x⟩ := e
    unfold mset
    split
    · simp [mget]
    · split
      · simp [mget]
      · simp [mget, *]

theorem mget_mset_ne (m : List (Nat × α)) {k j : Nat} (v : α) (h : j ≠ k) : mget (mset m k v) j = mget m j := by
  induction m with
  | nil => simp [mset, mget, Ne.symm h]
  | cons e t ih =>
    obtain ⟨a, x⟩ := e
    unfold mset
    split
    · simp [mget, Ne.symm h]
    · split
      · rename_i h1; subst h1; simp [mget, Ne.symm h]
      · simp only [mget, ih]

theorem mget_mset (m : List (Nat × α)) (k j : Nat) (v : α) :
    mget (mset m k v) j = if j = k then some v else mget m j := by
  split
  · next h => subst h; simp
  · next h => exact mget_mset_ne m v h

@[simp] theorem mset_mset (m : List (Nat × α)) (k : Nat) (v w : α) : mset (mset m k v) k w = mset m k w := by
  induction m with
  | nil => simp [mset]
  | cons e t ih =>
    obtain ⟨a, x⟩ := e
    by_cases h : k < a
    · simp [mset, h]
    · by_cases h' : a = k
      · simp [mset, h']
      · simp [mset, h, h', ih]

/-- A map that keeps every key changes each value at its key. -/
theorem mget_map {m : List (Nat × α)} {f : Nat × α → Nat × α} (hf : ∀ e, (f e).1 = e.1) (k : Nat) :
    mget (m.map f) k = (mget m k).map fun x => (f (k, x)).2 := by
  induction m with
  | nil => rfl
  | cons e t ih =>
    obtain ⟨a, x⟩ := e
    have ha : f (a, x) = (a, (f (a, x)).2) := Prod.ext (hf (a, x)) rfl
    rw [List.map_cons, ha]
    by_cases h : a = k
    · subst h; simp [mget]
    · simp [mget, h, ih]

@[simp] theorem mget_mdel_self (m : List (Nat × α)) (k : Nat) : mget (mdel m k) k = none := by
  induction m with
  | nil => rfl
  | cons e t ih =>
    obtain ⟨a, x⟩ := e
    by_cases h : a = k <;> simp_all [mdel, mget]

theorem mget_mdel_ne (m : List (Nat × α)) {k j : Nat} (h : j ≠ k) : mget (mdel m k) j = mget m j := by
  induction m with
  | nil => rfl
  | cons e t ih =>
    obtain ⟨a, x⟩ := e
    by_cases h' : a = k
    · subst h'
      have : mdel ((a, x) :: t) a = mdel t a := by simp [mdel]
      rw [this, ih]; simp [mget, Ne.symm h]
    · have : mdel ((a, x) :: t) k = (a, x) :: mdel t k := by simp [mdel, h']
      rw [this]; simp only [mget, ih]

/-! ### Memory: reading after writing -/

@[simp] theorem memByte_memPut_self (m : Memory) (a : Nat) (b : Byte) : memByte (memPut m a b) a = b := by
  unfold memPut memByte mgetD
  split
  · next h => simp [h]
  · simp

theorem memByte_memPut_ne (m : Memory) {a c : Nat} (b : Byte) (h : c ≠ a) : memByte (memPut m a b) c = memByte m c := by
  unfold memPut memByte mgetD
  split
  · rw [mget_mdel_ne m h]
  · rw [mget_mset_ne m b h]

/-- A byte that is not written keeps its value. -/
theorem memByte_memPuts_of_notMem (l : List (Nat × Byte)) (m : Memory) (c : Nat) (h : ∀ e ∈ l, e.1 ≠ c) :
    memByte (memPuts m l) c = memByte m c := by
  induction l generalizing m with
  | nil => rfl
  | cons e t ih =>
    have := ih (memPut m e.1 e.2) fun x hx => h x (List.mem_cons_of_mem _ hx)
    simp only [memPuts, List.foldl_cons] at this ⊢
    rw [this, memByte_memPut_ne m e.2 (Ne.symm (h e List.mem_cons_self))]

theorem mem_placed {a : Nat} {l : List Byte} {e : Nat × Byte} (h : e ∈ placed a l) : a ≤ e.1 ∧ e.1 < a + l.length := by
  simp only [placed, List.mem_map] at h
  obtain ⟨x, hx, rfl⟩ := h
  have := (List.of_mem_zip hx).1
  simp at this
  dsimp only
  omega

@[simp] theorem length_leBytes (n x : Nat) : (leBytes n x).length = n := by
  induction n generalizing x with
  | zero => rfl
  | succ n ih => simp [leBytes, ih]

/-- A write of n bytes leaves every byte outside them alone. -/
theorem memByte_memWrite_outside (m : Memory) (a n x c : Nat) (h : c < a ∨ a + n ≤ c) :
    memByte (memWrite m a n x) c = memByte m c := by
  refine memByte_memPuts_of_notMem _ _ _ fun e he => ?_
  have := mem_placed he
  simp at this
  omega

/-! ### Memory: the canonical form -/

/-- The canonical form as a statement about neighbours. -/
theorem wf_cons (a : Nat) (b : Byte) (t : Memory) :
    Memory.wf ((a, b) :: t) = true ↔ b ≠ 0 ∧ (∀ e ∈ t, a < e.1) ∧ Memory.wf t = true := by
  induction t generalizing a b with
  | nil => simp [Memory.wf]
  | cons e t ih =>
    obtain ⟨c, d⟩ := e
    have key := ih c d
    simp only [Memory.wf, Bool.and_eq_true, bne_iff_ne, decide_eq_true_eq, List.mem_cons, forall_eq_or_imp]
    rw [key]
    constructor
    · rintro ⟨⟨h1, h2⟩, h3, h4, h5⟩
      exact ⟨h1, ⟨h2, fun e he => Nat.lt_trans h2 (h4 e he)⟩, h3, h4, h5⟩
    · rintro ⟨h1, ⟨h2, -⟩, h3, h4, h5⟩
      exact ⟨⟨h1, h2⟩, h3, h4, h5⟩

theorem wf_nil : Memory.wf [] = true := rfl

theorem wf_filter (p : Nat × Byte → Bool) {m : Memory} (h : Memory.wf m = true) : Memory.wf (m.filter p) = true := by
  induction m with
  | nil => rfl
  | cons e t ih =>
    obtain ⟨a, b⟩ := e
    obtain ⟨h1, h2, h3⟩ := (wf_cons a b t).1 h
    by_cases hp : p (a, b) = true
    · rw [List.filter_cons_of_pos hp, wf_cons]
      exact ⟨h1, fun e he => h2 e ((List.mem_filter.1 he).1), ih h3⟩
    · rw [List.filter_cons_of_neg hp]; exact ih h3

theorem wf_mdel {m : Memory} (k : Nat) (h : Memory.wf m = true) : Memory.wf (mdel m k) = true := wf_filter _ h

theorem mem_mset {m : List (Nat × α)} {k : Nat} {v : α} {e : Nat × α} (h : e ∈ mset m k v) : e = (k, v) ∨ e ∈ m := by
  induction m with
  | nil => simpa [mset] using h
  | cons x t ih =>
    obtain ⟨a, y⟩ := x
    unfold mset at h
    split at h
    · simpa using h
    · split at h
      · rcases List.mem_cons.1 h with h | h
        · exact .inl h
        · exact .inr (List.mem_cons_of_mem _ h)
      · rcases List.mem_cons.1 h with h | h
        · exact .inr (h ▸ List.mem_cons_self)
        · rcases ih h with h | h
          · exact .inl h
          · exact .inr (List.mem_cons_of_mem _ h)

theorem wf_mset {m : Memory} (k : Nat) {v : Byte} (hv : v ≠ 0) (h : Memory.wf m = true) : Memory.wf (mset m k v) = true := by
  induction m with
  | nil => simpa [mset, Memory.wf] using hv
  | cons e t ih =>
    obtain ⟨a, b⟩ := e
    obtain ⟨h1, h2, h3⟩ := (wf_cons a b t).1 h
    unfold mset
    split
    · next hk =>
      rw [wf_cons]
      refine ⟨hv, fun e he => ?_, h⟩
      rcases List.mem_cons.1 he with rfl | he
      · exact hk
      · exact Nat.lt_trans hk (h2 e he)
    · split
      · next hk =>
        rw [wf_cons]
        exact ⟨hv, fun e he => hk ▸ h2 e he, h3⟩
      · next hk hk' =>
        rw [wf_cons]
        refine ⟨h1, fun e he => ?_, ih h3⟩
        rcases mem_mset he with rfl | he
        · simp only; omega
        · exact h2 e he

theorem wf_memPut {m : Memory} (a : Nat) (b : Byte) (h : Memory.wf m = true) : Memory.wf (memPut m a b) = true := by
  unfold memPut
  split
  · exact wf_mdel a h
  · next hb => exact wf_mset a hb h

theorem wf_memPuts {m : Memory} (l : List (Nat × Byte)) (h : Memory.wf m = true) : Memory.wf (memPuts m l) = true := by
  induction l generalizing m with
  | nil => exact h
  | cons e t ih => exact ih (wf_memPut e.1 e.2 h)

/-- Every write keeps the canonical form. -/
theorem wf_memWrite {m : Memory} (a n x : Nat) (h : Memory.wf m = true) : Memory.wf (memWrite m a n x) = true :=
  wf_memPuts _ h

end Sys2Proof
end

