-- ==== Sys2Proof/Laws/State.lean ====
section
/-! SUPPORT. Laws of the updates of State: which field each update changes, and what a read gives after it. -/

namespace Sys2Proof.Machine

open Sys2Proof

/-! ### putStrand -/

@[simp] theorem putStrand_now (s : State) (c l : Nat) (x : Strand) : (putStrand s c l x).now = s.now := rfl
@[simp] theorem putStrand_turns (s : State) (c l : Nat) (x : Strand) : (putStrand s c l x).turns = s.turns := rfl
@[simp] theorem putStrand_agent (s : State) (c l : Nat) (x : Strand) : (putStrand s c l x).agent = s.agent := rfl
@[simp] theorem putStrand_fresh (s : State) (c l : Nat) (x : Strand) : (putStrand s c l x).fresh = s.fresh := rfl
@[simp] theorem putStrand_nextId (s : State) (c l : Nat) (x : Strand) : (putStrand s c l x).nextId = s.nextId := rfl
@[simp] theorem putStrand_mem (s : State) (c l : Nat) (x : Strand) : (putStrand s c l x).mem = s.mem := rfl
@[simp] theorem putStrand_poison (s : State) (c l : Nat) (x : Strand) : (putStrand s c l x).poison = s.poison := rfl
@[simp] theorem putStrand_blocks (s : State) (c l : Nat) (x : Strand) : (putStrand s c l x).blocks = s.blocks := rfl
@[simp] theorem putStrand_cores (s : State) (c l : Nat) (x : Strand) : (putStrand s c l x).cores = s.cores := rfl
@[simp] theorem putStrand_hearths (s : State) (c l : Nat) (x : Strand) : (putStrand s c l x).hearths = s.hearths := rfl
@[simp] theorem putStrand_qcfg (s : State) (c l : Nat) (x : Strand) : (putStrand s c l x).qcfg = s.qcfg := rfl
@[simp] theorem putStrand_incs (s : State) (c l : Nat) (x : Strand) : (putStrand s c l x).incs = s.incs := rfl
@[simp] theorem putStrand_oldBeats (s : State) (c l : Nat) (x : Strand) : (putStrand s c l x).oldBeats = s.oldBeats := rfl
@[simp] theorem putStrand_lostBeats (s : State) (c l : Nat) (x : Strand) : (putStrand s c l x).lostBeats = s.lostBeats := rfl
@[simp] theorem putStrand_drains (s : State) (c l : Nat) (x : Strand) : (putStrand s c l x).drains = s.drains := rfl
@[simp] theorem putStrand_effects (s : State) (c l : Nat) (x : Strand) : (putStrand s c l x).effects = s.effects := rfl
@[simp] theorem putStrand_msgs (s : State) (c l : Nat) (x : Strand) : (putStrand s c l x).msgs = s.msgs := rfl
@[simp] theorem putStrand_records (s : State) (c l : Nat) (x : Strand) : (putStrand s c l x).records = s.records := rfl
@[simp] theorem putStrand_credits (s : State) (c l : Nat) (x : Strand) : (putStrand s c l x).credits = s.credits := rfl
@[simp] theorem putStrand_beats (s : State) (c l : Nat) (x : Strand) : (putStrand s c l x).beats = s.beats := rfl
@[simp] theorem putStrand_heard (s : State) (c l : Nat) (x : Strand) : (putStrand s c l x).heard = s.heard := rfl
@[simp] theorem putStrand_horizon (s : State) (c l : Nat) (x : Strand) : (putStrand s c l x).horizon = s.horizon := rfl
@[simp] theorem putStrand_homeMap (s : State) (c l : Nat) (x : Strand) : (putStrand s c l x).homeMap = s.homeMap := rfl
@[simp] theorem putStrand_owned (s : State) (c l : Nat) (x : Strand) : (putStrand s c l x).owned = s.owned := rfl
@[simp] theorem putStrand_ownedBy (s : State) (c l : Nat) (x : Strand) : (putStrand s c l x).ownedBy = s.ownedBy := rfl
@[simp] theorem putStrand_recalled (s : State) (c l : Nat) (x : Strand) : (putStrand s c l x).recalled = s.recalled := rfl
@[simp] theorem putStrand_claims (s : State) (c l : Nat) (x : Strand) : (putStrand s c l x).claims = s.claims := rfl
@[simp] theorem putStrand_stale (s : State) (c l : Nat) (x : Strand) : (putStrand s c l x).stale = s.stale := rfl
@[simp] theorem putStrand_staleWins (s : State) (c l : Nat) (x : Strand) : (putStrand s c l x).staleWins = s.staleWins := rfl
@[simp] theorem putStrand_config (s : State) (c l : Nat) (x : Strand) : (putStrand s c l x).config = s.config := rfl
@[simp] theorem putStrand_watches (s : State) (c l : Nat) (x : Strand) : (putStrand s c l x).watches = s.watches := rfl
@[simp] theorem putStrand_links (s : State) (c l : Nat) (x : Strand) : (putStrand s c l x).links = s.links := rfl
@[simp] theorem putStrand_copies (s : State) (c l : Nat) (x : Strand) : (putStrand s c l x).copies = s.copies := rfl
@[simp] theorem putStrand_channels (s : State) (c l : Nat) (x : Strand) : (putStrand s c l x).channels = s.channels := rfl
@[simp] theorem putStrand_groups (s : State) (c l : Nat) (x : Strand) : (putStrand s c l x).groups = s.groups := rfl
@[simp] theorem putStrand_parts (s : State) (c l : Nat) (x : Strand) : (putStrand s c l x).parts = s.parts := rfl
@[simp] theorem putStrand_reports (s : State) (c l : Nat) (x : Strand) : (putStrand s c l x).reports = s.reports := rfl
@[simp] theorem putStrand_owner (s : State) (c l : Nat) (x : Strand) : (putStrand s c l x).owner = s.owner := rfl
@[simp] theorem putStrand_epoch (s : State) (c l : Nat) (x : Strand) : (putStrand s c l x).epoch = s.epoch := rfl
@[simp] theorem putStrand_takeAt (s : State) (c l : Nat) (x : Strand) : (putStrand s c l x).takeAt = s.takeAt := rfl
@[simp] theorem putStrand_ports (s : State) (c l : Nat) (x : Strand) : (putStrand s c l x).ports = s.ports := rfl
@[simp] theorem putStrand_straits (s : State) (c l : Nat) (x : Strand) : (putStrand s c l x).straits = s.straits := rfl
@[simp] theorem putStrand_routes (s : State) (c l : Nat) (x : Strand) : (putStrand s c l x).routes = s.routes := rfl
@[simp] theorem putStrand_ring (s : State) (c l : Nat) (x : Strand) : (putStrand s c l x).ring = s.ring := rfl
@[simp] theorem putStrand_dropped (s : State) (c l : Nat) (x : Strand) : (putStrand s c l x).dropped = s.dropped := rfl
@[simp] theorem putStrand_errSeq (s : State) (c l : Nat) (x : Strand) : (putStrand s c l x).errSeq = s.errSeq := rfl
@[simp] theorem putStrand_merged (s : State) (c l : Nat) (x : Strand) : (putStrand s c l x).merged = s.merged := rfl
@[simp] theorem putStrand_errLog (s : State) (c l : Nat) (x : Strand) : (putStrand s c l x).errLog = s.errLog := rfl
@[simp] theorem putStrand_retire (s : State) (c l : Nat) (x : Strand) : (putStrand s c l x).retire = s.retire := rfl
@[simp] theorem putStrand_ptp (s : State) (c l : Nat) (x : Strand) : (putStrand s c l x).ptp = s.ptp := rfl
@[simp] theorem putStrand_pwrctl (s : State) (c l : Nat) (x : Strand) : (putStrand s c l x).pwrctl = s.pwrctl := rfl
@[simp] theorem putStrand_ramp (s : State) (c l : Nat) (x : Strand) : (putStrand s c l x).ramp = s.ramp := rfl
@[simp] theorem putStrand_telSeq (s : State) (c l : Nat) (x : Strand) : (putStrand s c l x).telSeq = s.telSeq := rfl
@[simp] theorem putStrand_telemetry (s : State) (c l : Nat) (x : Strand) : (putStrand s c l x).telemetry = s.telemetry := rfl
@[simp] theorem putStrand_telNext (s : State) (c l : Nat) (x : Strand) : (putStrand s c l x).telNext = s.telNext := rfl
@[simp] theorem putStrand_telWait (s : State) (c l : Nat) (x : Strand) : (putStrand s c l x).telWait = s.telWait := rfl
@[simp] theorem putStrand_fw (s : State) (c l : Nat) (x : Strand) : (putStrand s c l x).fw = s.fw := rfl
@[simp] theorem putStrand_flash (s : State) (c l : Nat) (x : Strand) : (putStrand s c l x).flash = s.flash := rfl
@[simp] theorem putStrand_uncommitted (s : State) (c l : Nat) (x : Strand) : (putStrand s c l x).uncommitted = s.uncommitted := rfl

/-! ### putCore -/

@[simp] theorem putCore_now (s : State) (c : Nat) (x : Core) : (putCore s c x).now = s.now := rfl
@[simp] theorem putCore_turns (s : State) (c : Nat) (x : Core) : (putCore s c x).turns = s.turns := rfl
@[simp] theorem putCore_agent (s : State) (c : Nat) (x : Core) : (putCore s c x).agent = s.agent := rfl
@[simp] theorem putCore_fresh (s : State) (c : Nat) (x : Core) : (putCore s c x).fresh = s.fresh := rfl
@[simp] theorem putCore_nextId (s : State) (c : Nat) (x : Core) : (putCore s c x).nextId = s.nextId := rfl
@[simp] theorem putCore_mem (s : State) (c : Nat) (x : Core) : (putCore s c x).mem = s.mem := rfl
@[simp] theorem putCore_poison (s : State) (c : Nat) (x : Core) : (putCore s c x).poison = s.poison := rfl
@[simp] theorem putCore_strands (s : State) (c : Nat) (x : Core) : (putCore s c x).strands = s.strands := rfl
@[simp] theorem putCore_blocks (s : State) (c : Nat) (x : Core) : (putCore s c x).blocks = s.blocks := rfl
@[simp] theorem putCore_hearths (s : State) (c : Nat) (x : Core) : (putCore s c x).hearths = s.hearths := rfl
@[simp] theorem putCore_qcfg (s : State) (c : Nat) (x : Core) : (putCore s c x).qcfg = s.qcfg := rfl
@[simp] theorem putCore_incs (s : State) (c : Nat) (x : Core) : (putCore s c x).incs = s.incs := rfl
@[simp] theorem putCore_oldBeats (s : State) (c : Nat) (x : Core) : (putCore s c x).oldBeats = s.oldBeats := rfl
@[simp] theorem putCore_lostBeats (s : State) (c : Nat) (x : Core) : (putCore s c x).lostBeats = s.lostBeats := rfl
@[simp] theorem putCore_drains (s : State) (c : Nat) (x : Core) : (putCore s c x).drains = s.drains := rfl
@[simp] theorem putCore_effects (s : State) (c : Nat) (x : Core) : (putCore s c x).effects = s.effects := rfl
@[simp] theorem putCore_msgs (s : State) (c : Nat) (x : Core) : (putCore s c x).msgs = s.msgs := rfl
@[simp] theorem putCore_records (s : State) (c : Nat) (x : Core) : (putCore s c x).records = s.records := rfl
@[simp] theorem putCore_credits (s : State) (c : Nat) (x : Core) : (putCore s c x).credits = s.credits := rfl
@[simp] theorem putCore_beats (s : State) (c : Nat) (x : Core) : (putCore s c x).beats = s.beats := rfl
@[simp] theorem putCore_heard (s : State) (c : Nat) (x : Core) : (putCore s c x).heard = s.heard := rfl
@[simp] theorem putCore_horizon (s : State) (c : Nat) (x : Core) : (putCore s c x).horizon = s.horizon := rfl
@[simp] theorem putCore_homeMap (s : State) (c : Nat) (x : Core) : (putCore s c x).homeMap = s.homeMap := rfl
@[simp] theorem putCore_owned (s : State) (c : Nat) (x : Core) : (putCore s c x).owned = s.owned := rfl
@[simp] theorem putCore_ownedBy (s : State) (c : Nat) (x : Core) : (putCore s c x).ownedBy = s.ownedBy := rfl
@[simp] theorem putCore_recalled (s : State) (c : Nat) (x : Core) : (putCore s c x).recalled = s.recalled := rfl
@[simp] theorem putCore_claims (s : State) (c : Nat) (x : Core) : (putCore s c x).claims = s.claims := rfl
@[simp] theorem putCore_stale (s : State) (c : Nat) (x : Core) : (putCore s c x).stale = s.stale := rfl
@[simp] theorem putCore_staleWins (s : State) (c : Nat) (x : Core) : (putCore s c x).staleWins = s.staleWins := rfl
@[simp] theorem putCore_config (s : State) (c : Nat) (x : Core) : (putCore s c x).config = s.config := rfl
@[simp] theorem putCore_watches (s : State) (c : Nat) (x : Core) : (putCore s c x).watches = s.watches := rfl
@[simp] theorem putCore_links (s : State) (c : Nat) (x : Core) : (putCore s c x).links = s.links := rfl
@[simp] theorem putCore_copies (s : State) (c : Nat) (x : Core) : (putCore s c x).copies = s.copies := rfl
@[simp] theorem putCore_channels (s : State) (c : Nat) (x : Core) : (putCore s c x).channels = s.channels := rfl
@[simp] theorem putCore_groups (s : State) (c : Nat) (x : Core) : (putCore s c x).groups = s.groups := rfl
@[simp] theorem putCore_parts (s : State) (c : Nat) (x : Core) : (putCore s c x).parts = s.parts := rfl
@[simp] theorem putCore_reports (s : State) (c : Nat) (x : Core) : (putCore s c x).reports = s.reports := rfl
@[simp] theorem putCore_owner (s : State) (c : Nat) (x : Core) : (putCore s c x).owner = s.owner := rfl
@[simp] theorem putCore_epoch (s : State) (c : Nat) (x : Core) : (putCore s c x).epoch = s.epoch := rfl
@[simp] theorem putCore_takeAt (s : State) (c : Nat) (x : Core) : (putCore s c x).takeAt = s.takeAt := rfl
@[simp] theorem putCore_ports (s : State) (c : Nat) (x : Core) : (putCore s c x).ports = s.ports := rfl
@[simp] theorem putCore_straits (s : State) (c : Nat) (x : Core) : (putCore s c x).straits = s.straits := rfl
@[simp] theorem putCore_routes (s : State) (c : Nat) (x : Core) : (putCore s c x).routes = s.routes := rfl
@[simp] theorem putCore_ring (s : State) (c : Nat) (x : Core) : (putCore s c x).ring = s.ring := rfl
@[simp] theorem putCore_dropped (s : State) (c : Nat) (x : Core) : (putCore s c x).dropped = s.dropped := rfl
@[simp] theorem putCore_errSeq (s : State) (c : Nat) (x : Core) : (putCore s c x).errSeq = s.errSeq := rfl
@[simp] theorem putCore_merged (s : State) (c : Nat) (x : Core) : (putCore s c x).merged = s.merged := rfl
@[simp] theorem putCore_errLog (s : State) (c : Nat) (x : Core) : (putCore s c x).errLog = s.errLog := rfl
@[simp] theorem putCore_retire (s : State) (c : Nat) (x : Core) : (putCore s c x).retire = s.retire := rfl
@[simp] theorem putCore_ptp (s : State) (c : Nat) (x : Core) : (putCore s c x).ptp = s.ptp := rfl
@[simp] theorem putCore_pwrctl (s : State) (c : Nat) (x : Core) : (putCore s c x).pwrctl = s.pwrctl := rfl
@[simp] theorem putCore_ramp (s : State) (c : Nat) (x : Core) : (putCore s c x).ramp = s.ramp := rfl
@[simp] theorem putCore_telSeq (s : State) (c : Nat) (x : Core) : (putCore s c x).telSeq = s.telSeq := rfl
@[simp] theorem putCore_telemetry (s : State) (c : Nat) (x : Core) : (putCore s c x).telemetry = s.telemetry := rfl
@[simp] theorem putCore_telNext (s : State) (c : Nat) (x : Core) : (putCore s c x).telNext = s.telNext := rfl
@[simp] theorem putCore_telWait (s : State) (c : Nat) (x : Core) : (putCore s c x).telWait = s.telWait := rfl
@[simp] theorem putCore_fw (s : State) (c : Nat) (x : Core) : (putCore s c x).fw = s.fw := rfl
@[simp] theorem putCore_flash (s : State) (c : Nat) (x : Core) : (putCore s c x).flash = s.flash := rfl
@[simp] theorem putCore_uncommitted (s : State) (c : Nat) (x : Core) : (putCore s c x).uncommitted = s.uncommitted := rfl

/-! ### modCore -/

@[simp] theorem modCore_now (s : State) (c : Nat) (x : Core → Core) : (modCore s c x).now = s.now := rfl
@[simp] theorem modCore_turns (s : State) (c : Nat) (x : Core → Core) : (modCore s c x).turns = s.turns := rfl
@[simp] theorem modCore_agent (s : State) (c : Nat) (x : Core → Core) : (modCore s c x).agent = s.agent := rfl
@[simp] theorem modCore_fresh (s : State) (c : Nat) (x : Core → Core) : (modCore s c x).fresh = s.fresh := rfl
@[simp] theorem modCore_nextId (s : State) (c : Nat) (x : Core → Core) : (modCore s c x).nextId = s.nextId := rfl
@[simp] theorem modCore_mem (s : State) (c : Nat) (x : Core → Core) : (modCore s c x).mem = s.mem := rfl
@[simp] theorem modCore_poison (s : State) (c : Nat) (x : Core → Core) : (modCore s c x).poison = s.poison := rfl
@[simp] theorem modCore_strands (s : State) (c : Nat) (x : Core → Core) : (modCore s c x).strands = s.strands := rfl
@[simp] theorem modCore_blocks (s : State) (c : Nat) (x : Core → Core) : (modCore s c x).blocks = s.blocks := rfl
@[simp] theorem modCore_hearths (s : State) (c : Nat) (x : Core → Core) : (modCore s c x).hearths = s.hearths := rfl
@[simp] theorem modCore_qcfg (s : State) (c : Nat) (x : Core → Core) : (modCore s c x).qcfg = s.qcfg := rfl
@[simp] theorem modCore_incs (s : State) (c : Nat) (x : Core → Core) : (modCore s c x).incs = s.incs := rfl
@[simp] theorem modCore_oldBeats (s : State) (c : Nat) (x : Core → Core) : (modCore s c x).oldBeats = s.oldBeats := rfl
@[simp] theorem modCore_lostBeats (s : State) (c : Nat) (x : Core → Core) : (modCore s c x).lostBeats = s.lostBeats := rfl
@[simp] theorem modCore_drains (s : State) (c : Nat) (x : Core → Core) : (modCore s c x).drains = s.drains := rfl
@[simp] theorem modCore_effects (s : State) (c : Nat) (x : Core → Core) : (modCore s c x).effects = s.effects := rfl
@[simp] theorem modCore_msgs (s : State) (c : Nat) (x : Core → Core) : (modCore s c x).msgs = s.msgs := rfl
@[simp] theorem modCore_records (s : State) (c : Nat) (x : Core → Core) : (modCore s c x).records = s.records := rfl
@[simp] theorem modCore_credits (s : State) (c : Nat) (x : Core → Core) : (modCore s c x).credits = s.credits := rfl
@[simp] theorem modCore_beats (s : State) (c : Nat) (x : Core → Core) : (modCore s c x).beats = s.beats := rfl
@[simp] theorem modCore_heard (s : State) (c : Nat) (x : Core → Core) : (modCore s c x).heard = s.heard := rfl
@[simp] theorem modCore_horizon (s : State) (c : Nat) (x : Core → Core) : (modCore s c x).horizon = s.horizon := rfl
@[simp] theorem modCore_homeMap (s : State) (c : Nat) (x : Core → Core) : (modCore s c x).homeMap = s.homeMap := rfl
@[simp] theorem modCore_owned (s : State) (c : Nat) (x : Core → Core) : (modCore s c x).owned = s.owned := rfl
@[simp] theorem modCore_ownedBy (s : State) (c : Nat) (x : Core → Core) : (modCore s c x).ownedBy = s.ownedBy := rfl
@[simp] theorem modCore_recalled (s : State) (c : Nat) (x : Core → Core) : (modCore s c x).recalled = s.recalled := rfl
@[simp] theorem modCore_claims (s : State) (c : Nat) (x : Core → Core) : (modCore s c x).claims = s.claims := rfl
@[simp] theorem modCore_stale (s : State) (c : Nat) (x : Core → Core) : (modCore s c x).stale = s.stale := rfl
@[simp] theorem modCore_staleWins (s : State) (c : Nat) (x : Core → Core) : (modCore s c x).staleWins = s.staleWins := rfl
@[simp] theorem modCore_config (s : State) (c : Nat) (x : Core → Core) : (modCore s c x).config = s.config := rfl
@[simp] theorem modCore_watches (s : State) (c : Nat) (x : Core → Core) : (modCore s c x).watches = s.watches := rfl
@[simp] theorem modCore_links (s : State) (c : Nat) (x : Core → Core) : (modCore s c x).links = s.links := rfl
@[simp] theorem modCore_copies (s : State) (c : Nat) (x : Core → Core) : (modCore s c x).copies = s.copies := rfl
@[simp] theorem modCore_channels (s : State) (c : Nat) (x : Core → Core) : (modCore s c x).channels = s.channels := rfl
@[simp] theorem modCore_groups (s : State) (c : Nat) (x : Core → Core) : (modCore s c x).groups = s.groups := rfl
@[simp] theorem modCore_parts (s : State) (c : Nat) (x : Core → Core) : (modCore s c x).parts = s.parts := rfl
@[simp] theorem modCore_reports (s : State) (c : Nat) (x : Core → Core) : (modCore s c x).reports = s.reports := rfl
@[simp] theorem modCore_owner (s : State) (c : Nat) (x : Core → Core) : (modCore s c x).owner = s.owner := rfl
@[simp] theorem modCore_epoch (s : State) (c : Nat) (x : Core → Core) : (modCore s c x).epoch = s.epoch := rfl
@[simp] theorem modCore_takeAt (s : State) (c : Nat) (x : Core → Core) : (modCore s c x).takeAt = s.takeAt := rfl
@[simp] theorem modCore_ports (s : State) (c : Nat) (x : Core → Core) : (modCore s c x).ports = s.ports := rfl
@[simp] theorem modCore_straits (s : State) (c : Nat) (x : Core → Core) : (modCore s c x).straits = s.straits := rfl
@[simp] theorem modCore_routes (s : State) (c : Nat) (x : Core → Core) : (modCore s c x).routes = s.routes := rfl
@[simp] theorem modCore_ring (s : State) (c : Nat) (x : Core → Core) : (modCore s c x).ring = s.ring := rfl
@[simp] theorem modCore_dropped (s : State) (c : Nat) (x : Core → Core) : (modCore s c x).dropped = s.dropped := rfl
@[simp] theorem modCore_errSeq (s : State) (c : Nat) (x : Core → Core) : (modCore s c x).errSeq = s.errSeq := rfl
@[simp] theorem modCore_merged (s : State) (c : Nat) (x : Core → Core) : (modCore s c x).merged = s.merged := rfl
@[simp] theorem modCore_errLog (s : State) (c : Nat) (x : Core → Core) : (modCore s c x).errLog = s.errLog := rfl
@[simp] theorem modCore_retire (s : State) (c : Nat) (x : Core → Core) : (modCore s c x).retire = s.retire := rfl
@[simp] theorem modCore_ptp (s : State) (c : Nat) (x : Core → Core) : (modCore s c x).ptp = s.ptp := rfl
@[simp] theorem modCore_pwrctl (s : State) (c : Nat) (x : Core → Core) : (modCore s c x).pwrctl = s.pwrctl := rfl
@[simp] theorem modCore_ramp (s : State) (c : Nat) (x : Core → Core) : (modCore s c x).ramp = s.ramp := rfl
@[simp] theorem modCore_telSeq (s : State) (c : Nat) (x : Core → Core) : (modCore s c x).telSeq = s.telSeq := rfl
@[simp] theorem modCore_telemetry (s : State) (c : Nat) (x : Core → Core) : (modCore s c x).telemetry = s.telemetry := rfl
@[simp] theorem modCore_telNext (s : State) (c : Nat) (x : Core → Core) : (modCore s c x).telNext = s.telNext := rfl
@[simp] theorem modCore_telWait (s : State) (c : Nat) (x : Core → Core) : (modCore s c x).telWait = s.telWait := rfl
@[simp] theorem modCore_fw (s : State) (c : Nat) (x : Core → Core) : (modCore s c x).fw = s.fw := rfl
@[simp] theorem modCore_flash (s : State) (c : Nat) (x : Core → Core) : (modCore s c x).flash = s.flash := rfl
@[simp] theorem modCore_uncommitted (s : State) (c : Nat) (x : Core → Core) : (modCore s c x).uncommitted = s.uncommitted := rfl

/-! ### putPart -/

@[simp] theorem putPart_now (s : State) (p : Nat) (x : Partition) : (putPart s p x).now = s.now := rfl
@[simp] theorem putPart_turns (s : State) (p : Nat) (x : Partition) : (putPart s p x).turns = s.turns := rfl
@[simp] theorem putPart_agent (s : State) (p : Nat) (x : Partition) : (putPart s p x).agent = s.agent := rfl
@[simp] theorem putPart_fresh (s : State) (p : Nat) (x : Partition) : (putPart s p x).fresh = s.fresh := rfl
@[simp] theorem putPart_nextId (s : State) (p : Nat) (x : Partition) : (putPart s p x).nextId = s.nextId := rfl
@[simp] theorem putPart_mem (s : State) (p : Nat) (x : Partition) : (putPart s p x).mem = s.mem := rfl
@[simp] theorem putPart_poison (s : State) (p : Nat) (x : Partition) : (putPart s p x).poison = s.poison := rfl
@[simp] theorem putPart_strands (s : State) (p : Nat) (x : Partition) : (putPart s p x).strands = s.strands := rfl
@[simp] theorem putPart_blocks (s : State) (p : Nat) (x : Partition) : (putPart s p x).blocks = s.blocks := rfl
@[simp] theorem putPart_cores (s : State) (p : Nat) (x : Partition) : (putPart s p x).cores = s.cores := rfl
@[simp] theorem putPart_hearths (s : State) (p : Nat) (x : Partition) : (putPart s p x).hearths = s.hearths := rfl
@[simp] theorem putPart_qcfg (s : State) (p : Nat) (x : Partition) : (putPart s p x).qcfg = s.qcfg := rfl
@[simp] theorem putPart_incs (s : State) (p : Nat) (x : Partition) : (putPart s p x).incs = s.incs := rfl
@[simp] theorem putPart_oldBeats (s : State) (p : Nat) (x : Partition) : (putPart s p x).oldBeats = s.oldBeats := rfl
@[simp] theorem putPart_lostBeats (s : State) (p : Nat) (x : Partition) : (putPart s p x).lostBeats = s.lostBeats := rfl
@[simp] theorem putPart_drains (s : State) (p : Nat) (x : Partition) : (putPart s p x).drains = s.drains := rfl
@[simp] theorem putPart_effects (s : State) (p : Nat) (x : Partition) : (putPart s p x).effects = s.effects := rfl
@[simp] theorem putPart_msgs (s : State) (p : Nat) (x : Partition) : (putPart s p x).msgs = s.msgs := rfl
@[simp] theorem putPart_records (s : State) (p : Nat) (x : Partition) : (putPart s p x).records = s.records := rfl
@[simp] theorem putPart_credits (s : State) (p : Nat) (x : Partition) : (putPart s p x).credits = s.credits := rfl
@[simp] theorem putPart_beats (s : State) (p : Nat) (x : Partition) : (putPart s p x).beats = s.beats := rfl
@[simp] theorem putPart_heard (s : State) (p : Nat) (x : Partition) : (putPart s p x).heard = s.heard := rfl
@[simp] theorem putPart_horizon (s : State) (p : Nat) (x : Partition) : (putPart s p x).horizon = s.horizon := rfl
@[simp] theorem putPart_homeMap (s : State) (p : Nat) (x : Partition) : (putPart s p x).homeMap = s.homeMap := rfl
@[simp] theorem putPart_owned (s : State) (p : Nat) (x : Partition) : (putPart s p x).owned = s.owned := rfl
@[simp] theorem putPart_ownedBy (s : State) (p : Nat) (x : Partition) : (putPart s p x).ownedBy = s.ownedBy := rfl
@[simp] theorem putPart_recalled (s : State) (p : Nat) (x : Partition) : (putPart s p x).recalled = s.recalled := rfl
@[simp] theorem putPart_claims (s : State) (p : Nat) (x : Partition) : (putPart s p x).claims = s.claims := rfl
@[simp] theorem putPart_stale (s : State) (p : Nat) (x : Partition) : (putPart s p x).stale = s.stale := rfl
@[simp] theorem putPart_staleWins (s : State) (p : Nat) (x : Partition) : (putPart s p x).staleWins = s.staleWins := rfl
@[simp] theorem putPart_config (s : State) (p : Nat) (x : Partition) : (putPart s p x).config = s.config := rfl
@[simp] theorem putPart_watches (s : State) (p : Nat) (x : Partition) : (putPart s p x).watches = s.watches := rfl
@[simp] theorem putPart_links (s : State) (p : Nat) (x : Partition) : (putPart s p x).links = s.links := rfl
@[simp] theorem putPart_copies (s : State) (p : Nat) (x : Partition) : (putPart s p x).copies = s.copies := rfl
@[simp] theorem putPart_channels (s : State) (p : Nat) (x : Partition) : (putPart s p x).channels = s.channels := rfl
@[simp] theorem putPart_groups (s : State) (p : Nat) (x : Partition) : (putPart s p x).groups = s.groups := rfl
@[simp] theorem putPart_reports (s : State) (p : Nat) (x : Partition) : (putPart s p x).reports = s.reports := rfl
@[simp] theorem putPart_owner (s : State) (p : Nat) (x : Partition) : (putPart s p x).owner = s.owner := rfl
@[simp] theorem putPart_epoch (s : State) (p : Nat) (x : Partition) : (putPart s p x).epoch = s.epoch := rfl
@[simp] theorem putPart_takeAt (s : State) (p : Nat) (x : Partition) : (putPart s p x).takeAt = s.takeAt := rfl
@[simp] theorem putPart_ports (s : State) (p : Nat) (x : Partition) : (putPart s p x).ports = s.ports := rfl
@[simp] theorem putPart_straits (s : State) (p : Nat) (x : Partition) : (putPart s p x).straits = s.straits := rfl
@[simp] theorem putPart_routes (s : State) (p : Nat) (x : Partition) : (putPart s p x).routes = s.routes := rfl
@[simp] theorem putPart_ring (s : State) (p : Nat) (x : Partition) : (putPart s p x).ring = s.ring := rfl
@[simp] theorem putPart_dropped (s : State) (p : Nat) (x : Partition) : (putPart s p x).dropped = s.dropped := rfl
@[simp] theorem putPart_errSeq (s : State) (p : Nat) (x : Partition) : (putPart s p x).errSeq = s.errSeq := rfl
@[simp] theorem putPart_merged (s : State) (p : Nat) (x : Partition) : (putPart s p x).merged = s.merged := rfl
@[simp] theorem putPart_errLog (s : State) (p : Nat) (x : Partition) : (putPart s p x).errLog = s.errLog := rfl
@[simp] theorem putPart_retire (s : State) (p : Nat) (x : Partition) : (putPart s p x).retire = s.retire := rfl
@[simp] theorem putPart_ptp (s : State) (p : Nat) (x : Partition) : (putPart s p x).ptp = s.ptp := rfl
@[simp] theorem putPart_pwrctl (s : State) (p : Nat) (x : Partition) : (putPart s p x).pwrctl = s.pwrctl := rfl
@[simp] theorem putPart_ramp (s : State) (p : Nat) (x : Partition) : (putPart s p x).ramp = s.ramp := rfl
@[simp] theorem putPart_telSeq (s : State) (p : Nat) (x : Partition) : (putPart s p x).telSeq = s.telSeq := rfl
@[simp] theorem putPart_telemetry (s : State) (p : Nat) (x : Partition) : (putPart s p x).telemetry = s.telemetry := rfl
@[simp] theorem putPart_telNext (s : State) (p : Nat) (x : Partition) : (putPart s p x).telNext = s.telNext := rfl
@[simp] theorem putPart_telWait (s : State) (p : Nat) (x : Partition) : (putPart s p x).telWait = s.telWait := rfl
@[simp] theorem putPart_fw (s : State) (p : Nat) (x : Partition) : (putPart s p x).fw = s.fw := rfl
@[simp] theorem putPart_flash (s : State) (p : Nat) (x : Partition) : (putPart s p x).flash = s.flash := rfl
@[simp] theorem putPart_uncommitted (s : State) (p : Nat) (x : Partition) : (putPart s p x).uncommitted = s.uncommitted := rfl

/-! ### modPart -/

@[simp] theorem modPart_now (s : State) (p : Nat) (x : Partition → Partition) : (modPart s p x).now = s.now := rfl
@[simp] theorem modPart_turns (s : State) (p : Nat) (x : Partition → Partition) : (modPart s p x).turns = s.turns := rfl
@[simp] theorem modPart_agent (s : State) (p : Nat) (x : Partition → Partition) : (modPart s p x).agent = s.agent := rfl
@[simp] theorem modPart_fresh (s : State) (p : Nat) (x : Partition → Partition) : (modPart s p x).fresh = s.fresh := rfl
@[simp] theorem modPart_nextId (s : State) (p : Nat) (x : Partition → Partition) : (modPart s p x).nextId = s.nextId := rfl
@[simp] theorem modPart_mem (s : State) (p : Nat) (x : Partition → Partition) : (modPart s p x).mem = s.mem := rfl
@[simp] theorem modPart_poison (s : State) (p : Nat) (x : Partition → Partition) : (modPart s p x).poison = s.poison := rfl
@[simp] theorem modPart_strands (s : State) (p : Nat) (x : Partition → Partition) : (modPart s p x).strands = s.strands := rfl
@[simp] theorem modPart_blocks (s : State) (p : Nat) (x : Partition → Partition) : (modPart s p x).blocks = s.blocks := rfl
@[simp] theorem modPart_cores (s : State) (p : Nat) (x : Partition → Partition) : (modPart s p x).cores = s.cores := rfl
@[simp] theorem modPart_hearths (s : State) (p : Nat) (x : Partition → Partition) : (modPart s p x).hearths = s.hearths := rfl
@[simp] theorem modPart_qcfg (s : State) (p : Nat) (x : Partition → Partition) : (modPart s p x).qcfg = s.qcfg := rfl
@[simp] theorem modPart_incs (s : State) (p : Nat) (x : Partition → Partition) : (modPart s p x).incs = s.incs := rfl
@[simp] theorem modPart_oldBeats (s : State) (p : Nat) (x : Partition → Partition) : (modPart s p x).oldBeats = s.oldBeats := rfl
@[simp] theorem modPart_lostBeats (s : State) (p : Nat) (x : Partition → Partition) : (modPart s p x).lostBeats = s.lostBeats := rfl
@[simp] theorem modPart_drains (s : State) (p : Nat) (x : Partition → Partition) : (modPart s p x).drains = s.drains := rfl
@[simp] theorem modPart_effects (s : State) (p : Nat) (x : Partition → Partition) : (modPart s p x).effects = s.effects := rfl
@[simp] theorem modPart_msgs (s : State) (p : Nat) (x : Partition → Partition) : (modPart s p x).msgs = s.msgs := rfl
@[simp] theorem modPart_records (s : State) (p : Nat) (x : Partition → Partition) : (modPart s p x).records = s.records := rfl
@[simp] theorem modPart_credits (s : State) (p : Nat) (x : Partition → Partition) : (modPart s p x).credits = s.credits := rfl
@[simp] theorem modPart_beats (s : State) (p : Nat) (x : Partition → Partition) : (modPart s p x).beats = s.beats := rfl
@[simp] theorem modPart_heard (s : State) (p : Nat) (x : Partition → Partition) : (modPart s p x).heard = s.heard := rfl
@[simp] theorem modPart_horizon (s : State) (p : Nat) (x : Partition → Partition) : (modPart s p x).horizon = s.horizon := rfl
@[simp] theorem modPart_homeMap (s : State) (p : Nat) (x : Partition → Partition) : (modPart s p x).homeMap = s.homeMap := rfl
@[simp] theorem modPart_owned (s : State) (p : Nat) (x : Partition → Partition) : (modPart s p x).owned = s.owned := rfl
@[simp] theorem modPart_ownedBy (s : State) (p : Nat) (x : Partition → Partition) : (modPart s p x).ownedBy = s.ownedBy := rfl
@[simp] theorem modPart_recalled (s : State) (p : Nat) (x : Partition → Partition) : (modPart s p x).recalled = s.recalled := rfl
@[simp] theorem modPart_claims (s : State) (p : Nat) (x : Partition → Partition) : (modPart s p x).claims = s.claims := rfl
@[simp] theorem modPart_stale (s : State) (p : Nat) (x : Partition → Partition) : (modPart s p x).stale = s.stale := rfl
@[simp] theorem modPart_staleWins (s : State) (p : Nat) (x : Partition → Partition) : (modPart s p x).staleWins = s.staleWins := rfl
@[simp] theorem modPart_config (s : State) (p : Nat) (x : Partition → Partition) : (modPart s p x).config = s.config := rfl
@[simp] theorem modPart_watches (s : State) (p : Nat) (x : Partition → Partition) : (modPart s p x).watches = s.watches := rfl
@[simp] theorem modPart_links (s : State) (p : Nat) (x : Partition → Partition) : (modPart s p x).links = s.links := rfl
@[simp] theorem modPart_copies (s : State) (p : Nat) (x : Partition → Partition) : (modPart s p x).copies = s.copies := rfl
@[simp] theorem modPart_channels (s : State) (p : Nat) (x : Partition → Partition) : (modPart s p x).channels = s.channels := rfl
@[simp] theorem modPart_groups (s : State) (p : Nat) (x : Partition → Partition) : (modPart s p x).groups = s.groups := rfl
@[simp] theorem modPart_reports (s : State) (p : Nat) (x : Partition → Partition) : (modPart s p x).reports = s.reports := rfl
@[simp] theorem modPart_owner (s : State) (p : Nat) (x : Partition → Partition) : (modPart s p x).owner = s.owner := rfl
@[simp] theorem modPart_epoch (s : State) (p : Nat) (x : Partition → Partition) : (modPart s p x).epoch = s.epoch := rfl
@[simp] theorem modPart_takeAt (s : State) (p : Nat) (x : Partition → Partition) : (modPart s p x).takeAt = s.takeAt := rfl
@[simp] theorem modPart_ports (s : State) (p : Nat) (x : Partition → Partition) : (modPart s p x).ports = s.ports := rfl
@[simp] theorem modPart_straits (s : State) (p : Nat) (x : Partition → Partition) : (modPart s p x).straits = s.straits := rfl
@[simp] theorem modPart_routes (s : State) (p : Nat) (x : Partition → Partition) : (modPart s p x).routes = s.routes := rfl
@[simp] theorem modPart_ring (s : State) (p : Nat) (x : Partition → Partition) : (modPart s p x).ring = s.ring := rfl
@[simp] theorem modPart_dropped (s : State) (p : Nat) (x : Partition → Partition) : (modPart s p x).dropped = s.dropped := rfl
@[simp] theorem modPart_errSeq (s : State) (p : Nat) (x : Partition → Partition) : (modPart s p x).errSeq = s.errSeq := rfl
@[simp] theorem modPart_merged (s : State) (p : Nat) (x : Partition → Partition) : (modPart s p x).merged = s.merged := rfl
@[simp] theorem modPart_errLog (s : State) (p : Nat) (x : Partition → Partition) : (modPart s p x).errLog = s.errLog := rfl
@[simp] theorem modPart_retire (s : State) (p : Nat) (x : Partition → Partition) : (modPart s p x).retire = s.retire := rfl
@[simp] theorem modPart_ptp (s : State) (p : Nat) (x : Partition → Partition) : (modPart s p x).ptp = s.ptp := rfl
@[simp] theorem modPart_pwrctl (s : State) (p : Nat) (x : Partition → Partition) : (modPart s p x).pwrctl = s.pwrctl := rfl
@[simp] theorem modPart_ramp (s : State) (p : Nat) (x : Partition → Partition) : (modPart s p x).ramp = s.ramp := rfl
@[simp] theorem modPart_telSeq (s : State) (p : Nat) (x : Partition → Partition) : (modPart s p x).telSeq = s.telSeq := rfl
@[simp] theorem modPart_telemetry (s : State) (p : Nat) (x : Partition → Partition) : (modPart s p x).telemetry = s.telemetry := rfl
@[simp] theorem modPart_telNext (s : State) (p : Nat) (x : Partition → Partition) : (modPart s p x).telNext = s.telNext := rfl
@[simp] theorem modPart_telWait (s : State) (p : Nat) (x : Partition → Partition) : (modPart s p x).telWait = s.telWait := rfl
@[simp] theorem modPart_fw (s : State) (p : Nat) (x : Partition → Partition) : (modPart s p x).fw = s.fw := rfl
@[simp] theorem modPart_flash (s : State) (p : Nat) (x : Partition → Partition) : (modPart s p x).flash = s.flash := rfl
@[simp] theorem modPart_uncommitted (s : State) (p : Nat) (x : Partition → Partition) : (modPart s p x).uncommitted = s.uncommitted := rfl

/-! ### modBlock -/

@[simp] theorem modBlock_now (s : State) (b : Nat) (x : Block → Block) : (modBlock s b x).now = s.now := rfl
@[simp] theorem modBlock_turns (s : State) (b : Nat) (x : Block → Block) : (modBlock s b x).turns = s.turns := rfl
@[simp] theorem modBlock_agent (s : State) (b : Nat) (x : Block → Block) : (modBlock s b x).agent = s.agent := rfl
@[simp] theorem modBlock_fresh (s : State) (b : Nat) (x : Block → Block) : (modBlock s b x).fresh = s.fresh := rfl
@[simp] theorem modBlock_nextId (s : State) (b : Nat) (x : Block → Block) : (modBlock s b x).nextId = s.nextId := rfl
@[simp] theorem modBlock_mem (s : State) (b : Nat) (x : Block → Block) : (modBlock s b x).mem = s.mem := rfl
@[simp] theorem modBlock_poison (s : State) (b : Nat) (x : Block → Block) : (modBlock s b x).poison = s.poison := rfl
@[simp] theorem modBlock_strands (s : State) (b : Nat) (x : Block → Block) : (modBlock s b x).strands = s.strands := rfl
@[simp] theorem modBlock_cores (s : State) (b : Nat) (x : Block → Block) : (modBlock s b x).cores = s.cores := rfl
@[simp] theorem modBlock_hearths (s : State) (b : Nat) (x : Block → Block) : (modBlock s b x).hearths = s.hearths := rfl
@[simp] theorem modBlock_qcfg (s : State) (b : Nat) (x : Block → Block) : (modBlock s b x).qcfg = s.qcfg := rfl
@[simp] theorem modBlock_incs (s : State) (b : Nat) (x : Block → Block) : (modBlock s b x).incs = s.incs := rfl
@[simp] theorem modBlock_oldBeats (s : State) (b : Nat) (x : Block → Block) : (modBlock s b x).oldBeats = s.oldBeats := rfl
@[simp] theorem modBlock_lostBeats (s : State) (b : Nat) (x : Block → Block) : (modBlock s b x).lostBeats = s.lostBeats := rfl
@[simp] theorem modBlock_drains (s : State) (b : Nat) (x : Block → Block) : (modBlock s b x).drains = s.drains := rfl
@[simp] theorem modBlock_effects (s : State) (b : Nat) (x : Block → Block) : (modBlock s b x).effects = s.effects := rfl
@[simp] theorem modBlock_msgs (s : State) (b : Nat) (x : Block → Block) : (modBlock s b x).msgs = s.msgs := rfl
@[simp] theorem modBlock_records (s : State) (b : Nat) (x : Block → Block) : (modBlock s b x).records = s.records := rfl
@[simp] theorem modBlock_credits (s : State) (b : Nat) (x : Block → Block) : (modBlock s b x).credits = s.credits := rfl
@[simp] theorem modBlock_beats (s : State) (b : Nat) (x : Block → Block) : (modBlock s b x).beats = s.beats := rfl
@[simp] theorem modBlock_heard (s : State) (b : Nat) (x : Block → Block) : (modBlock s b x).heard = s.heard := rfl
@[simp] theorem modBlock_horizon (s : State) (b : Nat) (x : Block → Block) : (modBlock s b x).horizon = s.horizon := rfl
@[simp] theorem modBlock_homeMap (s : State) (b : Nat) (x : Block → Block) : (modBlock s b x).homeMap = s.homeMap := rfl
@[simp] theorem modBlock_owned (s : State) (b : Nat) (x : Block → Block) : (modBlock s b x).owned = s.owned := rfl
@[simp] theorem modBlock_ownedBy (s : State) (b : Nat) (x : Block → Block) : (modBlock s b x).ownedBy = s.ownedBy := rfl
@[simp] theorem modBlock_recalled (s : State) (b : Nat) (x : Block → Block) : (modBlock s b x).recalled = s.recalled := rfl
@[simp] theorem modBlock_claims (s : State) (b : Nat) (x : Block → Block) : (modBlock s b x).claims = s.claims := rfl
@[simp] theorem modBlock_stale (s : State) (b : Nat) (x : Block → Block) : (modBlock s b x).stale = s.stale := rfl
@[simp] theorem modBlock_staleWins (s : State) (b : Nat) (x : Block → Block) : (modBlock s b x).staleWins = s.staleWins := rfl
@[simp] theorem modBlock_config (s : State) (b : Nat) (x : Block → Block) : (modBlock s b x).config = s.config := rfl
@[simp] theorem modBlock_watches (s : State) (b : Nat) (x : Block → Block) : (modBlock s b x).watches = s.watches := rfl
@[simp] theorem modBlock_links (s : State) (b : Nat) (x : Block → Block) : (modBlock s b x).links = s.links := rfl
@[simp] theorem modBlock_copies (s : State) (b : Nat) (x : Block → Block) : (modBlock s b x).copies = s.copies := rfl
@[simp] theorem modBlock_channels (s : State) (b : Nat) (x : Block → Block) : (modBlock s b x).channels = s.channels := rfl
@[simp] theorem modBlock_groups (s : State) (b : Nat) (x : Block → Block) : (modBlock s b x).groups = s.groups := rfl
@[simp] theorem modBlock_parts (s : State) (b : Nat) (x : Block → Block) : (modBlock s b x).parts = s.parts := rfl
@[simp] theorem modBlock_reports (s : State) (b : Nat) (x : Block → Block) : (modBlock s b x).reports = s.reports := rfl
@[simp] theorem modBlock_owner (s : State) (b : Nat) (x : Block → Block) : (modBlock s b x).owner = s.owner := rfl
@[simp] theorem modBlock_epoch (s : State) (b : Nat) (x : Block → Block) : (modBlock s b x).epoch = s.epoch := rfl
@[simp] theorem modBlock_takeAt (s : State) (b : Nat) (x : Block → Block) : (modBlock s b x).takeAt = s.takeAt := rfl
@[simp] theorem modBlock_ports (s : State) (b : Nat) (x : Block → Block) : (modBlock s b x).ports = s.ports := rfl
@[simp] theorem modBlock_straits (s : State) (b : Nat) (x : Block → Block) : (modBlock s b x).straits = s.straits := rfl
@[simp] theorem modBlock_routes (s : State) (b : Nat) (x : Block → Block) : (modBlock s b x).routes = s.routes := rfl
@[simp] theorem modBlock_ring (s : State) (b : Nat) (x : Block → Block) : (modBlock s b x).ring = s.ring := rfl
@[simp] theorem modBlock_dropped (s : State) (b : Nat) (x : Block → Block) : (modBlock s b x).dropped = s.dropped := rfl
@[simp] theorem modBlock_errSeq (s : State) (b : Nat) (x : Block → Block) : (modBlock s b x).errSeq = s.errSeq := rfl
@[simp] theorem modBlock_merged (s : State) (b : Nat) (x : Block → Block) : (modBlock s b x).merged = s.merged := rfl
@[simp] theorem modBlock_errLog (s : State) (b : Nat) (x : Block → Block) : (modBlock s b x).errLog = s.errLog := rfl
@[simp] theorem modBlock_retire (s : State) (b : Nat) (x : Block → Block) : (modBlock s b x).retire = s.retire := rfl
@[simp] theorem modBlock_ptp (s : State) (b : Nat) (x : Block → Block) : (modBlock s b x).ptp = s.ptp := rfl
@[simp] theorem modBlock_pwrctl (s : State) (b : Nat) (x : Block → Block) : (modBlock s b x).pwrctl = s.pwrctl := rfl
@[simp] theorem modBlock_ramp (s : State) (b : Nat) (x : Block → Block) : (modBlock s b x).ramp = s.ramp := rfl
@[simp] theorem modBlock_telSeq (s : State) (b : Nat) (x : Block → Block) : (modBlock s b x).telSeq = s.telSeq := rfl
@[simp] theorem modBlock_telemetry (s : State) (b : Nat) (x : Block → Block) : (modBlock s b x).telemetry = s.telemetry := rfl
@[simp] theorem modBlock_telNext (s : State) (b : Nat) (x : Block → Block) : (modBlock s b x).telNext = s.telNext := rfl
@[simp] theorem modBlock_telWait (s : State) (b : Nat) (x : Block → Block) : (modBlock s b x).telWait = s.telWait := rfl
@[simp] theorem modBlock_fw (s : State) (b : Nat) (x : Block → Block) : (modBlock s b x).fw = s.fw := rfl
@[simp] theorem modBlock_flash (s : State) (b : Nat) (x : Block → Block) : (modBlock s b x).flash = s.flash := rfl
@[simp] theorem modBlock_uncommitted (s : State) (b : Nat) (x : Block → Block) : (modBlock s b x).uncommitted = s.uncommitted := rfl

/-! ### Reading after an update -/

theorem strandAt_putStrand (s : State) (c l : Nat) (t : Strand) : strandAt (putStrand s c l t) c l = some t :=
  mget_mset_self _ _ _

/-- A strand in another slot is as it was. -/
theorem strands_putStrand_ne (s : State) (c l : Nat) (t : Strand) {k : Nat} (h : k ≠ skey c l) :
    mget (putStrand s c l t).strands k = mget s.strands k :=
  mget_mset_ne _ _ h

/-- A strand put twice is as put the second time. -/
@[simp] theorem putStrand_putStrand (s : State) (c l : Nat) (t u : Strand) :
    putStrand (putStrand s c l t) c l u = putStrand s c l u := by
  simp [putStrand]

theorem modStrand_of_strandAt {s : State} {c l : Nat} {t : Strand} (h : strandAt s c l = some t) (f : Strand → Strand) :
    modStrand s c l f = putStrand s c l (f t) := by
  simp [modStrand, h]

theorem coreOf_putCore (s : State) (c : Nat) (k : Core) : coreOf (putCore s c k) c = k := by
  simp [coreOf, putCore, mgetD]

theorem coreOf_putCore_ne (s : State) {c d : Nat} (k : Core) (h : d ≠ c) : coreOf (putCore s c k) d = coreOf s d := by
  simp [coreOf, putCore, mgetD, mget_mset_ne _ _ h]

theorem partAt_putPart (s : State) (p : Nat) (x : Partition) : partAt (putPart s p x) p = x := by
  simp [partAt, putPart, mgetD]

theorem partAt_putPart_ne (s : State) {p q : Nat} (x : Partition) (h : q ≠ p) : partAt (putPart s p x) q = partAt s q := by
  simp [partAt, putPart, mgetD, mget_mset_ne _ _ h]

@[simp] theorem strandAt_putCore (s : State) (c d l : Nat) (k : Core) : strandAt (putCore s d k) c l = strandAt s c l := rfl
@[simp] theorem strandAt_modCore (s : State) (c d l : Nat) (f : Core → Core) : strandAt (modCore s d f) c l = strandAt s c l := rfl
@[simp] theorem strandAt_putPart (s : State) (c l p : Nat) (x : Partition) : strandAt (putPart s p x) c l = strandAt s c l := rfl
@[simp] theorem strandAt_modPart (s : State) (c l p : Nat) (f : Partition → Partition) : strandAt (modPart s p f) c l = strandAt s c l := rfl
@[simp] theorem coreOf_putStrand (s : State) (c d l : Nat) (t : Strand) : coreOf (putStrand s c l t) d = coreOf s d := rfl
@[simp] theorem partAt_putStrand (s : State) (c l p : Nat) (t : Strand) : partAt (putStrand s c l t) p = partAt s p := rfl
@[simp] theorem blockAt_putStrand (s : State) (c l b : Nat) (t : Strand) : blockAt (putStrand s c l t) b = blockAt s b := rfl

/-! ### Scalar registers -/

@[simp] theorem sget_zero (x : ScalarSide) : sget x 0 = 0 := rfl

/-- R24: a write to s0 is discarded; a write to another register is read back, and every other register is as it
was. -/
theorem sget_sput (x : ScalarSide) (d r : Nat) (v : Word) :
    sget (sput x d v) r = if r = d ∧ d ≠ 0 then v else sget x r := by
  unfold sput
  by_cases hd : d = 0
  · simp [hd]
  · by_cases hr : r = d
    · subst hr; simp [hd, sget, mgetD]
    · simp [hd, hr, sget, mgetD, mget_mset_ne _ _ hr]

/-- A write to a register changes nothing else of the scalar side. -/
theorem sput_rest (x : ScalarSide) (d : Nat) (v : Word) :
    { sput x d v with sregs := x.sregs, spoison := x.spoison } = x := by
  unfold sput; split <;> rfl


end Sys2Proof.Machine
end

