-- ==== Sys2Proof/Laws/Scalar.lean ====
section
/-! SUPPORT. Laws of what scalar instructions share: one that is ready goes ahead, one that retires leaves the strand
with its new scalar side, and counting an event changes counts alone. -/

namespace Sys2Proof.Machine

open Sys2Proof

/-! ### Counting an event (R373) -/

/-- Counting changes the performance counts of a partition and of a region, and nothing else. -/
theorem bump_only (s : State) (c l region e n : Nat) : OnlyStrand s (bump s c l region e n) c l := by
  unfold bump
  split
  · exact ⟨fun _ _ => rfl, rfl, fun _ => rfl⟩
  · split
    · exact ⟨fun _ _ => rfl, rfl, fun _ => rfl⟩
    · rename_i t _
      refine ⟨fun k hk => ?_, rfl, fun p => ?_⟩
      · exact mget_mset_ne _ _ hk
      · by_cases hp : p = t.part
        · subst hp; simp [modAccount, modPart, partAt_putPart]
        · simp [modAccount, modPart, partAt_putPart_ne _ _ hp]

/-- Counting leaves the strand as it was but for the counts of a region. -/
theorem strandAt_bump {s : State} {c l : Nat} {t : Strand} (h : strandAt s c l = some t) (region e n : Nat) :
    ∃ rs, strandAt (bump s c l region e n) c l = some { t with regions := rs } := by
  unfold bump
  split
  · exact ⟨t.regions, h⟩
  · rw [h]; exact ⟨_, strandAt_putStrand _ _ _ _⟩

/-! ### Frames -/

theorem OnlyStrand.refl (s : State) (c l : Nat) : OnlyStrand s s c l := ⟨fun _ _ => rfl, rfl, fun _ => rfl⟩

theorem OnlyStrand.trans {s u v : State} {c l : Nat} (h : OnlyStrand s u c l) (k : OnlyStrand u v c l) :
    OnlyStrand s v c l := by
  refine ⟨fun j hj => (k.others j hj).trans (h.others j hj), ?_, fun p => ?_⟩
  · have h2 := h.rest
    rw [← k.rest] at h2
    exact h2
  · have h2 := h.parts p
    rw [← k.parts p] at h2
    exact h2

theorem onlyStrand_putStrand (s : State) (c l : Nat) (t : Strand) : OnlyStrand s (putStrand s c l t) c l :=
  ⟨fun _ hk => strands_putStrand_ne s c l t hk, rfl, fun _ => rfl⟩

theorem onlyStrand_modStrand (s : State) (c l : Nat) (f : Strand → Strand) : OnlyStrand s (modStrand s c l f) c l := by
  unfold modStrand; split
  · exact onlyStrand_putStrand _ _ _ _
  · exact OnlyStrand.refl _ _ _

/-- Memory is part of what does not change. -/
theorem OnlyStrand.mem {s s' : State} {c l : Nat} (h : OnlyStrand s s' c l) : s'.mem = s.mem :=
  (congrArg State.mem h.rest : _)

theorem OnlyStrand.blocks {s s' : State} {c l : Nat} (h : OnlyStrand s s' c l) : s'.blocks = s.blocks :=
  (congrArg State.blocks h.rest : _)

theorem OnlyStrand.cores {s s' : State} {c l : Nat} (h : OnlyStrand s s' c l) : s'.cores = s.cores :=
  (congrArg State.cores h.rest : _)

theorem OnlyStrand.now {s s' : State} {c l : Nat} (h : OnlyStrand s s' c l) : s'.now = s.now :=
  (congrArg State.now h.rest : _)

/-! ### The head's list of renamed registers (R209) -/

theorem onlyScalar_noteScalar (t : Strand) (d : Nat) (x : ScalarSide) (w : Wait) (p : Phase) :
    OnlyScalar t { noteScalar t d with sc := x, swait := w, sphase := p } := by
  unfold noteScalar OnlyScalar; split <;> rfl

/-! ### Going ahead -/

theorem tokenBatch_of_none {t : Strand} {r : Nat} (h : ∀ e ∈ t.tpend, e.1 ≠ r) : tokenBatch t r = none := by
  unfold tokenBatch
  split
  · rfl
  · rw [List.find?_eq_none.2 (fun e he => by simpa using h e he)]; rfl

/-- A scalar instruction that is ready goes ahead, in the state it found. -/
theorem scalarRun_ready {s : State} {c l : Nat} {t : Strand} {rs : List Nat} {d : Nat} (h : ScalarReady s c l t rs d)
    (k : State → Nat → Nat → Strand → State) : scalarRun s rs d k = .next (k s c l t) := by
  have hb : ∀ r ∈ d :: rs, tokenBatch t r = none := fun r hr =>
    tokenBatch_of_none fun e he heq => h.tokens e he (heq ▸ hr)
  have h1 : (d :: rs).any (loadPending t) = false := by
    rw [List.any_eq_false]; intro r hr; simpa using h.loads r hr
  have h2 : rs.any (tokenNeedsHead s t) = false := by
    rw [List.any_eq_false]; intro r hr; simp [tokenNeedsHead, hb r (List.mem_cons_of_mem _ hr)]
  have h3 : (d :: rs).any (tokenPending t) = false := by
    rw [List.any_eq_false]; intro r hr; simp [tokenPending, hb r hr]
  have h4 : (t.tpend.any fun e => (d :: rs).contains e.1) = false := by
    rw [List.any_eq_false]; intro e he; simpa using h.tokens e he
  have h5 : sourcePoisoned t rs = false := by
    unfold sourcePoisoned
    rw [List.any_eq_false]; intro r hr
    by_cases h0 : r = 0
    · simp [h0]
    · simp [h.sound r hr h0]
  simp only [scalarRun, withScalar, scalarRegs, List.singleton_append, h.agent, h.strand, h1, h2, h3, h4, h.units, h5, Bool.not_false, if_true, if_false,
    Bool.false_eq_true]

/-! ### Retiring -/

/-- A strand whose instruction retires with the scalar side `x`. -/
theorem finish_retires {s u : State} {c l : Nat} {t : Strand} (hu : OnlyStrand s u c l) (h : strandAt u c l = some t)
    (d : Nat) (x : ScalarSide) : Retires s (finish u c l d x) c l t x := by
  have e : finish u c l d x = bump (putStrand u c l { noteScalar t d with sc := { x with seq := x.seq + 1 }, swait := .none, sphase := .idle })
      c l (lastId { noteScalar t d with sc := { x with seq := x.seq + 1 }, swait := .none, sphase := .idle }) 0 1 := by
    simp only [finish, modStrand_of_strandAt h, strandAt_putStrand]
  obtain ⟨rs, hrs⟩ := strandAt_bump (strandAt_putStrand u c l { noteScalar t d with sc := { x with seq := x.seq + 1 }, swait := .none, sphase := .idle })
    (lastId { noteScalar t d with sc := { x with seq := x.seq + 1 }, swait := .none, sphase := .idle }) 0 1
  rw [e]
  refine ⟨(hu.trans (onlyStrand_putStrand _ _ _ _)).trans (bump_only _ _ _ _ _ _), _, hrs, ?_, rfl, rfl⟩
  have := onlyScalar_noteScalar t d { x with seq := x.seq + 1 } .none .idle
  exact this

/-- The same from the state that the instruction found. -/
theorem finish_ready {s : State} {c l : Nat} {t : Strand} (h : strandAt s c l = some t) (d : Nat) (x : ScalarSide) :
    Retires s (finish s c l d x) c l t x :=
  finish_retires (OnlyStrand.refl _ _ _) h d x

/-- R24, R98: a register write and the step to the next instruction. -/
theorem writesReg_sput (y : ScalarSide) (d : Nat) (v : Word) : WritesReg y (nextPc (sput y d v)) d v (y.spc + 4) := by
  refine ⟨fun r => ?_, fun r => ?_, ?_, ?_⟩
  · exact sget_sput y d r v
  · unfold sput nextPc
    by_cases hd : d = 0 <;> simp [hd]
  · unfold sput nextPc; split <;> rfl
  · unfold sput nextPc; split <;> rfl

/-- An instruction that reads registers and writes one, when it is ready. -/
theorem scalarValue_ready {s : State} {c l : Nat} {t : Strand} {rs : List Nat} {d : BitVec 7}
    (h : ScalarReady s c l t rs d.toNat) (v : ScalarSide → Word) :
    ∃ s' x, scalarValue s rs d v = .next s' ∧ Retires s s' c l t x ∧ WritesReg t.sc x d.toNat (v t.sc) (t.sc.spc + 4) :=
  ⟨_, _, scalarRun_ready h _, finish_ready h.strand _ _, writesReg_sput _ _ _⟩

end Sys2Proof.Machine
end

