-- ==== Sys2Proof/Laws/Lane.lean ====
section
/-! SUPPORT. Laws of what lane instructions share: one that is ready goes ahead, and what one that retires writes. -/

namespace Sys2Proof.Machine

open Sys2Proof

/-! ### Going ahead -/

theorem predLegal_of_checks {u : LaneUse} {x : LaneCtx} {f : LaneFields} (h : laneChecks u x f = none) : predLegal f = true := by
  unfold laneChecks at h
  split at h
  · simp at h
  · next h1 =>
    simp only [Bool.or_eq_true, Bool.not_eq_true', not_or, Bool.not_eq_false] at h1
    have := h1.1
    unfold operandsLegal at this
    simp only [Bool.and_eq_true] at this
    exact this.1.1.1

/-- A lane instruction that is ready goes ahead, in the state it found. -/
theorem laneRunBy_ready {use : BitVec 128 → LaneUse} {f : LaneFields} {s : State} {c l : Nat} {t : Strand} {r : Running}
    (h : LaneReady (use (laneSlot s t f)) f s c l t r) (k : State → LaneCtx → State) :
    laneRunBy use f s k = .next (k s (laneCtx c l t r f)) := by
  have hp := predLegal_of_checks h.checks
  have hx : ({ core := c, slot := l, t := t, run := r, mask := if predLegal f then activeLanes t r f else r.entry.exec.toNat } : LaneCtx)
      = laneCtx c l t r f := by simp [hp, laneCtx]
  have hu : ¬ 4096 < laneUnits s c + (newLanes (use (laneSlot s t f)) (laneCtx c l t r f) f).length := Nat.not_lt.2 h.units
  simp only [laneRunBy, withLane, h.agent, h.strand, h.current, h.word, hx, h.checks, h.pending, hu, h.sound, h.clean.1, List.isEmpty_nil, if_true,
    Bool.not_true, if_false, Bool.false_eq_true]

theorem laneRun_ready {u : LaneUse} {f : LaneFields} {s : State} {c l : Nat} {t : Strand} {r : Running} (h : LaneReady u f s c l t r)
    (k : State → LaneCtx → State) : laneRun u f s k = .next (k s (laneCtx c l t r f)) :=
  laneRunBy_ready (use := fun _ => u) h k

/-! ### Retiring -/

theorem settle_view {s : State} {c l : Nat} {t : Strand} (h : strandAt s c l = some t) :
    ∃ rs, strandAt (settle s c l) c l = some { t with regions := rs } ∧ OnlyStrand s (settle s c l) c l := by
  unfold settle
  rw [modStrand_of_strandAt h]
  exact ⟨_, strandAt_putStrand _ _ _ _, onlyStrand_putStrand _ _ _ _⟩

/-- R14, R119, R373: the end of a lane instruction. -/
theorem laneDone_view {s : State} {x : LaneCtx} {t : Strand} (h : strandAt s x.core x.slot = some t) (fmas : Nat) :
    ∃ rs, strandAt (laneDone s x fmas) x.core x.slot = some { stepLane t with regions := rs } ∧ OnlyStrand s (laneDone s x fmas) x.core x.slot := by
  unfold laneDone
  rw [modStrand_of_strandAt h]
  generalize (if x.run.entry.remat = true then 0 else x.region) = region
  have h0 := strandAt_putStrand s x.core x.slot (stepLane t)
  obtain ⟨r1, h1⟩ := strandAt_bump h0 region 1 1
  obtain ⟨r2, h2⟩ := strandAt_bump h1 region 2 (popCount 64 x.mask)
  obtain ⟨r3, h3⟩ := strandAt_bump h2 region 3 fmas
  obtain ⟨r4, h4, h5⟩ := settle_view h3
  refine ⟨r4, h4, ?_⟩
  exact (((onlyStrand_putStrand _ _ _ _).trans (bump_only _ _ _ _ _ _)).trans (bump_only _ _ _ _ _ _)).trans
    ((bump_only _ _ _ _ _ _).trans h5)

/-- A lane instruction whose strand has become `u` before it retires. -/
theorem laneDone_retires {s v : State} {x : LaneCtx} {t u : Strand} (hv : OnlyStrand s v x.core x.slot) (h : strandAt v x.core x.slot = some u)
    (hr : t.st.current = some x.run) (hs : u.st = t.st)
    (hu : { u with ln := t.ln, st := t.st, sc := t.sc, regions := t.regions, lwait := t.lwait, lphase := t.lphase } = t) (fmas : Nat) :
    ∃ t', LaneRetires s (laneDone v x fmas) x.core x.slot t t' x.run ∧ t'.ln = u.ln ∧ t'.sc = u.sc := by
  obtain ⟨rs, h1, h2⟩ := laneDone_view h fmas
  refine ⟨_, ⟨hv.trans h2, h1, ?_, ⟨rfl, rfl⟩, hu⟩, rfl, rfl⟩
  simp only [stepLane, hs, hr, Option.bind_some]
  congr 1
  by_cases hi : x.run.index ≤ x.run.header.len.toNat
  · rw [if_neg (by omega), if_pos hi]
  · rw [if_pos (by omega), if_neg hi]

theorem laneDone_put_retires (s : State) {c l : Nat} {t : Strand} {r : Running} (f : LaneFields) (u : Strand)
    (hr : t.st.current = some r) (hs : u.st = t.st)
    (hu : { u with ln := t.ln, st := t.st, sc := t.sc, regions := t.regions, lwait := t.lwait, lphase := t.lphase } = t) (fmas : Nat) :
    ∃ t', LaneRetires s (laneDone (putStrand s c l u) (laneCtx c l t r f) fmas) c l t t' r ∧ t'.ln = u.ln ∧ t'.sc = u.sc :=
  laneDone_retires (x := laneCtx c l t r f) (onlyStrand_putStrand s c l u) (strandAt_putStrand s c l u) hr hs hu fmas

/-! ### Lane registers -/

theorem mgetD_lanePut (y : LaneSide) (r l : Nat) (v : W32) (q : Nat) :
    mgetD (lanePut y r l v).vregs q 0 = if q = 64 * r + l then v else mgetD y.vregs q 0 := by
  simp only [lanePut, mgetD, mget_mset]
  split <;> rfl

theorem mem_lanePut_poison (y : LaneSide) (r l : Nat) (v : W32) (q : Nat) :
    q ∈ (lanePut y r l v).vpoison ↔ q ∈ y.vpoison ∧ q ≠ 64 * r + l := by
  simp [lanePut]

theorem mem_lanePut_verr (y : LaneSide) (r l : Nat) (v : W32) (q : Nat) :
    q ∈ (lanePut y r l v).verr ↔ q ∈ y.verr ∧ q ≠ 64 * r + l := by
  simp [lanePut]

theorem lanePut_rest (y : LaneSide) (r l : Nat) (v : W32) :
    { lanePut y r l v with vregs := y.vregs, vpoison := y.vpoison, verr := y.verr } = y := rfl

/-- What the writes of a list of lanes leave. -/
theorem foldl_lanePut (reg : Nat → Nat) (wide : Bool) (vals : List (Nat × Nat)) (y : LaneSide) (hl : ∀ e ∈ vals, e.1 < 64)
    (hn : (vals.map fun e => e.1).Nodup) :
    let z := vals.foldl (fun y e =>
      let y := lanePut y (reg e.1) e.1 (BitVec.ofNat 32 e.2)
      if wide then lanePut y (reg e.1 + 1) e.1 (BitVec.ofNat 32 (e.2 / 2 ^ 32)) else y) y
    (∀ e ∈ vals, mgetD z.vregs (64 * reg e.1 + e.1) 0 = BitVec.ofNat 32 e.2)
    ∧ (wide = true → ∀ e ∈ vals, mgetD z.vregs (64 * (reg e.1 + 1) + e.1) 0 = BitVec.ofNat 32 (e.2 / 2 ^ 32))
    ∧ (∀ q, (∀ e ∈ vals, q ≠ 64 * reg e.1 + e.1 ∧ (wide = true → q ≠ 64 * (reg e.1 + 1) + e.1)) →
        mgetD z.vregs q 0 = mgetD y.vregs q 0 ∧ (q ∈ z.vpoison ↔ q ∈ y.vpoison) ∧ (q ∈ z.verr ↔ q ∈ y.verr))
    ∧ { z with vregs := y.vregs, vpoison := y.vpoison, verr := y.verr } = y := by
  induction vals generalizing y with
  | nil => simp
  | cons e t ih =>
    simp only [List.map_cons, List.nodup_cons, List.mem_map, not_exists, not_and] at hn
    have hl0 := hl e List.mem_cons_self
    have ne : ∀ d ∈ t, d.1 ≠ e.1 := fun d hd h => hn.1 d hd h
    simp only [List.foldl_cons]
    have key := ih (if wide then lanePut (lanePut y (reg e.1) e.1 (BitVec.ofNat 32 e.2)) (reg e.1 + 1) e.1 (BitVec.ofNat 32 (e.2 / 2 ^ 32))
      else lanePut y (reg e.1) e.1 (BitVec.ofNat 32 e.2)) (fun d hd => hl d (List.mem_cons_of_mem _ hd)) hn.2
    obtain ⟨k1, k2, k3, k4⟩ := key
    refine ⟨fun d hd => ?_, fun hw d hd => ?_, fun q hq => ?_, ?_⟩
    · rcases List.mem_cons.1 hd with rfl | hd
      · rw [(k3 _ fun g hg => ⟨?_, fun _ => ?_⟩).1]
        · cases wide
          · simp only [Bool.false_eq_true, if_false, mgetD_lanePut, if_true]
          · simp only [if_true, mgetD_lanePut]; rw [if_neg (by omega)]
        · have := hl g (List.mem_cons_of_mem _ hg); have := ne g hg; omega
        · have := hl g (List.mem_cons_of_mem _ hg); have := ne g hg; omega
      · exact k1 d hd
    · rcases List.mem_cons.1 hd with rfl | hd
      · rw [(k3 _ fun g hg => ⟨?_, fun _ => ?_⟩).1]
        · simp only [hw, if_true, mgetD_lanePut]
        · have := hl g (List.mem_cons_of_mem _ hg); have := ne g hg; omega
        · have := hl g (List.mem_cons_of_mem _ hg); have := ne g hg; omega
      · exact k2 hw d hd
    · obtain ⟨h1, h2, h5⟩ := k3 q fun g hg => hq g (List.mem_cons_of_mem _ hg)
      obtain ⟨h3, h4⟩ := hq e List.mem_cons_self
      rw [h1, h2, h5]
      cases wide
      · simp only [Bool.false_eq_true, if_false, mgetD_lanePut, mem_lanePut_poison, mem_lanePut_verr, h3]; simp [h3]
      · simp only [if_true, mgetD_lanePut, mem_lanePut_poison, mem_lanePut_verr, h3, h4 rfl, if_false]; simp [h3, h4 rfl]
    · have e1 : ∀ z y' : LaneSide, { z with vregs := y'.vregs, vpoison := y'.vpoison, verr := y'.verr } = y' →
          { y' with vregs := y.vregs, vpoison := y.vpoison, verr := y.verr } = y → { z with vregs := y.vregs, vpoison := y.vpoison, verr := y.verr } = y := by
        intro z y' h1 h2; rw [← h1] at h2; exact h2
      refine e1 _ _ k4 ?_
      cases wide <;> rfl

theorem lanesOf_lt {m l : Nat} (h : l ∈ lanesOf m) : l < 64 := by
  simp only [lanesOf, List.mem_filter, List.mem_range] at h
  exact h.1

theorem lanesOf_nodup (m : Nat) : (lanesOf m).Nodup := List.Nodup.sublist List.filter_sublist List.nodup_range

/-- R136: what `writeLanes` leaves in the lane side. -/
theorem writeLanes_writes (x : LaneCtx) (f : LaneFields) (wide : Bool) (v : Nat → Nat) (t : Strand) :
    WritesLanes x f wide v t.ln (writeLanes x f wide (x.lanes.map fun l => (l, v l)) t).ln := by
  have hl : ∀ e ∈ x.lanes.map fun l => (l, v l), e.1 < 64 := by
    intro e he; obtain ⟨l, hl, rfl⟩ := List.mem_map.1 he; exact lanesOf_lt hl
  have hn : ((x.lanes.map fun l => (l, v l)).map fun e => e.1).Nodup := by
    rw [List.map_map]; exact (List.map_id' _).symm ▸ lanesOf_nodup x.mask
  obtain ⟨h1, h2, h3, h4⟩ := foldl_lanePut (fun l => regIn x.t f f.vd.toNat l) wide _ t.ln hl hn
  refine ⟨fun l hm => h1 (l, v l) (List.mem_map.2 ⟨l, hm, rfl⟩), fun hw l hm => h2 hw (l, v l) (List.mem_map.2 ⟨l, hm, rfl⟩),
    fun q hq => h3 q fun e he => ?_, h4⟩
  obtain ⟨l, hm, rfl⟩ := List.mem_map.1 he
  exact hq l hm

/-- Writing lanes changes the lane side and the head's list of registers alone. -/
theorem writeLanes_rest (x : LaneCtx) (f : LaneFields) (wide : Bool) (vals : List (Nat × Nat)) (t : Strand) :
    ∃ ln rs, writeLanes x f wide vals t = { t with ln := ln, regions := rs } := ⟨_, _, rfl⟩

/-- A lane instruction that writes a value to each active lane. -/
theorem laneResultIn_retires {s : State} {c l : Nat} {t : Strand} {r : Running} (h : strandAt s c l = some t) (hr : t.st.current = some r)
    (fmt : Nat) (f : LaneFields) (wide : Bool) (fmas : Nat) (v : Nat → Nat × Bool) :
    ∃ t', LaneRetires s (laneResultIn fmt s (laneCtx c l t r f) f wide fmas v) c l t t' r
      ∧ WritesLanes (laneCtx c l t r f) f wide (fun k => (v k).1) t.ln t'.ln
      ∧ t'.sc = if (laneCtx c l t r f).lanes.any (fun k => (v k).2) then raiseSticky fmt (slotArm (laneSlot s t f)) t.sc else t.sc := by
  have hw := writeLanes_writes (laneCtx c l t r f) f wide (fun k => (v k).1) t
  obtain ⟨ln, rs, hln⟩ := writeLanes_rest (laneCtx c l t r f) f wide ((laneCtx c l t r f).lanes.map fun k => (k, (v k).1)) t
  rw [hln] at hw
  have hvals : (((laneCtx c l t r f).lanes.map fun k => (k, v k)).map fun e => (e.1, e.2.1)) = (laneCtx c l t r f).lanes.map fun k => (k, (v k).1) := by
    simp [List.map_map, Function.comp_def]
  have hany : (((laneCtx c l t r f).lanes.map fun k => (k, v k)).any fun e => e.2.2) = (laneCtx c l t r f).lanes.any fun k => (v k).2 := by
    simp [List.any_map, Function.comp_def]
  have e : laneResultIn fmt s (laneCtx c l t r f) f wide fmas v = laneDone (putStrand s c l
      (if (laneCtx c l t r f).lanes.any (fun k => (v k).2) then
        throughHeads { t with ln := ln, regions := rs } (laneCtx c l t r f).region (raiseSticky fmt (slotArm (laneSlot s t f)))
       else { t with ln := ln, regions := rs })) (laneCtx c l t r f) fmas := by
    simp only [laneResultIn]
    rw [show (laneCtx c l t r f).core = c from rfl, show (laneCtx c l t r f).slot = l from rfl, modStrand_of_strandAt h, hvals, hln, hany]
    rfl
  rw [e]
  by_cases hs : (laneCtx c l t r f).lanes.any (fun k => (v k).2)
  · rw [if_pos hs, if_pos hs]
    obtain ⟨t', h1, h2, h3⟩ := laneDone_put_retires s (l := l) (c := c) f (throughHeads { t with ln := ln, regions := rs } (laneCtx c l t r f).region (raiseSticky fmt (slotArm (laneSlot s t f)))) hr rfl rfl fmas
    exact ⟨t', h1, by rw [h2]; exact hw, h3⟩
  · rw [if_neg hs, if_neg hs]
    obtain ⟨t', h1, h2, h3⟩ := laneDone_put_retires s (l := l) (c := c) f { t with ln := ln, regions := rs } hr rfl rfl fmas
    exact ⟨t', h1, by rw [h2]; exact hw, h3⟩

/-! ### Predicates -/

theorem getLsbD_maskOf (ls : List Nat) (k : Nat) (hk : k < 64) : (maskOf ls).getLsbD k = ls.contains k := by
  have key : ∀ (ls : List Nat) (m : Word), (ls.foldl (fun m i => m ||| ((1 : Word) <<< i)) m).getLsbD k = (m.getLsbD k || ls.contains k) := by
    intro ls
    induction ls with
    | nil => simp
    | cons a t ih =>
      intro m
      rw [List.foldl_cons, ih]
      simp only [BitVec.getLsbD_or, BitVec.getLsbD_shiftLeft, List.contains_cons]
      have h1 : (1 : Word).getLsbD (k - a) = decide (k - a = 0) := by
        rw [show (1 : Word) = 1#64 from rfl, BitVec.getLsbD_one]; simp
      by_cases hka : k = a
      · subst hka; simp [hk]
      · by_cases hlt : k < a
        · simp [hlt, show (k == a) = false by simpa using hka]
        · have : k - a ≠ 0 := by omega
          simp [hlt, this, show (k == a) = false by simpa using hka]
  have h0 : (0 : Word).getLsbD k = false := BitVec.getLsbD_zero
  rw [maskOf, key, h0, Bool.false_or]

/-- A lane instruction that writes a predicate. -/
theorem predResult_retires {s : State} {c l : Nat} {t : Strand} {r : Running} (h : strandAt s c l = some t) (hr : t.st.current = some r)
    (f : LaneFields) (d : Nat) (v : Nat → Bool) :
    ∃ t', LaneRetires s (predResult s (laneCtx c l t r f) d v) c l t t' r ∧ WritesPred (laneCtx c l t r f) d v t.ln t'.ln ∧ t'.sc = t.sc := by
  have e : predResult s (laneCtx c l t r f) d v = laneDone (putStrand s c l
      (if d = 0 then t else { t with ln := { t.ln with preds := mset t.ln.preds d ((predMask t.ln d &&& ~~~(BitVec.ofNat 64 (laneCtx c l t r f).mask)) ||| maskOf ((laneCtx c l t r f).lanes.filter v)) } }))
      (laneCtx c l t r f) 0 := by
    simp only [predResult]
    rw [show (laneCtx c l t r f).core = c from rfl, show (laneCtx c l t r f).slot = l from rfl, modStrand_of_strandAt h]
  rw [e]
  by_cases hd : d = 0
  · rw [if_pos hd]
    obtain ⟨t', h1, h2, h3⟩ := laneDone_put_retires s (l := l) (c := c) f t hr rfl rfl 0
    refine ⟨t', h1, ?_, h3⟩
    rw [h2]; exact ⟨fun k _ => by simp [hd], fun _ _ => rfl, rfl⟩
  · rw [if_neg hd]
    obtain ⟨t', h1, h2, h3⟩ := laneDone_put_retires s (l := l) (c := c) f { t with ln := { t.ln with preds := mset t.ln.preds d ((predMask t.ln d &&& ~~~(BitVec.ofNat 64 (laneCtx c l t r f).mask)) ||| maskOf ((laneCtx c l t r f).lanes.filter v)) } } hr rfl rfl 0
    refine ⟨t', h1, ?_, h3⟩
    rw [h2]
    refine ⟨fun k hk => ?_, fun p hp => mget_mset_ne _ _ hp, rfl⟩
    have hm : (k ∈ (laneCtx c l t r f).lanes) ↔ (laneCtx c l t r f).mask.testBit k = true := by
      simp [LaneCtx.lanes, lanesOf, hk]
    simp only [predMask, hd, if_false, mgetD, mget_mset_self, Option.getD_some, BitVec.getLsbD_or, BitVec.getLsbD_and,
      BitVec.getLsbD_not, getLsbD_maskOf _ _ hk, BitVec.getLsbD_ofNat, hk, decide_true, Bool.true_and]
    by_cases hb : k ∈ (laneCtx c l t r f).lanes
    · have hc : (((laneCtx c l t r f).lanes.filter v).contains k) = v k := by
        rw [Bool.eq_iff_iff]; simp [hb]
      rw [hc, hm.1 hb]; simp [hb, hd]
    · have h0 : (laneCtx c l t r f).mask.testBit k = false := by
        rw [← Bool.not_eq_true, ← hm]; exact hb
      have hc : (((laneCtx c l t r f).lanes.filter v).contains k) = false := by
        rw [← Bool.not_eq_true]; simp [hb]
      rw [hc, h0]; simp [hb]

end Sys2Proof.Machine
end

