-- ==== Sys2Proof/Laws/PerInstr.lean ====
section
/-! SUPPORT. The encoder and the decoder agree, instruction by instruction: the words of a well-formed instruction
decode to it (spec/02 R40 to R60). -/

namespace Sys2Proof.Laws

open Sys2Proof

/-- The high part of a joined word. -/
theorem extract_append_high {n m : Nat} (x : BitVec n) (y : BitVec m) (s k : Nat) (h : m ≤ s) :
    (x ++ y).extractLsb' s k = x.extractLsb' (s - m) k := by
  apply BitVec.eq_of_getLsbD_eq
  intro i hi
  simp [BitVec.getLsbD_append, show ¬ s + i < m by omega, show s + i - m = s - m + i by omega]

/-- The low part of a joined word. -/
theorem extract_append_low {n m : Nat} (x : BitVec n) (y : BitVec m) (s k : Nat) (h : s + k ≤ m) :
    (x ++ y).extractLsb' s k = y.extractLsb' s k := by
  apply BitVec.eq_of_getLsbD_eq
  intro i hi
  simp [BitVec.getLsbD_append, show s + i < m by omega]

/-- A word of lane fields gives them back. -/
theorem laneFields_laneWord (f : LaneFields) : laneFields (laneWord f) = f := by
  cases f
  simp only [laneWord, laneFields, LaneFields.mk.injEq]
  refine ⟨?_, ?_, ?_, ?_, ?_, ?_, ?_, ?_, ?_, ?_, ?_, ?_, ?_, ?_, ?_, ?_⟩
  all_goals
    repeat rw [extract_append_high _ _ _ _ (by decide)]
    try rw [extract_append_low _ _ _ _ (by decide)]
    exact BitVec.extractLsb'_eq_self

/-! ### The decoder, opcode by opcode -/

theorem decodeScalar_01 (w : W32) (h : (w.extractLsb' 26 6).toNat = 0x01) : decodeScalar w = decodeAlu w := by
  unfold decodeScalar; rw [h]; first | done | rfl

theorem decodeScalar_02 (w : W32) (h : (w.extractLsb' 26 6).toNat = 0x02) : decodeScalar w = unusedZero (!(fieldF w).getLsbD 4) (.scmp (fieldD w) (fieldA w) (fieldB w) (w.extractLsb' 0 4)) := by
  unfold decodeScalar; rw [h]; first | done | rfl

theorem decodeScalar_03 (w : W32) (h : (w.extractLsb' 26 6).toNat = 0x03) : decodeScalar w = .ok (.saddImm (fieldD w) (fieldA w) (imm12 w)) := by
  unfold decodeScalar; rw [h]; first | done | rfl

theorem decodeScalar_04 (w : W32) (h : (w.extractLsb' 26 6).toNat = 0x04) : decodeScalar w = .ok (.sandImm (fieldD w) (fieldA w) (imm12 w)) := by
  unfold decodeScalar; rw [h]; first | done | rfl

theorem decodeScalar_05 (w : W32) (h : (w.extractLsb' 26 6).toNat = 0x05) : decodeScalar w = .ok (.sorImm (fieldD w) (fieldA w) (imm12 w)) := by
  unfold decodeScalar; rw [h]; first | done | rfl

theorem decodeScalar_06 (w : W32) (h : (w.extractLsb' 26 6).toNat = 0x06) : decodeScalar w = .ok (.sxorImm (fieldD w) (fieldA w) (imm12 w)) := by
  unfold decodeScalar; rw [h]; first | done | rfl

theorem decodeScalar_07 (w : W32) (h : (w.extractLsb' 26 6).toNat = 0x07) : decodeScalar w = unusedZero (w.extractLsb' 6 6 == 0) (.sshlImm (fieldD w) (fieldA w) (w.extractLsb' 0 6)) := by
  unfold decodeScalar; rw [h]; first | done | rfl

theorem decodeScalar_08 (w : W32) (h : (w.extractLsb' 26 6).toNat = 0x08) : decodeScalar w = unusedZero (w.extractLsb' 6 6 == 0) (.sshrImm (fieldD w) (fieldA w) (w.extractLsb' 0 6)) := by
  unfold decodeScalar; rw [h]; first | done | rfl

theorem decodeScalar_09 (w : W32) (h : (w.extractLsb' 26 6).toNat = 0x09) : decodeScalar w = unusedZero (w.extractLsb' 6 6 == 0) (.ssraImm (fieldD w) (fieldA w) (w.extractLsb' 0 6)) := by
  unfold decodeScalar; rw [h]; first | done | rfl

theorem decodeScalar_0A (w : W32) (h : (w.extractLsb' 26 6).toNat = 0x0A) : decodeScalar w = .ok (.sli (fieldD w) (imm19 w)) := by
  unfold decodeScalar; rw [h]; first | done | rfl

theorem decodeScalar_0B (w : W32) (h : (w.extractLsb' 26 6).toNat = 0x0B) : decodeScalar w = .ok (.slui (fieldD w) (imm19 w)) := by
  unfold decodeScalar; rw [h]; first | done | rfl

theorem decodeScalar_10 (w : W32) (h : (w.extractLsb' 26 6).toNat = 0x10) : decodeScalar w = .ok (.sbEq (fieldD w) (fieldA w) (imm12 w)) := by
  unfold decodeScalar; rw [h]; first | done | rfl

theorem decodeScalar_11 (w : W32) (h : (w.extractLsb' 26 6).toNat = 0x11) : decodeScalar w = .ok (.sbNe (fieldD w) (fieldA w) (imm12 w)) := by
  unfold decodeScalar; rw [h]; first | done | rfl

theorem decodeScalar_12 (w : W32) (h : (w.extractLsb' 26 6).toNat = 0x12) : decodeScalar w = .ok (.sbLt (fieldD w) (fieldA w) (imm12 w)) := by
  unfold decodeScalar; rw [h]; first | done | rfl

theorem decodeScalar_13 (w : W32) (h : (w.extractLsb' 26 6).toNat = 0x13) : decodeScalar w = .ok (.sbGe (fieldD w) (fieldA w) (imm12 w)) := by
  unfold decodeScalar; rw [h]; first | done | rfl

theorem decodeScalar_14 (w : W32) (h : (w.extractLsb' 26 6).toNat = 0x14) : decodeScalar w = .ok (.sbLtn (fieldD w) (fieldA w) (imm12 w)) := by
  unfold decodeScalar; rw [h]; first | done | rfl

theorem decodeScalar_15 (w : W32) (h : (w.extractLsb' 26 6).toNat = 0x15) : decodeScalar w = .ok (.sbGen (fieldD w) (fieldA w) (imm12 w)) := by
  unfold decodeScalar; rw [h]; first | done | rfl

theorem decodeScalar_16 (w : W32) (h : (w.extractLsb' 26 6).toNat = 0x16) : decodeScalar w = unusedZero ((fieldA w) == 0) (.pqpush (fieldD w) (imm12 w)) := by
  unfold decodeScalar; rw [h]; first | done | rfl

theorem decodeScalar_17 (w : W32) (h : (w.extractLsb' 26 6).toNat = 0x17) : decodeScalar w = unusedZero ((fieldD w) == 0 && (fieldA w) == 0) (.pqjoin (imm12 w)) := by
  unfold decodeScalar; rw [h]; first | done | rfl

theorem decodeScalar_18 (w : W32) (h : (w.extractLsb' 26 6).toNat = 0x18) : decodeScalar w = .ok (.sj (off26 w)) := by
  unfold decodeScalar; rw [h]; first | done | rfl

theorem decodeScalar_19 (w : W32) (h : (w.extractLsb' 26 6).toNat = 0x19) : decodeScalar w = .ok (.scall (off26 w)) := by
  unfold decodeScalar; rw [h]; first | done | rfl

theorem decodeScalar_1A (w : W32) (h : (w.extractLsb' 26 6).toNat = 0x1A) : decodeScalar w = .ok (.lrun (off26 w)) := by
  unfold decodeScalar; rw [h]; first | done | rfl

theorem decodeScalar_1B (w : W32) (h : (w.extractLsb' 26 6).toNat = 0x1B) : decodeScalar w = decodeGroup 0x1B w := by
  unfold decodeScalar; rw [h]; first | done | rfl

theorem decodeScalar_1C (w : W32) (h : (w.extractLsb' 26 6).toNat = 0x1C) : decodeScalar w = decodeGroup 0x1C w := by
  unfold decodeScalar; rw [h]; first | done | rfl

theorem decodeScalar_1D (w : W32) (h : (w.extractLsb' 26 6).toNat = 0x1D) : decodeScalar w = unusedZero (w.extractLsb' 21 5 == 0 && (fieldB w) == 0 && (fieldF w) == 0) (.lk (w.extractLsb' 19 2) (fieldA w)) := by
  unfold decodeScalar; rw [h]; first | done | rfl

theorem decodeScalar_1E (w : W32) (h : (w.extractLsb' 26 6).toNat = 0x1E) : decodeScalar w = unusedZero ((fieldD w) == 0 && (fieldA w) == 0) (.lwait (imm12 w)) := by
  unfold decodeScalar; rw [h]; first | done | rfl

theorem decodeScalar_20 (w : W32) (h : (w.extractLsb' 26 6).toNat = 0x20) : decodeScalar w = .ok (.region (off26 w)) := by
  unfold decodeScalar; rw [h]; first | done | rfl

theorem decodeScalar_21 (w : W32) (h : (w.extractLsb' 26 6).toNat = 0x21) : decodeScalar w = unusedZero (w.extractLsb' 0 8 == 0) (.iqloop (w.extractLsb' 21 5) (w.extractLsb' 11 10) (w.extractLsb' 8 3)) := by
  unfold decodeScalar; rw [h]; first | done | rfl

theorem decodeScalar_22 (w : W32) (h : (w.extractLsb' 26 6).toNat = 0x22) : decodeScalar w = unusedZero ((fieldD w) == 0 && w.extractLsb' 16 3 == 0) (.mark (w.extractLsb' 0 16)) := by
  unfold decodeScalar; rw [h]; first | done | rfl

theorem decodeScalar_23 (w : W32) (h : (w.extractLsb' 26 6).toNat = 0x23) : decodeScalar w = unusedZero (w.extractLsb' 16 3 == 0) (.cut (fieldD w) (w.extractLsb' 0 16)) := by
  unfold decodeScalar; rw [h]; first | done | rfl

theorem decodeScalar_24 (w : W32) (h : (w.extractLsb' 26 6).toNat = 0x24) : decodeScalar w = decodeGroup 0x24 w := by
  unfold decodeScalar; rw [h]; first | done | rfl

theorem decodeScalar_25 (w : W32) (h : (w.extractLsb' 26 6).toNat = 0x25) : decodeScalar w = unusedZero ((fieldA w) == 0) (.srd (fieldD w) (imm12 w)) := by
  unfold decodeScalar; rw [h]; first | done | rfl

theorem decodeScalar_26 (w : W32) (h : (w.extractLsb' 26 6).toNat = 0x26) : decodeScalar w = unusedZero ((fieldD w) == 0) (.swr (fieldA w) (imm12 w)) := by
  unfold decodeScalar; rw [h]; first | done | rfl

theorem decodeScalar_27 (w : W32) (h : (w.extractLsb' 26 6).toNat = 0x27) : decodeScalar w = unusedZero ((fieldD w) == 0 && (fieldA w) == 0) (.trap (imm12 w)) := by
  unfold decodeScalar; rw [h]; first | done | rfl

theorem decodeScalar_28 (w : W32) (h : (w.extractLsb' 26 6).toNat = 0x28) : decodeScalar w = unusedZero ((fieldD w) == 0 && (fieldA w) == 0) (.brk (imm12 w)) := by
  unfold decodeScalar; rw [h]; first | done | rfl

theorem decodeScalar_2E (w : W32) (h : (w.extractLsb' 26 6).toNat = 0x2E) : decodeScalar w = unusedZero ((fieldD w) == 0 && w.extractLsb' 4 8 == 0) (.meet (fieldA w) (w.extractLsb' 0 4)) := by
  unfold decodeScalar; rw [h]; first | done | rfl

theorem decodeScalar_2F (w : W32) (h : (w.extractLsb' 26 6).toNat = 0x2F) : decodeScalar w = unusedZero (off26 w == 0) .nop := by
  unfold decodeScalar; rw [h]; first | done | rfl

theorem decodeScalar_30 (w : W32) (h : (w.extractLsb' 26 6).toNat = 0x30) : decodeScalar w = .ok (.sld (fieldD w) (fieldA w) (w.extractLsb' 6 6) (w.extractLsb' 3 3) (w.extractLsb' 0 3)) := by
  unfold decodeScalar; rw [h]; first | done | rfl

theorem decodeScalar_31 (w : W32) (h : (w.extractLsb' 26 6).toNat = 0x31) : decodeScalar w = .ok (.sldAcquire (fieldD w) (fieldA w) (w.extractLsb' 6 6) (w.extractLsb' 3 3) (w.extractLsb' 0 3)) := by
  unfold decodeScalar; rw [h]; first | done | rfl

theorem decodeScalar_32 (w : W32) (h : (w.extractLsb' 26 6).toNat = 0x32) : decodeScalar w = .ok (.sst (fieldD w) (fieldA w) (w.extractLsb' 6 6) (w.extractLsb' 3 3) (w.extractLsb' 0 3)) := by
  unfold decodeScalar; rw [h]; first | done | rfl

theorem decodeScalar_33 (w : W32) (h : (w.extractLsb' 26 6).toNat = 0x33) : decodeScalar w = .ok (.sstRelease (fieldD w) (fieldA w) (w.extractLsb' 6 6) (w.extractLsb' 3 3) (w.extractLsb' 0 3)) := by
  unfold decodeScalar; rw [h]; first | done | rfl

theorem decodeScalar_34 (w : W32) (h : (w.extractLsb' 26 6).toNat = 0x34) : decodeScalar w = unusedZero ((fieldD w) == 0 && (fieldA w) == 0 && (fieldB w) == 0) (.fence (w.extractLsb' 3 2) (w.extractLsb' 0 3)) := by
  unfold decodeScalar; rw [h]; first | done | rfl

theorem decodeScalar_35 (w : W32) (h : (w.extractLsb' 26 6).toNat = 0x35) : decodeScalar w = unusedZero ((fieldD w) == 0 && w.extractLsb' 3 2 == 0) (.cadd (fieldA w) (fieldB w) (w.extractLsb' 0 3)) := by
  unfold decodeScalar; rw [h]; first | done | rfl

theorem decodeScalar_36 (w : W32) (h : (w.extractLsb' 26 6).toNat = 0x36) : decodeScalar w = unusedZero ((fieldD w) == 0 && w.extractLsb' 3 2 == 0) (.cwait (fieldA w) (fieldB w) (w.extractLsb' 0 3)) := by
  unfold decodeScalar; rw [h]; first | done | rfl

theorem decodeScalar_37 (w : W32) (h : (w.extractLsb' 26 6).toNat = 0x37) : decodeScalar w = unusedZero ((fieldB w) == 0 && (fieldF w) == 0) (.cread (fieldD w) (fieldA w)) := by
  unfold decodeScalar; rw [h]; first | done | rfl

theorem decodeScalar_38 (w : W32) (h : (w.extractLsb' 26 6).toNat = 0x38) : decodeScalar w = unusedZero ((fieldF w) == 0) (.cpy (fieldD w) (fieldA w) (fieldB w)) := by
  unfold decodeScalar; rw [h]; first | done | rfl

theorem decodeScalar_39 (w : W32) (h : (w.extractLsb' 26 6).toNat = 0x39) : decodeScalar w = unusedZero ((fieldF w) == 0) (.cpy2d (fieldD w) (fieldA w) (fieldB w)) := by
  unfold decodeScalar; rw [h]; first | done | rfl

theorem decodeScalar_3A (w : W32) (h : (w.extractLsb' 26 6).toNat = 0x3A) : decodeScalar w = unusedZero ((fieldA w) == 0 && (fieldB w) == 0 && (fieldF w) == 0) (.cseal (fieldD w)) := by
  unfold decodeScalar; rw [h]; first | done | rfl

theorem decodeScalar_3B (w : W32) (h : (w.extractLsb' 26 6).toNat = 0x3B) : decodeScalar w = unusedZero (w.extractLsb' 2 3 == 0) (.wmap (fieldD w) (fieldA w) (fieldB w) (w.extractLsb' 0 2)) := by
  unfold decodeScalar; rw [h]; first | done | rfl

theorem decodeScalar_3C (w : W32) (h : (w.extractLsb' 26 6).toNat = 0x3C) : decodeScalar w = decodeGroup 0x3C w := by
  unfold decodeScalar; rw [h]; first | done | rfl

theorem decodeScalar_3D (w : W32) (h : (w.extractLsb' 26 6).toNat = 0x3D) : decodeScalar w = decodeGroup 0x3D w := by
  unfold decodeScalar; rw [h]; first | done | rfl

theorem decodeScalar_3E (w : W32) (h : (w.extractLsb' 26 6).toNat = 0x3E) : decodeScalar w = decodeGroup 0x3E w := by
  unfold decodeScalar; rw [h]; first | done | rfl

theorem decodeAlu_00 (w : W32) (h : (fieldF w).toNat = 0x00) : decodeAlu w = .ok (.sadd (fieldD w) (fieldA w) (fieldB w)) := by
  unfold decodeAlu; rw [h]; first | done | rfl

theorem decodeAlu_01 (w : W32) (h : (fieldF w).toNat = 0x01) : decodeAlu w = .ok (.ssub (fieldD w) (fieldA w) (fieldB w)) := by
  unfold decodeAlu; rw [h]; first | done | rfl

theorem decodeAlu_02 (w : W32) (h : (fieldF w).toNat = 0x02) : decodeAlu w = .ok (.smul (fieldD w) (fieldA w) (fieldB w)) := by
  unfold decodeAlu; rw [h]; first | done | rfl

theorem decodeAlu_03 (w : W32) (h : (fieldF w).toNat = 0x03) : decodeAlu w = .ok (.smulhI64 (fieldD w) (fieldA w) (fieldB w)) := by
  unfold decodeAlu; rw [h]; first | done | rfl

theorem decodeAlu_04 (w : W32) (h : (fieldF w).toNat = 0x04) : decodeAlu w = .ok (.smulhN64 (fieldD w) (fieldA w) (fieldB w)) := by
  unfold decodeAlu; rw [h]; first | done | rfl

theorem decodeAlu_05 (w : W32) (h : (fieldF w).toNat = 0x05) : decodeAlu w = .ok (.sdivI64 (fieldD w) (fieldA w) (fieldB w)) := by
  unfold decodeAlu; rw [h]; first | done | rfl

theorem decodeAlu_06 (w : W32) (h : (fieldF w).toNat = 0x06) : decodeAlu w = .ok (.sdivN64 (fieldD w) (fieldA w) (fieldB w)) := by
  unfold decodeAlu; rw [h]; first | done | rfl

theorem decodeAlu_07 (w : W32) (h : (fieldF w).toNat = 0x07) : decodeAlu w = .ok (.sremI64 (fieldD w) (fieldA w) (fieldB w)) := by
  unfold decodeAlu; rw [h]; first | done | rfl

theorem decodeAlu_08 (w : W32) (h : (fieldF w).toNat = 0x08) : decodeAlu w = .ok (.sremN64 (fieldD w) (fieldA w) (fieldB w)) := by
  unfold decodeAlu; rw [h]; first | done | rfl

theorem decodeAlu_09 (w : W32) (h : (fieldF w).toNat = 0x09) : decodeAlu w = .ok (.sand (fieldD w) (fieldA w) (fieldB w)) := by
  unfold decodeAlu; rw [h]; first | done | rfl

theorem decodeAlu_0A (w : W32) (h : (fieldF w).toNat = 0x0A) : decodeAlu w = .ok (.sor (fieldD w) (fieldA w) (fieldB w)) := by
  unfold decodeAlu; rw [h]; first | done | rfl

theorem decodeAlu_0B (w : W32) (h : (fieldF w).toNat = 0x0B) : decodeAlu w = .ok (.sxor (fieldD w) (fieldA w) (fieldB w)) := by
  unfold decodeAlu; rw [h]; first | done | rfl

theorem decodeAlu_0C (w : W32) (h : (fieldF w).toNat = 0x0C) : decodeAlu w = .ok (.sandn (fieldD w) (fieldA w) (fieldB w)) := by
  unfold decodeAlu; rw [h]; first | done | rfl

theorem decodeAlu_0D (w : W32) (h : (fieldF w).toNat = 0x0D) : decodeAlu w = .ok (.sshl (fieldD w) (fieldA w) (fieldB w)) := by
  unfold decodeAlu; rw [h]; first | done | rfl

theorem decodeAlu_0E (w : W32) (h : (fieldF w).toNat = 0x0E) : decodeAlu w = .ok (.sshr (fieldD w) (fieldA w) (fieldB w)) := by
  unfold decodeAlu; rw [h]; first | done | rfl

theorem decodeAlu_0F (w : W32) (h : (fieldF w).toNat = 0x0F) : decodeAlu w = .ok (.ssra (fieldD w) (fieldA w) (fieldB w)) := by
  unfold decodeAlu; rw [h]; first | done | rfl

theorem decodeAlu_10 (w : W32) (h : (fieldF w).toNat = 0x10) : decodeAlu w = .ok (.sminI64 (fieldD w) (fieldA w) (fieldB w)) := by
  unfold decodeAlu; rw [h]; first | done | rfl

theorem decodeAlu_11 (w : W32) (h : (fieldF w).toNat = 0x11) : decodeAlu w = .ok (.smaxI64 (fieldD w) (fieldA w) (fieldB w)) := by
  unfold decodeAlu; rw [h]; first | done | rfl

theorem decodeAlu_12 (w : W32) (h : (fieldF w).toNat = 0x12) : decodeAlu w = .ok (.sminN64 (fieldD w) (fieldA w) (fieldB w)) := by
  unfold decodeAlu; rw [h]; first | done | rfl

theorem decodeAlu_13 (w : W32) (h : (fieldF w).toNat = 0x13) : decodeAlu w = .ok (.smaxN64 (fieldD w) (fieldA w) (fieldB w)) := by
  unfold decodeAlu; rw [h]; first | done | rfl

theorem decodeAlu_14 (w : W32) (h : (fieldF w).toNat = 0x14) : decodeAlu w = unusedZero ((fieldB w) == 0) (.sclz (fieldD w) (fieldA w)) := by
  unfold decodeAlu; rw [h]; first | done | rfl

theorem decodeAlu_15 (w : W32) (h : (fieldF w).toNat = 0x15) : decodeAlu w = unusedZero ((fieldB w) == 0) (.spopc (fieldD w) (fieldA w)) := by
  unfold decodeAlu; rw [h]; first | done | rfl

theorem decodeAlu_16 (w : W32) (h : (fieldF w).toNat = 0x16) : decodeAlu w = unusedZero ((fieldB w) == 0) (.smov (fieldD w) (fieldA w)) := by
  unfold decodeAlu; rw [h]; first | done | rfl

theorem decodeAlu_17 (w : W32) (h : (fieldF w).toNat = 0x17) : decodeAlu w = .ok (.ssel (fieldD w) (fieldA w) (fieldB w)) := by
  unfold decodeAlu; rw [h]; first | done | rfl

theorem decodeAlu_18 (w : W32) (h : (fieldF w).toNat = 0x18) : decodeAlu w = unusedZero ((fieldB w) == 0 && w.extractLsb' 15 4 == 0) (.smovMailbox (fieldD w) (w.extractLsb' 12 3)) := by
  unfold decodeAlu; rw [h]; first | done | rfl

theorem decodeGroup_1B_00 (w : W32) (h : (fieldF w).toNat = 0x00) : decodeGroup 0x1B w = unusedZero ((fieldD w) == 0 && (fieldB w) == 0) (.sjr (fieldA w)) := by
  unfold decodeGroup; rw [h]; first | done | rfl

theorem decodeGroup_1B_01 (w : W32) (h : (fieldF w).toNat = 0x01) : decodeGroup 0x1B w = unusedZero ((fieldD w) == 0 && (fieldB w) == 0) (.scallr (fieldA w)) := by
  unfold decodeGroup; rw [h]; first | done | rfl

theorem decodeGroup_1B_02 (w : W32) (h : (fieldF w).toNat = 0x02) : decodeGroup 0x1B w = unusedZero ((fieldD w) == 0 && (fieldA w) == 0 && (fieldB w) == 0) .sret := by
  unfold decodeGroup; rw [h]; first | done | rfl

theorem decodeGroup_1B_03 (w : W32) (h : (fieldF w).toNat = 0x03) : decodeGroup 0x1B w = unusedZero ((fieldD w) == 0 && (fieldA w) == 0 && (fieldB w) == 0) .exit := by
  unfold decodeGroup; rw [h]; first | done | rfl

theorem decodeGroup_1C_00 (w : W32) (h : (fieldF w).toNat = 0x00) : decodeGroup 0x1C w = unusedZero ((fieldD w) == 0 && (fieldB w) == 0) (.sexec (fieldA w)) := by
  unfold decodeGroup; rw [h]; first | done | rfl

theorem decodeGroup_1C_01 (w : W32) (h : (fieldF w).toNat = 0x01) : decodeGroup 0x1C w = unusedZero ((fieldD w) == 0 && (fieldA w) == 0 && (fieldB w) == 0) .pqnext := by
  unfold decodeGroup; rw [h]; first | done | rfl

theorem decodeGroup_1C_02 (w : W32) (h : (fieldF w).toNat = 0x02) : decodeGroup 0x1C w = unusedZero ((fieldD w) == 0 && (fieldB w) == 0) (.pqsave (fieldA w)) := by
  unfold decodeGroup; rw [h]; first | done | rfl

theorem decodeGroup_1C_03 (w : W32) (h : (fieldF w).toNat = 0x03) : decodeGroup 0x1C w = unusedZero ((fieldD w) == 0 && (fieldB w) == 0) (.pqload (fieldA w)) := by
  unfold decodeGroup; rw [h]; first | done | rfl

theorem decodeGroup_1C_04 (w : W32) (h : (fieldF w).toNat = 0x04) : decodeGroup 0x1C w = unusedZero ((fieldD w) == 0 && (fieldA w) == 0 && (fieldB w) == 0) .syield := by
  unfold decodeGroup; rw [h]; first | done | rfl

theorem decodeGroup_24_00 (w : W32) (h : (fieldF w).toNat = 0x00) : decodeGroup 0x24 w = unusedZero ((fieldB w) == 0) (.glaunch (fieldD w) (fieldA w)) := by
  unfold decodeGroup; rw [h]; first | done | rfl

theorem decodeGroup_24_01 (w : W32) (h : (fieldF w).toNat = 0x01) : decodeGroup 0x24 w = unusedZero ((fieldA w) == 0 && (fieldB w) == 0) (.stime (fieldD w)) := by
  unfold decodeGroup; rw [h]; first | done | rfl

theorem decodeGroup_3C_00 (w : W32) (h : (fieldF w).toNat = 0x00) : decodeGroup 0x3C w = unusedZero ((fieldD w) == 0 && (fieldB w) == 0) (.wunmap (fieldA w)) := by
  unfold decodeGroup; rw [h]; first | done | rfl

theorem decodeGroup_3C_01 (w : W32) (h : (fieldF w).toNat = 0x01) : decodeGroup 0x3C w = unusedZero ((fieldD w) == 0 && (fieldB w) == 0) (.wflush (fieldA w)) := by
  unfold decodeGroup; rw [h]; first | done | rfl

theorem decodeGroup_3C_02 (w : W32) (h : (fieldF w).toNat = 0x02) : decodeGroup 0x3C w = unusedZero ((fieldD w) == 0 && (fieldB w) == 0) (.winval (fieldA w)) := by
  unfold decodeGroup; rw [h]; first | done | rfl

theorem decodeGroup_3C_03 (w : W32) (h : (fieldF w).toNat = 0x03) : decodeGroup 0x3C w = unusedZero ((fieldD w) == 0) (.claim (fieldA w) (fieldB w)) := by
  unfold decodeGroup; rw [h]; first | done | rfl

theorem decodeGroup_3C_04 (w : W32) (h : (fieldF w).toNat = 0x04) : decodeGroup 0x3C w = unusedZero ((fieldB w) == 0) (.xcoll (fieldD w) (fieldA w)) := by
  unfold decodeGroup; rw [h]; first | done | rfl

theorem decodeGroup_3D_00 (w : W32) (h : (fieldF w).toNat = 0x00) : decodeGroup 0x3D w = unusedZero ((fieldD w) == 0) (.graft (fieldA w) (fieldB w)) := by
  unfold decodeGroup; rw [h]; first | done | rfl

theorem decodeGroup_3D_01 (w : W32) (h : (fieldF w).toNat = 0x01) : decodeGroup 0x3D w = unusedZero ((fieldD w) == 0 && (fieldB w) == 0) (.sfree (fieldA w)) := by
  unfold decodeGroup; rw [h]; first | done | rfl

theorem decodeGroup_3D_02 (w : W32) (h : (fieldF w).toNat = 0x02) : decodeGroup 0x3D w = unusedZero ((fieldB w) == 0) (.sinfo (fieldD w) (fieldA w)) := by
  unfold decodeGroup; rw [h]; first | done | rfl

theorem decodeGroup_3E_00 (w : W32) (h : (fieldF w).toNat = 0x00) : decodeGroup 0x3E w = unusedZero ((fieldA w) == 0 && (fieldB w) == 0) (.mres (fieldD w)) := by
  unfold decodeGroup; rw [h]; first | done | rfl

theorem decodeGroup_3E_01 (w : W32) (h : (fieldF w).toNat = 0x01) : decodeGroup 0x3E w = unusedZero ((fieldD w) == 0 && (fieldA w) == 0 && (fieldB w) == 0) .mrel := by
  unfold decodeGroup; rw [h]; first | done | rfl

theorem decodeGroup_3E_02 (w : W32) (h : (fieldF w).toNat = 0x02) : decodeGroup 0x3E w = unusedZero ((fieldD w) == 0 && (fieldB w) == 0) (.mrun (fieldA w)) := by
  unfold decodeGroup; rw [h]; first | done | rfl

/-! ### The round trip -/

/-- The fields of a word determine their parts. -/
theorem sub_extract (w : W32) (p n s k : Nat) (h : s + k ≤ n) : (w.extractLsb' p n).extractLsb' s k = w.extractLsb' (p + s) k := by
  apply BitVec.eq_of_getLsbD_eq
  intro i hi
  simp [show s + i < n by omega, Nat.add_assoc]

theorem sub_fieldF (w : W32) (s k : Nat) (h : s + k ≤ 5) : w.extractLsb' s k = (fieldF w).extractLsb' s k := by
  simp [fieldF, sub_extract w 0 5 s k h]
theorem sub_imm12 (w : W32) (s k : Nat) (h : s + k ≤ 12) : w.extractLsb' s k = (imm12 w).extractLsb' s k := by
  simp [imm12, sub_extract w 0 12 s k h]
theorem sub_imm19 (w : W32) (s k : Nat) (h : s + k ≤ 19) : w.extractLsb' s k = (imm19 w).extractLsb' s k := by
  simp [imm19, sub_extract w 0 19 s k h]
theorem sub_off26 (w : W32) (s k : Nat) (h : s + k ≤ 26) : w.extractLsb' s k = (off26 w).extractLsb' s k := by
  simp [off26, sub_extract w 0 26 s k h]
theorem sub_fieldA (w : W32) (s k : Nat) (l : 12 ≤ s) (h : s - 12 + k ≤ 7) : w.extractLsb' s k = (fieldA w).extractLsb' (s - 12) k := by
  simp [fieldA, sub_extract w 12 7 (s - 12) k h, show 12 + (s - 12) = s by omega]
theorem sub_fieldD (w : W32) (s k : Nat) (l : 19 ≤ s) (h : s - 19 + k ≤ 7) : w.extractLsb' s k = (fieldD w).extractLsb' (s - 19) k := by
  simp [fieldD, sub_extract w 19 7 (s - 19) k h, show 19 + (s - 19) = s by omega]

/-- R41: an S-format word, from its fields. -/
theorem readS {o : BitVec 6} {d a b : BitVec 7} {f : BitVec 5} {i : Instr}
    (h : ∀ w : W32, w.extractLsb' 26 6 = o → fieldD w = d → fieldA w = a → fieldB w = b → fieldF w = f → decodeScalar w = .ok i) :
    reads (wordS o d a b f) i := by
  refine h _ ?_ ?_ ?_ ?_ ?_
  all_goals
    try unfold fieldD
    try unfold fieldA
    try unfold fieldB
    try unfold fieldF
    repeat rw [extract_append_high _ _ _ _ (by decide)]
    try rw [extract_append_low _ _ _ _ (by decide)]
    exact BitVec.extractLsb'_eq_self

/-- R41: an I-format or B-format word, from its fields. -/
theorem readI {o : BitVec 6} {d a : BitVec 7} {n : BitVec 12} {i : Instr}
    (h : ∀ w : W32, w.extractLsb' 26 6 = o → fieldD w = d → fieldA w = a → imm12 w = n → decodeScalar w = .ok i) :
    reads (wordI o d a n) i := by
  refine h _ ?_ ?_ ?_ ?_
  all_goals
    try unfold fieldD
    try unfold fieldA
    try unfold imm12
    repeat rw [extract_append_high _ _ _ _ (by decide)]
    try rw [extract_append_low _ _ _ _ (by decide)]
    exact BitVec.extractLsb'_eq_self

/-- R41: an I-format word with a 19-bit immediate, from its fields. -/
theorem readL {o : BitVec 6} {d : BitVec 7} {n : BitVec 19} {i : Instr}
    (h : ∀ w : W32, w.extractLsb' 26 6 = o → fieldD w = d → imm19 w = n → decodeScalar w = .ok i) : reads (wordL o d n) i := by
  refine h _ ?_ ?_ ?_
  all_goals
    try unfold fieldD
    try unfold imm19
    repeat rw [extract_append_high _ _ _ _ (by decide)]
    try rw [extract_append_low _ _ _ _ (by decide)]
    exact BitVec.extractLsb'_eq_self

/-- R41: a J-format word, from its fields. -/
theorem readJ {o : BitVec 6} {n : BitVec 26} {i : Instr} (h : ∀ w : W32, w.extractLsb' 26 6 = o → off26 w = n → decodeScalar w = .ok i) :
    reads (wordJ o n) i := by
  refine h _ ?_ ?_
  all_goals
    try unfold off26
    repeat rw [extract_append_high _ _ _ _ (by decide)]
    try rw [extract_append_low _ _ _ _ (by decide)]
    exact BitVec.extractLsb'_eq_self

/-- R58: a damper word of the common form, from its fields. -/
theorem readDamper (o : BitVec 6) (d s : BitVec 4) (m : BitVec 2) (x : BitVec 16) (g : BitVec 4 → BitVec 4 → BitVec 2 → BitVec 16 → Instr)
    (h : ∀ w y : BitVec 16, (w.extractLsb' 10 6).toNat = o.toNat →
      ((w.extractLsb' 0 2 == 3 || (w.extractLsb' 0 2 == 2 && w.extractLsb' 2 4 != 0)) = false) → w.extractLsb' 6 4 = d →
      decodeDamper w y = .ok (g (w.extractLsb' 6 4) (w.extractLsb' 2 4) (w.extractLsb' 0 2) (if w.extractLsb' 0 2 == 2 then y else 0),
        if w.extractLsb' 0 2 == 2 then 2 else 1))
    (k : damperWellFormed s m x = true) : reads (wordD o d s m x) (g d s m x) := by
  have h1 : (o ++ d ++ s ++ m : BitVec 16).extractLsb' 10 6 = o := by
    repeat rw [extract_append_high _ _ _ _ (by decide)]
    exact BitVec.extractLsb'_eq_self
  have h2 : (o ++ d ++ s ++ m : BitVec 16).extractLsb' 6 4 = d := by
    repeat rw [extract_append_high _ _ _ _ (by decide)]
    rw [extract_append_low _ _ _ _ (by decide)]
    exact BitVec.extractLsb'_eq_self
  have h3 : (o ++ d ++ s ++ m : BitVec 16).extractLsb' 2 4 = s := by
    repeat rw [extract_append_high _ _ _ _ (by decide)]
    rw [extract_append_low _ _ _ _ (by decide)]
    exact BitVec.extractLsb'_eq_self
  have h4 : (o ++ d ++ s ++ m : BitVec 16).extractLsb' 0 2 = m := by
    rw [extract_append_low _ _ _ _ (by decide)]
    exact BitVec.extractLsb'_eq_self
  have r (y : BitVec 16) (b : _) := h (o ++ d ++ s ++ m) y (by rw [h1]) b h2
  rw [h2, h3, h4] at r
  unfold damperWellFormed at k
  unfold wordD
  by_cases m2 : m = 2
  · subst m2
    simp at k
    subst k
    exact r x rfl
  · have e : (m == 2) = false := by simpa using m2
    simp only [e, Bool.false_and, Bool.or_false, Bool.and_eq_true, bne_iff_ne, ne_eq, beq_iff_eq, Bool.false_eq_true, if_false] at k r ⊢
    obtain ⟨k1, rfl⟩ := k
    exact fun y => r y (by simpa using k1)

theorem readPre (c : BitVec 4) (y : BitVec 16) : decodeDamper (0x19#6 ++ c ++ 0#4 ++ 0#2 : BitVec 16) y = .ok (.dPre c, 1) := by
  have h1 : (0x19#6 ++ c ++ 0#4 ++ 0#2 : BitVec 16).extractLsb' 10 6 = 0x19 := by
    repeat rw [extract_append_high _ _ _ _ (by decide)]
    exact BitVec.extractLsb'_eq_self
  have h2 : (0x19#6 ++ c ++ 0#4 ++ 0#2 : BitVec 16).extractLsb' 6 4 = c := by
    repeat rw [extract_append_high _ _ _ _ (by decide)]
    rw [extract_append_low _ _ _ _ (by decide)]
    exact BitVec.extractLsb'_eq_self
  have h3 : (0x19#6 ++ c ++ 0#4 ++ 0#2 : BitVec 16).extractLsb' 2 4 = 0 := by
    repeat rw [extract_append_high _ _ _ _ (by decide)]
    rw [extract_append_low _ _ _ _ (by decide)]
    exact BitVec.extractLsb'_eq_self
  have h4 : (0x19#6 ++ c ++ 0#4 ++ 0#2 : BitVec 16).extractLsb' 0 2 = 0 := by
    rw [extract_append_low _ _ _ _ (by decide)]
    exact BitVec.extractLsb'_eq_self
  unfold decodeDamper
  rw [h1, h2, h3, h4]
  rfl

theorem readLane (f : LaneFields) (i : Instr) (h : laneWellFormed f i = true) : decodeLane (laneWord f) = .ok i := by
  simp only [laneWellFormed, Bool.and_eq_true, beq_iff_eq] at h
  simp only [decodeLane, laneFields_laneWord, h.1, h.2]

theorem readMatrix (f : LaneFields) (i : Instr) (h : matrixWellFormed f i = true) : decodeMatrix (laneWord f) = .ok i := by
  simp only [matrixWellFormed, Bool.and_eq_true, beq_iff_eq] at h
  simp only [decodeMatrix, laneFields_laneWord, h.1, h.2]


/-- The words of `i` decode to it when it is well formed. -/
def RoundTrip.Statement (i : Instr) : Prop := WellFormed i = true → reads (encode i) i

theorem RoundTrip.sadd (d a b : BitVec 7) : Statement (.sadd d a b) := fun _ => readS fun w ho hd ha hb hf => by
  rw [decodeScalar_01 w (by rw [ho]; rfl), decodeAlu_00 w (by rw [hf]; rfl)]
  simp only [hd, ha, hb]
  first | done | rfl

theorem RoundTrip.ssub (d a b : BitVec 7) : Statement (.ssub d a b) := fun _ => readS fun w ho hd ha hb hf => by
  rw [decodeScalar_01 w (by rw [ho]; rfl), decodeAlu_01 w (by rw [hf]; rfl)]
  simp only [hd, ha, hb]
  first | done | rfl

theorem RoundTrip.smul (d a b : BitVec 7) : Statement (.smul d a b) := fun _ => readS fun w ho hd ha hb hf => by
  rw [decodeScalar_01 w (by rw [ho]; rfl), decodeAlu_02 w (by rw [hf]; rfl)]
  simp only [hd, ha, hb]
  first | done | rfl

theorem RoundTrip.smulhI64 (d a b : BitVec 7) : Statement (.smulhI64 d a b) := fun _ => readS fun w ho hd ha hb hf => by
  rw [decodeScalar_01 w (by rw [ho]; rfl), decodeAlu_03 w (by rw [hf]; rfl)]
  simp only [hd, ha, hb]
  first | done | rfl

theorem RoundTrip.smulhN64 (d a b : BitVec 7) : Statement (.smulhN64 d a b) := fun _ => readS fun w ho hd ha hb hf => by
  rw [decodeScalar_01 w (by rw [ho]; rfl), decodeAlu_04 w (by rw [hf]; rfl)]
  simp only [hd, ha, hb]
  first | done | rfl

theorem RoundTrip.sdivI64 (d a b : BitVec 7) : Statement (.sdivI64 d a b) := fun _ => readS fun w ho hd ha hb hf => by
  rw [decodeScalar_01 w (by rw [ho]; rfl), decodeAlu_05 w (by rw [hf]; rfl)]
  simp only [hd, ha, hb]
  first | done | rfl

theorem RoundTrip.sdivN64 (d a b : BitVec 7) : Statement (.sdivN64 d a b) := fun _ => readS fun w ho hd ha hb hf => by
  rw [decodeScalar_01 w (by rw [ho]; rfl), decodeAlu_06 w (by rw [hf]; rfl)]
  simp only [hd, ha, hb]
  first | done | rfl

theorem RoundTrip.sremI64 (d a b : BitVec 7) : Statement (.sremI64 d a b) := fun _ => readS fun w ho hd ha hb hf => by
  rw [decodeScalar_01 w (by rw [ho]; rfl), decodeAlu_07 w (by rw [hf]; rfl)]
  simp only [hd, ha, hb]
  first | done | rfl

theorem RoundTrip.sremN64 (d a b : BitVec 7) : Statement (.sremN64 d a b) := fun _ => readS fun w ho hd ha hb hf => by
  rw [decodeScalar_01 w (by rw [ho]; rfl), decodeAlu_08 w (by rw [hf]; rfl)]
  simp only [hd, ha, hb]
  first | done | rfl

theorem RoundTrip.sand (d a b : BitVec 7) : Statement (.sand d a b) := fun _ => readS fun w ho hd ha hb hf => by
  rw [decodeScalar_01 w (by rw [ho]; rfl), decodeAlu_09 w (by rw [hf]; rfl)]
  simp only [hd, ha, hb]
  first | done | rfl

theorem RoundTrip.sor (d a b : BitVec 7) : Statement (.sor d a b) := fun _ => readS fun w ho hd ha hb hf => by
  rw [decodeScalar_01 w (by rw [ho]; rfl), decodeAlu_0A w (by rw [hf]; rfl)]
  simp only [hd, ha, hb]
  first | done | rfl

theorem RoundTrip.sxor (d a b : BitVec 7) : Statement (.sxor d a b) := fun _ => readS fun w ho hd ha hb hf => by
  rw [decodeScalar_01 w (by rw [ho]; rfl), decodeAlu_0B w (by rw [hf]; rfl)]
  simp only [hd, ha, hb]
  first | done | rfl

theorem RoundTrip.sandn (d a b : BitVec 7) : Statement (.sandn d a b) := fun _ => readS fun w ho hd ha hb hf => by
  rw [decodeScalar_01 w (by rw [ho]; rfl), decodeAlu_0C w (by rw [hf]; rfl)]
  simp only [hd, ha, hb]
  first | done | rfl

theorem RoundTrip.sshl (d a b : BitVec 7) : Statement (.sshl d a b) := fun _ => readS fun w ho hd ha hb hf => by
  rw [decodeScalar_01 w (by rw [ho]; rfl), decodeAlu_0D w (by rw [hf]; rfl)]
  simp only [hd, ha, hb]
  first | done | rfl

theorem RoundTrip.sshr (d a b : BitVec 7) : Statement (.sshr d a b) := fun _ => readS fun w ho hd ha hb hf => by
  rw [decodeScalar_01 w (by rw [ho]; rfl), decodeAlu_0E w (by rw [hf]; rfl)]
  simp only [hd, ha, hb]
  first | done | rfl

theorem RoundTrip.ssra (d a b : BitVec 7) : Statement (.ssra d a b) := fun _ => readS fun w ho hd ha hb hf => by
  rw [decodeScalar_01 w (by rw [ho]; rfl), decodeAlu_0F w (by rw [hf]; rfl)]
  simp only [hd, ha, hb]
  first | done | rfl

theorem RoundTrip.sminI64 (d a b : BitVec 7) : Statement (.sminI64 d a b) := fun _ => readS fun w ho hd ha hb hf => by
  rw [decodeScalar_01 w (by rw [ho]; rfl), decodeAlu_10 w (by rw [hf]; rfl)]
  simp only [hd, ha, hb]
  first | done | rfl

theorem RoundTrip.smaxI64 (d a b : BitVec 7) : Statement (.smaxI64 d a b) := fun _ => readS fun w ho hd ha hb hf => by
  rw [decodeScalar_01 w (by rw [ho]; rfl), decodeAlu_11 w (by rw [hf]; rfl)]
  simp only [hd, ha, hb]
  first | done | rfl

theorem RoundTrip.sminN64 (d a b : BitVec 7) : Statement (.sminN64 d a b) := fun _ => readS fun w ho hd ha hb hf => by
  rw [decodeScalar_01 w (by rw [ho]; rfl), decodeAlu_12 w (by rw [hf]; rfl)]
  simp only [hd, ha, hb]
  first | done | rfl

theorem RoundTrip.smaxN64 (d a b : BitVec 7) : Statement (.smaxN64 d a b) := fun _ => readS fun w ho hd ha hb hf => by
  rw [decodeScalar_01 w (by rw [ho]; rfl), decodeAlu_13 w (by rw [hf]; rfl)]
  simp only [hd, ha, hb]
  first | done | rfl

theorem RoundTrip.saddImm (d a : BitVec 7) (i : BitVec 12) : Statement (.saddImm d a i) := fun _ => readI fun w ho hd ha hi => by
  rw [decodeScalar_03 w (by rw [ho]; rfl)]
  simp only [hd, ha, hi]
  first | done | rfl

theorem RoundTrip.sandImm (d a : BitVec 7) (i : BitVec 12) : Statement (.sandImm d a i) := fun _ => readI fun w ho hd ha hi => by
  rw [decodeScalar_04 w (by rw [ho]; rfl)]
  simp only [hd, ha, hi]
  first | done | rfl

theorem RoundTrip.sorImm (d a : BitVec 7) (i : BitVec 12) : Statement (.sorImm d a i) := fun _ => readI fun w ho hd ha hi => by
  rw [decodeScalar_05 w (by rw [ho]; rfl)]
  simp only [hd, ha, hi]
  first | done | rfl

theorem RoundTrip.sxorImm (d a : BitVec 7) (i : BitVec 12) : Statement (.sxorImm d a i) := fun _ => readI fun w ho hd ha hi => by
  rw [decodeScalar_06 w (by rw [ho]; rfl)]
  simp only [hd, ha, hi]
  first | done | rfl

theorem RoundTrip.sshlImm (d a : BitVec 7) (n : BitVec 6) : Statement (.sshlImm d a n) := fun _ => readI fun w ho hd ha hi => by
  rw [decodeScalar_07 w (by rw [ho]; rfl), sub_imm12 w 6 6 (by decide), sub_imm12 w 0 6 (by decide)]
  simp only [hd, ha, hi]
  repeat first | rw [extract_append_high _ _ _ _ (by decide)] | rw [extract_append_low _ _ _ _ (by decide)]
  simp [unusedZero]

theorem RoundTrip.sshrImm (d a : BitVec 7) (n : BitVec 6) : Statement (.sshrImm d a n) := fun _ => readI fun w ho hd ha hi => by
  rw [decodeScalar_08 w (by rw [ho]; rfl), sub_imm12 w 6 6 (by decide), sub_imm12 w 0 6 (by decide)]
  simp only [hd, ha, hi]
  repeat first | rw [extract_append_high _ _ _ _ (by decide)] | rw [extract_append_low _ _ _ _ (by decide)]
  simp [unusedZero]

theorem RoundTrip.ssraImm (d a : BitVec 7) (n : BitVec 6) : Statement (.ssraImm d a n) := fun _ => readI fun w ho hd ha hi => by
  rw [decodeScalar_09 w (by rw [ho]; rfl), sub_imm12 w 6 6 (by decide), sub_imm12 w 0 6 (by decide)]
  simp only [hd, ha, hi]
  repeat first | rw [extract_append_high _ _ _ _ (by decide)] | rw [extract_append_low _ _ _ _ (by decide)]
  simp [unusedZero]

theorem RoundTrip.sclz (d a : BitVec 7) : Statement (.sclz d a) := fun _ => readS fun w ho hd ha hb hf => by
  rw [decodeScalar_01 w (by rw [ho]; rfl), decodeAlu_14 w (by rw [hf]; rfl)]
  simp only [hd, ha, hb]
  first | done | rfl

theorem RoundTrip.spopc (d a : BitVec 7) : Statement (.spopc d a) := fun _ => readS fun w ho hd ha hb hf => by
  rw [decodeScalar_01 w (by rw [ho]; rfl), decodeAlu_15 w (by rw [hf]; rfl)]
  simp only [hd, ha, hb]
  first | done | rfl

theorem RoundTrip.smov (d a : BitVec 7) : Statement (.smov d a) := fun _ => readS fun w ho hd ha hb hf => by
  rw [decodeScalar_01 w (by rw [ho]; rfl), decodeAlu_16 w (by rw [hf]; rfl)]
  simp only [hd, ha, hb]
  first | done | rfl

theorem RoundTrip.ssel (d a b : BitVec 7) : Statement (.ssel d a b) := fun _ => readS fun w ho hd ha hb hf => by
  rw [decodeScalar_01 w (by rw [ho]; rfl), decodeAlu_17 w (by rw [hf]; rfl)]
  simp only [hd, ha, hb]
  first | done | rfl

theorem RoundTrip.smovMailbox (d : BitVec 7) (m : BitVec 3) : Statement (.smovMailbox d m) := fun _ => readS fun w ho hd ha hb hf => by
  rw [decodeScalar_01 w (by rw [ho]; rfl), decodeAlu_18 w (by rw [hf]; rfl), sub_fieldA w 15 4 (by decide) (by decide), sub_fieldA w 12 3 (by decide) (by decide)]
  simp only [hd, hb, ha]
  repeat first | rw [extract_append_high _ _ _ _ (by decide)] | rw [extract_append_low _ _ _ _ (by decide)]
  simp [unusedZero]

theorem RoundTrip.scmp (d a b : BitVec 7) (c : BitVec 4) : Statement (.scmp d a b c) := fun _ => readS fun w ho hd ha hb hf => by
  rw [decodeScalar_02 w (by rw [ho]; rfl), sub_fieldF w 0 4 (by decide)]
  simp only [hd, ha, hb, hf]
  rw [(by decide : ∀ c : BitVec 4, ((0 : BitVec 1) ++ c : BitVec 5).getLsbD 4 = false) c, extract_append_low _ _ _ _ (by decide), BitVec.extractLsb'_eq_self]
  rfl

theorem RoundTrip.sli (d : BitVec 7) (i : BitVec 19) : Statement (.sli d i) := fun _ => readL fun w ho hd hi => by
  rw [decodeScalar_0A w (by rw [ho]; rfl)]
  simp only [hd, hi]
  first | done | rfl

theorem RoundTrip.slui (d : BitVec 7) (i : BitVec 19) : Statement (.slui d i) := fun _ => readL fun w ho hd hi => by
  rw [decodeScalar_0B w (by rw [ho]; rfl)]
  simp only [hd, hi]
  first | done | rfl

theorem RoundTrip.sbEq (a b : BitVec 7) (o : BitVec 12) : Statement (.sbEq a b o) := fun _ => readI fun w ho hd ha hi => by
  rw [decodeScalar_10 w (by rw [ho]; rfl)]
  simp only [hd, ha, hi]
  first | done | rfl

theorem RoundTrip.sbNe (a b : BitVec 7) (o : BitVec 12) : Statement (.sbNe a b o) := fun _ => readI fun w ho hd ha hi => by
  rw [decodeScalar_11 w (by rw [ho]; rfl)]
  simp only [hd, ha, hi]
  first | done | rfl

theorem RoundTrip.sbLt (a b : BitVec 7) (o : BitVec 12) : Statement (.sbLt a b o) := fun _ => readI fun w ho hd ha hi => by
  rw [decodeScalar_12 w (by rw [ho]; rfl)]
  simp only [hd, ha, hi]
  first | done | rfl

theorem RoundTrip.sbGe (a b : BitVec 7) (o : BitVec 12) : Statement (.sbGe a b o) := fun _ => readI fun w ho hd ha hi => by
  rw [decodeScalar_13 w (by rw [ho]; rfl)]
  simp only [hd, ha, hi]
  first | done | rfl

theorem RoundTrip.sbLtn (a b : BitVec 7) (o : BitVec 12) : Statement (.sbLtn a b o) := fun _ => readI fun w ho hd ha hi => by
  rw [decodeScalar_14 w (by rw [ho]; rfl)]
  simp only [hd, ha, hi]
  first | done | rfl

theorem RoundTrip.sbGen (a b : BitVec 7) (o : BitVec 12) : Statement (.sbGen a b o) := fun _ => readI fun w ho hd ha hi => by
  rw [decodeScalar_15 w (by rw [ho]; rfl)]
  simp only [hd, ha, hi]
  first | done | rfl

theorem RoundTrip.pqpush (a : BitVec 7) (o : BitVec 12) : Statement (.pqpush a o) := fun _ => readI fun w ho hd ha hi => by
  rw [decodeScalar_16 w (by rw [ho]; rfl)]
  simp only [hd, ha, hi]
  first | done | rfl

theorem RoundTrip.pqjoin (o : BitVec 12) : Statement (.pqjoin o) := fun _ => readI fun w ho hd ha hi => by
  rw [decodeScalar_17 w (by rw [ho]; rfl)]
  simp only [hd, ha, hi]
  first | done | rfl

theorem RoundTrip.sj (o : BitVec 26) : Statement (.sj o) := fun _ => readJ fun w ho hi => by
  rw [decodeScalar_18 w (by rw [ho]; rfl)]
  simp only [hi]
  first | done | rfl

theorem RoundTrip.scall (o : BitVec 26) : Statement (.scall o) := fun _ => readJ fun w ho hi => by
  rw [decodeScalar_19 w (by rw [ho]; rfl)]
  simp only [hi]
  first | done | rfl

theorem RoundTrip.lrun (c : BitVec 26) : Statement (.lrun c) := fun _ => readJ fun w ho hi => by
  rw [decodeScalar_1A w (by rw [ho]; rfl)]
  simp only [hi]
  first | done | rfl

theorem RoundTrip.sjr (a : BitVec 7) : Statement (.sjr a) := fun _ => readS fun w ho hd ha hb hf => by
  rw [decodeScalar_1B w (by rw [ho]; rfl), decodeGroup_1B_00 w (by rw [hf]; rfl)]
  simp only [hd, ha, hb]
  first | done | rfl

theorem RoundTrip.scallr (a : BitVec 7) : Statement (.scallr a) := fun _ => readS fun w ho hd ha hb hf => by
  rw [decodeScalar_1B w (by rw [ho]; rfl), decodeGroup_1B_01 w (by rw [hf]; rfl)]
  simp only [hd, ha, hb]
  first | done | rfl

theorem RoundTrip.sret : Statement .sret := fun _ => readS fun w ho hd ha hb hf => by
  rw [decodeScalar_1B w (by rw [ho]; rfl), decodeGroup_1B_02 w (by rw [hf]; rfl)]
  simp only [hd, ha, hb]
  first | done | rfl

theorem RoundTrip.exit : Statement .exit := fun _ => readS fun w ho hd ha hb hf => by
  rw [decodeScalar_1B w (by rw [ho]; rfl), decodeGroup_1B_03 w (by rw [hf]; rfl)]
  simp only [hd, ha, hb]
  first | done | rfl

theorem RoundTrip.sexec (a : BitVec 7) : Statement (.sexec a) := fun _ => readS fun w ho hd ha hb hf => by
  rw [decodeScalar_1C w (by rw [ho]; rfl), decodeGroup_1C_00 w (by rw [hf]; rfl)]
  simp only [hd, ha, hb]
  first | done | rfl

theorem RoundTrip.pqnext : Statement .pqnext := fun _ => readS fun w ho hd ha hb hf => by
  rw [decodeScalar_1C w (by rw [ho]; rfl), decodeGroup_1C_01 w (by rw [hf]; rfl)]
  simp only [hd, ha, hb]
  first | done | rfl

theorem RoundTrip.pqsave (a : BitVec 7) : Statement (.pqsave a) := fun _ => readS fun w ho hd ha hb hf => by
  rw [decodeScalar_1C w (by rw [ho]; rfl), decodeGroup_1C_02 w (by rw [hf]; rfl)]
  simp only [hd, ha, hb]
  first | done | rfl

theorem RoundTrip.pqload (a : BitVec 7) : Statement (.pqload a) := fun _ => readS fun w ho hd ha hb hf => by
  rw [decodeScalar_1C w (by rw [ho]; rfl), decodeGroup_1C_03 w (by rw [hf]; rfl)]
  simp only [hd, ha, hb]
  first | done | rfl

theorem RoundTrip.syield : Statement .syield := fun _ => readS fun w ho hd ha hb hf => by
  rw [decodeScalar_1C w (by rw [ho]; rfl), decodeGroup_1C_04 w (by rw [hf]; rfl)]
  simp only [hd, ha, hb]
  first | done | rfl

theorem RoundTrip.lk (k : BitVec 2) (a : BitVec 7) : Statement (.lk k a) := fun _ => readS fun w ho hd ha hb hf => by
  rw [decodeScalar_1D w (by rw [ho]; rfl), sub_fieldD w 21 5 (by decide) (by decide), sub_fieldD w 19 2 (by decide) (by decide)]
  simp only [ha, hb, hf, hd]
  repeat first | rw [extract_append_high _ _ _ _ (by decide)] | rw [extract_append_low _ _ _ _ (by decide)]
  simp [unusedZero]

theorem RoundTrip.lwait (f : BitVec 12) : Statement (.lwait f) := fun _ => readI fun w ho hd ha hi => by
  rw [decodeScalar_1E w (by rw [ho]; rfl)]
  simp only [hd, ha, hi]
  first | done | rfl

theorem RoundTrip.region (o : BitVec 26) : Statement (.region o) := fun _ => readJ fun w ho hi => by
  rw [decodeScalar_20 w (by rw [ho]; rfl)]
  simp only [hi]
  first | done | rfl

theorem RoundTrip.iqloop (p : BitVec 5) (v : BitVec 10) (m : BitVec 3) : Statement (.iqloop p v m) := fun _ => readJ fun w ho hi => by
  rw [decodeScalar_21 w (by rw [ho]; rfl), sub_off26 w 0 8 (by decide), sub_off26 w 21 5 (by decide), sub_off26 w 11 10 (by decide), sub_off26 w 8 3 (by decide)]
  simp only [hi]
  repeat first | rw [extract_append_high _ _ _ _ (by decide)] | rw [extract_append_low _ _ _ _ (by decide)]
  simp [unusedZero]

theorem RoundTrip.mark (t : BitVec 16) : Statement (.mark t) := fun _ => readL fun w ho hd hi => by
  rw [decodeScalar_22 w (by rw [ho]; rfl), sub_imm19 w 16 3 (by decide), sub_imm19 w 0 16 (by decide)]
  simp only [hd, hi]
  repeat first | rw [extract_append_high _ _ _ _ (by decide)] | rw [extract_append_low _ _ _ _ (by decide)]
  simp [unusedZero]

theorem RoundTrip.cut (d : BitVec 7) (t : BitVec 16) : Statement (.cut d t) := fun _ => readL fun w ho hd hi => by
  rw [decodeScalar_23 w (by rw [ho]; rfl), sub_imm19 w 16 3 (by decide), sub_imm19 w 0 16 (by decide)]
  simp only [hd, hi]
  repeat first | rw [extract_append_high _ _ _ _ (by decide)] | rw [extract_append_low _ _ _ _ (by decide)]
  simp [unusedZero]

theorem RoundTrip.glaunch (d a : BitVec 7) : Statement (.glaunch d a) := fun _ => readS fun w ho hd ha hb hf => by
  rw [decodeScalar_24 w (by rw [ho]; rfl), decodeGroup_24_00 w (by rw [hf]; rfl)]
  simp only [hd, ha, hb]
  first | done | rfl

theorem RoundTrip.stime (d : BitVec 7) : Statement (.stime d) := fun _ => readS fun w ho hd ha hb hf => by
  rw [decodeScalar_24 w (by rw [ho]; rfl), decodeGroup_24_01 w (by rw [hf]; rfl)]
  simp only [hd, ha, hb]
  first | done | rfl

theorem RoundTrip.srd (d : BitVec 7) (n : BitVec 12) : Statement (.srd d n) := fun _ => readI fun w ho hd ha hi => by
  rw [decodeScalar_25 w (by rw [ho]; rfl)]
  simp only [hd, ha, hi]
  first | done | rfl

theorem RoundTrip.swr (a : BitVec 7) (n : BitVec 12) : Statement (.swr a n) := fun _ => readI fun w ho hd ha hi => by
  rw [decodeScalar_26 w (by rw [ho]; rfl)]
  simp only [hd, ha, hi]
  first | done | rfl

theorem RoundTrip.trap (c : BitVec 12) : Statement (.trap c) := fun _ => readI fun w ho hd ha hi => by
  rw [decodeScalar_27 w (by rw [ho]; rfl)]
  simp only [hd, ha, hi]
  first | done | rfl

theorem RoundTrip.brk (c : BitVec 12) : Statement (.brk c) := fun _ => readI fun w ho hd ha hi => by
  rw [decodeScalar_28 w (by rw [ho]; rfl)]
  simp only [hd, ha, hi]
  first | done | rfl

theorem RoundTrip.meet (a : BitVec 7) (n : BitVec 4) : Statement (.meet a n) := fun _ => readI fun w ho hd ha hi => by
  rw [decodeScalar_2E w (by rw [ho]; rfl), sub_imm12 w 4 8 (by decide), sub_imm12 w 0 4 (by decide)]
  simp only [hd, ha, hi]
  repeat first | rw [extract_append_high _ _ _ _ (by decide)] | rw [extract_append_low _ _ _ _ (by decide)]
  simp [unusedZero]

theorem RoundTrip.nop : Statement .nop := fun _ => readJ fun w ho hi => by
  rw [decodeScalar_2F w (by rw [ho]; rfl)]
  simp only [hi]
  first | done | rfl

theorem RoundTrip.sld (d a : BitVec 7) (o : BitVec 6) (s h : BitVec 3) : Statement (.sld d a o s h) := fun _ => readI fun w ho hd ha hi => by
  rw [decodeScalar_30 w (by rw [ho]; rfl), sub_imm12 w 6 6 (by decide), sub_imm12 w 3 3 (by decide), sub_imm12 w 0 3 (by decide)]
  simp only [hd, ha, hi]
  repeat first | rw [extract_append_high _ _ _ _ (by decide)] | rw [extract_append_low _ _ _ _ (by decide)]
  simp 

theorem RoundTrip.sldAcquire (d a : BitVec 7) (o : BitVec 6) (s c : BitVec 3) : Statement (.sldAcquire d a o s c) := fun _ => readI fun w ho hd ha hi => by
  rw [decodeScalar_31 w (by rw [ho]; rfl), sub_imm12 w 6 6 (by decide), sub_imm12 w 3 3 (by decide), sub_imm12 w 0 3 (by decide)]
  simp only [hd, ha, hi]
  repeat first | rw [extract_append_high _ _ _ _ (by decide)] | rw [extract_append_low _ _ _ _ (by decide)]
  simp 

theorem RoundTrip.sst (d a : BitVec 7) (o : BitVec 6) (s h : BitVec 3) : Statement (.sst d a o s h) := fun _ => readI fun w ho hd ha hi => by
  rw [decodeScalar_32 w (by rw [ho]; rfl), sub_imm12 w 6 6 (by decide), sub_imm12 w 3 3 (by decide), sub_imm12 w 0 3 (by decide)]
  simp only [hd, ha, hi]
  repeat first | rw [extract_append_high _ _ _ _ (by decide)] | rw [extract_append_low _ _ _ _ (by decide)]
  simp 

theorem RoundTrip.sstRelease (d a : BitVec 7) (o : BitVec 6) (s c : BitVec 3) : Statement (.sstRelease d a o s c) := fun _ => readI fun w ho hd ha hi => by
  rw [decodeScalar_33 w (by rw [ho]; rfl), sub_imm12 w 6 6 (by decide), sub_imm12 w 3 3 (by decide), sub_imm12 w 0 3 (by decide)]
  simp only [hd, ha, hi]
  repeat first | rw [extract_append_high _ _ _ _ (by decide)] | rw [extract_append_low _ _ _ _ (by decide)]
  simp 

theorem RoundTrip.fence (k : BitVec 2) (c : BitVec 3) : Statement (.fence k c) := fun _ => readS fun w ho hd ha hb hf => by
  rw [decodeScalar_34 w (by rw [ho]; rfl), sub_fieldF w 3 2 (by decide), sub_fieldF w 0 3 (by decide)]
  simp only [hd, ha, hb, hf]
  repeat first | rw [extract_append_high _ _ _ _ (by decide)] | rw [extract_append_low _ _ _ _ (by decide)]
  simp [unusedZero]

theorem RoundTrip.cadd (a b : BitVec 7) (c : BitVec 3) : Statement (.cadd a b c) := fun _ => readS fun w ho hd ha hb hf => by
  rw [decodeScalar_35 w (by rw [ho]; rfl), sub_fieldF w 3 2 (by decide), sub_fieldF w 0 3 (by decide)]
  simp only [hd, ha, hb, hf]
  repeat first | rw [extract_append_high _ _ _ _ (by decide)] | rw [extract_append_low _ _ _ _ (by decide)]
  simp [unusedZero]

theorem RoundTrip.cwait (a b : BitVec 7) (c : BitVec 3) : Statement (.cwait a b c) := fun _ => readS fun w ho hd ha hb hf => by
  rw [decodeScalar_36 w (by rw [ho]; rfl), sub_fieldF w 3 2 (by decide), sub_fieldF w 0 3 (by decide)]
  simp only [hd, ha, hb, hf]
  repeat first | rw [extract_append_high _ _ _ _ (by decide)] | rw [extract_append_low _ _ _ _ (by decide)]
  simp [unusedZero]

theorem RoundTrip.cread (d a : BitVec 7) : Statement (.cread d a) := fun _ => readS fun w ho hd ha hb hf => by
  rw [decodeScalar_37 w (by rw [ho]; rfl)]
  simp only [hd, ha, hb, hf]
  first | done | rfl

theorem RoundTrip.cpy (d a b : BitVec 7) : Statement (.cpy d a b) := fun _ => readS fun w ho hd ha hb hf => by
  rw [decodeScalar_38 w (by rw [ho]; rfl)]
  simp only [hd, ha, hb, hf]
  first | done | rfl

theorem RoundTrip.cpy2d (d a b : BitVec 7) : Statement (.cpy2d d a b) := fun _ => readS fun w ho hd ha hb hf => by
  rw [decodeScalar_39 w (by rw [ho]; rfl)]
  simp only [hd, ha, hb, hf]
  first | done | rfl

theorem RoundTrip.cseal (d : BitVec 7) : Statement (.cseal d) := fun _ => readS fun w ho hd ha hb hf => by
  rw [decodeScalar_3A w (by rw [ho]; rfl)]
  simp only [hd, ha, hb, hf]
  first | done | rfl

theorem RoundTrip.wmap (d a b : BitVec 7) (m : BitVec 2) : Statement (.wmap d a b m) := fun _ => readS fun w ho hd ha hb hf => by
  rw [decodeScalar_3B w (by rw [ho]; rfl), sub_fieldF w 2 3 (by decide), sub_fieldF w 0 2 (by decide)]
  simp only [hd, ha, hb, hf]
  repeat first | rw [extract_append_high _ _ _ _ (by decide)] | rw [extract_append_low _ _ _ _ (by decide)]
  simp [unusedZero]

theorem RoundTrip.wunmap (a : BitVec 7) : Statement (.wunmap a) := fun _ => readS fun w ho hd ha hb hf => by
  rw [decodeScalar_3C w (by rw [ho]; rfl), decodeGroup_3C_00 w (by rw [hf]; rfl)]
  simp only [hd, ha, hb]
  first | done | rfl

theorem RoundTrip.wflush (a : BitVec 7) : Statement (.wflush a) := fun _ => readS fun w ho hd ha hb hf => by
  rw [decodeScalar_3C w (by rw [ho]; rfl), decodeGroup_3C_01 w (by rw [hf]; rfl)]
  simp only [hd, ha, hb]
  first | done | rfl

theorem RoundTrip.winval (a : BitVec 7) : Statement (.winval a) := fun _ => readS fun w ho hd ha hb hf => by
  rw [decodeScalar_3C w (by rw [ho]; rfl), decodeGroup_3C_02 w (by rw [hf]; rfl)]
  simp only [hd, ha, hb]
  first | done | rfl

theorem RoundTrip.claim (a b : BitVec 7) : Statement (.claim a b) := fun _ => readS fun w ho hd ha hb hf => by
  rw [decodeScalar_3C w (by rw [ho]; rfl), decodeGroup_3C_03 w (by rw [hf]; rfl)]
  simp only [hd, ha, hb]
  first | done | rfl

theorem RoundTrip.xcoll (d a : BitVec 7) : Statement (.xcoll d a) := fun _ => readS fun w ho hd ha hb hf => by
  rw [decodeScalar_3C w (by rw [ho]; rfl), decodeGroup_3C_04 w (by rw [hf]; rfl)]
  simp only [hd, ha, hb]
  first | done | rfl

theorem RoundTrip.graft (a b : BitVec 7) : Statement (.graft a b) := fun _ => readS fun w ho hd ha hb hf => by
  rw [decodeScalar_3D w (by rw [ho]; rfl), decodeGroup_3D_00 w (by rw [hf]; rfl)]
  simp only [hd, ha, hb]
  first | done | rfl

theorem RoundTrip.sfree (a : BitVec 7) : Statement (.sfree a) := fun _ => readS fun w ho hd ha hb hf => by
  rw [decodeScalar_3D w (by rw [ho]; rfl), decodeGroup_3D_01 w (by rw [hf]; rfl)]
  simp only [hd, ha, hb]
  first | done | rfl

theorem RoundTrip.sinfo (d a : BitVec 7) : Statement (.sinfo d a) := fun _ => readS fun w ho hd ha hb hf => by
  rw [decodeScalar_3D w (by rw [ho]; rfl), decodeGroup_3D_02 w (by rw [hf]; rfl)]
  simp only [hd, ha, hb]
  first | done | rfl

theorem RoundTrip.mres (d : BitVec 7) : Statement (.mres d) := fun _ => readS fun w ho hd ha hb hf => by
  rw [decodeScalar_3E w (by rw [ho]; rfl), decodeGroup_3E_00 w (by rw [hf]; rfl)]
  simp only [hd, ha, hb]
  first | done | rfl

theorem RoundTrip.mrel : Statement .mrel := fun _ => readS fun w ho hd ha hb hf => by
  rw [decodeScalar_3E w (by rw [ho]; rfl), decodeGroup_3E_01 w (by rw [hf]; rfl)]
  simp only [hd, ha, hb]
  first | done | rfl

theorem RoundTrip.mrun (a : BitVec 7) : Statement (.mrun a) := fun _ => readS fun w ho hd ha hb hf => by
  rw [decodeScalar_3E w (by rw [ho]; rfl), decodeGroup_3E_02 w (by rw [hf]; rfl)]
  simp only [hd, ha, hb]
  first | done | rfl

theorem RoundTrip.vadd (f : LaneFields) : Statement (.vadd f) := readLane f _

theorem RoundTrip.vsub (f : LaneFields) : Statement (.vsub f) := readLane f _

theorem RoundTrip.vmul (f : LaneFields) : Statement (.vmul f) := readLane f _

theorem RoundTrip.vmulHi (f : LaneFields) : Statement (.vmulHi f) := readLane f _

theorem RoundTrip.vmad (f : LaneFields) : Statement (.vmad f) := readLane f _

theorem RoundTrip.vmin (f : LaneFields) : Statement (.vmin f) := readLane f _

theorem RoundTrip.vmax (f : LaneFields) : Statement (.vmax f) := readLane f _

theorem RoundTrip.vand (f : LaneFields) : Statement (.vand f) := readLane f _

theorem RoundTrip.vor (f : LaneFields) : Statement (.vor f) := readLane f _

theorem RoundTrip.vxor (f : LaneFields) : Statement (.vxor f) := readLane f _

theorem RoundTrip.vnot (f : LaneFields) : Statement (.vnot f) := readLane f _

theorem RoundTrip.vshl (f : LaneFields) : Statement (.vshl f) := readLane f _

theorem RoundTrip.vshr (f : LaneFields) : Statement (.vshr f) := readLane f _

theorem RoundTrip.vsra (f : LaneFields) : Statement (.vsra f) := readLane f _

theorem RoundTrip.vbfe (f : LaneFields) : Statement (.vbfe f) := readLane f _

theorem RoundTrip.vbfi (f : LaneFields) : Statement (.vbfi f) := readLane f _

theorem RoundTrip.vpopc (f : LaneFields) : Statement (.vpopc f) := readLane f _

theorem RoundTrip.vclz (f : LaneFields) : Statement (.vclz f) := readLane f _

theorem RoundTrip.vbrev (f : LaneFields) : Statement (.vbrev f) := readLane f _

theorem RoundTrip.vsel (f : LaneFields) : Statement (.vsel f) := readLane f _

theorem RoundTrip.vmov (f : LaneFields) : Statement (.vmov f) := readLane f _

theorem RoundTrip.vli (f : LaneFields) : Statement (.vli f) := readLane f _

theorem RoundTrip.vliHi (f : LaneFields) : Statement (.vliHi f) := readLane f _

theorem RoundTrip.vfadd (f : LaneFields) : Statement (.vfadd f) := readLane f _

theorem RoundTrip.vfsub (f : LaneFields) : Statement (.vfsub f) := readLane f _

theorem RoundTrip.vfmul (f : LaneFields) : Statement (.vfmul f) := readLane f _

theorem RoundTrip.vffma (f : LaneFields) : Statement (.vffma f) := readLane f _

theorem RoundTrip.vfmin (f : LaneFields) : Statement (.vfmin f) := readLane f _

theorem RoundTrip.vfmax (f : LaneFields) : Statement (.vfmax f) := readLane f _

theorem RoundTrip.vfrcp (f : LaneFields) : Statement (.vfrcp f) := readLane f _

theorem RoundTrip.vfrsq (f : LaneFields) : Statement (.vfrsq f) := readLane f _

theorem RoundTrip.vfsqrt (f : LaneFields) : Statement (.vfsqrt f) := readLane f _

theorem RoundTrip.vfdiv (f : LaneFields) : Statement (.vfdiv f) := readLane f _

theorem RoundTrip.vfexp2 (f : LaneFields) : Statement (.vfexp2 f) := readLane f _

theorem RoundTrip.vflog2 (f : LaneFields) : Statement (.vflog2 f) := readLane f _

theorem RoundTrip.vfsin (f : LaneFields) : Statement (.vfsin f) := readLane f _

theorem RoundTrip.vfcos (f : LaneFields) : Statement (.vfcos f) := readLane f _

theorem RoundTrip.vfrnd (f : LaneFields) : Statement (.vfrnd f) := readLane f _

theorem RoundTrip.vffrac (f : LaneFields) : Statement (.vffrac f) := readLane f _

theorem RoundTrip.vfcls (f : LaneFields) : Statement (.vfcls f) := readLane f _

theorem RoundTrip.vicmp (f : LaneFields) : Statement (.vicmp f) := readLane f _

theorem RoundTrip.vfcmp (f : LaneFields) : Statement (.vfcmp f) := readLane f _

theorem RoundTrip.pand (f : LaneFields) : Statement (.pand f) := readLane f _

theorem RoundTrip.por (f : LaneFields) : Statement (.por f) := readLane f _

theorem RoundTrip.pxor (f : LaneFields) : Statement (.pxor f) := readLane f _

theorem RoundTrip.pnot (f : LaneFields) : Statement (.pnot f) := readLane f _

theorem RoundTrip.pmov (f : LaneFields) : Statement (.pmov f) := readLane f _

theorem RoundTrip.pmovFromLane (f : LaneFields) : Statement (.pmovFromLane f) := readLane f _

theorem RoundTrip.pmovToLane (f : LaneFields) : Statement (.pmovToLane f) := readLane f _

theorem RoundTrip.vdot4 (f : LaneFields) : Statement (.vdot4 f) := readLane f _

theorem RoundTrip.vfdot2 (f : LaneFields) : Statement (.vfdot2 f) := readLane f _

theorem RoundTrip.vcvtDec (f : LaneFields) : Statement (.vcvtDec f) := readLane f _

theorem RoundTrip.vcvtEnc (f : LaneFields) : Statement (.vcvtEnc f) := readLane f _

theorem RoundTrip.vpk (f : LaneFields) : Statement (.vpk f) := readLane f _

theorem RoundTrip.vupk (f : LaneFields) : Statement (.vupk f) := readLane f _

theorem RoundTrip.vscl (f : LaneFields) : Statement (.vscl f) := readLane f _

theorem RoundTrip.vshfl (f : LaneFields) : Statement (.vshfl f) := readLane f _

theorem RoundTrip.vbcast (f : LaneFields) : Statement (.vbcast f) := readLane f _

theorem RoundTrip.vbcastFirst (f : LaneFields) : Statement (.vbcastFirst f) := readLane f _

theorem RoundTrip.vscan (f : LaneFields) : Statement (.vscan f) := readLane f _

theorem RoundTrip.vballot (f : LaneFields) : Statement (.vballot f) := readLane f _

theorem RoundTrip.vballotCnt (f : LaneFields) : Statement (.vballotCnt f) := readLane f _

theorem RoundTrip.vred (f : LaneFields) : Statement (.vred f) := readLane f _

theorem RoundTrip.vmbox (f : LaneFields) : Statement (.vmbox f) := readLane f _

theorem RoundTrip.vmboxLast (f : LaneFields) : Statement (.vmboxLast f) := readLane f _

theorem RoundTrip.vlid (f : LaneFields) : Statement (.vlid f) := readLane f _

theorem RoundTrip.vixs (f : LaneFields) : Statement (.vixs f) := readLane f _

theorem RoundTrip.vld (f : LaneFields) : Statement (.vld f) := readLane f _

theorem RoundTrip.vldAcquire (f : LaneFields) : Statement (.vldAcquire f) := readLane f _

theorem RoundTrip.vst (f : LaneFields) : Statement (.vst f) := readLane f _

theorem RoundTrip.vstRelease (f : LaneFields) : Statement (.vstRelease f) := readLane f _

theorem RoundTrip.vlds (f : LaneFields) : Statement (.vlds f) := readLane f _

theorem RoundTrip.vsts (f : LaneFields) : Statement (.vsts f) := readLane f _

theorem RoundTrip.vatom (f : LaneFields) : Statement (.vatom f) := readLane f _

theorem RoundTrip.vatomCas (f : LaneFields) : Statement (.vatomCas f) := readLane f _

theorem RoundTrip.vredm (f : LaneFields) : Statement (.vredm f) := readLane f _

theorem RoundTrip.vpref (f : LaneFields) : Statement (.vpref f) := readLane f _

theorem RoundTrip.gmma (f : LaneFields) : Statement (.gmma f) := readMatrix f _

theorem RoundTrip.gldb (f : LaneFields) : Statement (.gldb f) := readMatrix f _

theorem RoundTrip.gclr (f : LaneFields) : Statement (.gclr f) := readMatrix f _

theorem RoundTrip.gst (f : LaneFields) : Statement (.gst f) := readMatrix f _

theorem RoundTrip.gmov (f : LaneFields) : Statement (.gmov f) := readMatrix f _

theorem RoundTrip.gmovTr (f : LaneFields) : Statement (.gmovTr f) := readMatrix f _

theorem RoundTrip.gmeet (f : LaneFields) : Statement (.gmeet f) := readMatrix f _

theorem RoundTrip.gend (f : LaneFields) : Statement (.gend f) := readMatrix f _

theorem RoundTrip.dLdq (d s : BitVec 4) (m : BitVec 2) (x : BitVec 16) : Statement (.dLdq d s m x) := 
  readDamper 0x00 d s m x .dLdq fun w y h g e => by unfold decodeDamper; rw [if_neg (by simpa using g), h]; first | done | rfl

theorem RoundTrip.dLdt (d s : BitVec 4) (m : BitVec 2) (x : BitVec 16) : Statement (.dLdt d s m x) := 
  readDamper 0x01 d s m x .dLdt fun w y h g e => by unfold decodeDamper; rw [if_neg (by simpa using g), h]; first | done | rfl

theorem RoundTrip.dLdh (d s : BitVec 4) (m : BitVec 2) (x : BitVec 16) : Statement (.dLdh d s m x) := 
  readDamper 0x02 d s m x .dLdh fun w y h g e => by unfold decodeDamper; rw [if_neg (by simpa using g), h]; first | done | rfl

theorem RoundTrip.dLde (d s : BitVec 4) (m : BitVec 2) (x : BitVec 16) : Statement (.dLde d s m x) := 
  readDamper 0x03 d s m x .dLde fun w y h g e => by unfold decodeDamper; rw [if_neg (by simpa using g), h]; first | done | rfl

theorem RoundTrip.dAdd (d s : BitVec 4) (m : BitVec 2) (x : BitVec 16) : Statement (.dAdd d s m x) := 
  readDamper 0x04 d s m x .dAdd fun w y h g e => by unfold decodeDamper; rw [if_neg (by simpa using g), h]; first | done | rfl

theorem RoundTrip.dSub (d s : BitVec 4) (m : BitVec 2) (x : BitVec 16) : Statement (.dSub d s m x) := 
  readDamper 0x05 d s m x .dSub fun w y h g e => by unfold decodeDamper; rw [if_neg (by simpa using g), h]; first | done | rfl

theorem RoundTrip.dMul (d s : BitVec 4) (m : BitVec 2) (x : BitVec 16) : Statement (.dMul d s m x) := 
  readDamper 0x06 d s m x .dMul fun w y h g e => by unfold decodeDamper; rw [if_neg (by simpa using g), h]; first | done | rfl

theorem RoundTrip.dMin (d s : BitVec 4) (m : BitVec 2) (x : BitVec 16) : Statement (.dMin d s m x) := 
  readDamper 0x07 d s m x .dMin fun w y h g e => by unfold decodeDamper; rw [if_neg (by simpa using g), h]; first | done | rfl

theorem RoundTrip.dMax (d s : BitVec 4) (m : BitVec 2) (x : BitVec 16) : Statement (.dMax d s m x) := 
  readDamper 0x08 d s m x .dMax fun w y h g e => by unfold decodeDamper; rw [if_neg (by simpa using g), h]; first | done | rfl

theorem RoundTrip.dAnd (d s : BitVec 4) (m : BitVec 2) (x : BitVec 16) : Statement (.dAnd d s m x) := 
  readDamper 0x09 d s m x .dAnd fun w y h g e => by unfold decodeDamper; rw [if_neg (by simpa using g), h]; first | done | rfl

theorem RoundTrip.dOr (d s : BitVec 4) (m : BitVec 2) (x : BitVec 16) : Statement (.dOr d s m x) := 
  readDamper 0x0A d s m x .dOr fun w y h g e => by unfold decodeDamper; rw [if_neg (by simpa using g), h]; first | done | rfl

theorem RoundTrip.dXor (d s : BitVec 4) (m : BitVec 2) (x : BitVec 16) : Statement (.dXor d s m x) := 
  readDamper 0x0B d s m x .dXor fun w y h g e => by unfold decodeDamper; rw [if_neg (by simpa using g), h]; first | done | rfl

theorem RoundTrip.dShl (d s : BitVec 4) (m : BitVec 2) (x : BitVec 16) : Statement (.dShl d s m x) := 
  readDamper 0x0C d s m x .dShl fun w y h g e => by unfold decodeDamper; rw [if_neg (by simpa using g), h]; first | done | rfl

theorem RoundTrip.dShr (d s : BitVec 4) (m : BitVec 2) (x : BitVec 16) : Statement (.dShr d s m x) := 
  readDamper 0x0D d s m x .dShr fun w y h g e => by unfold decodeDamper; rw [if_neg (by simpa using g), h]; first | done | rfl

theorem RoundTrip.dCmp (d s : BitVec 4) (m : BitVec 2) (x : BitVec 16) : Statement (.dCmp d s m x) := 
  readDamper 0x0E d s m x .dCmp fun w y h g e => by unfold decodeDamper; rw [if_neg (by simpa using g), h]; first | done | rfl

theorem RoundTrip.dJf (c s : BitVec 4) (m : BitVec 2) (x : BitVec 16) : Statement (.dJf c s m x) := 
  readDamper 0x0F c s m x .dJf fun w y h g e => by unfold decodeDamper; rw [if_neg (by simpa using g), h]; first | done | rfl

theorem RoundTrip.dBest (d s : BitVec 4) (m : BitVec 2) (x : BitVec 16) : Statement (.dBest d s m x) := 
  readDamper 0x10 d s m x .dBest fun w y h g e => by unfold decodeDamper; rw [if_neg (by simpa using g), h]; first | done | rfl

theorem RoundTrip.dDsp (q s : BitVec 4) (m : BitVec 2) (x : BitVec 16) : Statement (.dDsp q s m x) := 
  readDamper 0x18 q s m x .dDsp fun w y h g e => by unfold decodeDamper; rw [if_neg (by simpa using g), h]; first | done | rfl

theorem RoundTrip.dPre (c : BitVec 4) : Statement (.dPre c) := fun _ w => readPre c w

theorem RoundTrip.dPark : Statement .dPark := fun _ _ => rfl

theorem RoundTrip.dKill : Statement .dKill := fun _ _ => rfl

theorem RoundTrip.dRetry (s : BitVec 4) (m : BitVec 2) (x : BitVec 16) : Statement (.dRetry s m x) := 
  readDamper 0x1C 0 s m x (fun _ => .dRetry) fun w y h g e => by unfold decodeDamper; rw [if_neg (by simpa using g), h, e]; first | done | rfl

theorem RoundTrip.dSusp : Statement .dSusp := fun _ _ => rfl

theorem RoundTrip.dGrant : Statement .dGrant := fun _ _ => rfl

theorem RoundTrip.dFill (q s : BitVec 4) (m : BitVec 2) (x : BitVec 16) : Statement (.dFill q s m x) := 
  readDamper 0x1F q s m x .dFill fun w y h g e => by unfold decodeDamper; rw [if_neg (by simpa using g), h]; first | done | rfl

theorem RoundTrip.dHold : Statement .dHold := fun _ _ => rfl

theorem RoundTrip.evClauseStart (core slot : Nat) : Statement (.evClauseStart core slot) := fun _ => trivial

theorem RoundTrip.evLaneWriteLands (core slot op : Nat) : Statement (.evLaneWriteLands core slot op) := fun _ => trivial

theorem RoundTrip.evMemoryOperationCompletes (core slot op : Nat) : Statement (.evMemoryOperationCompletes core slot op) := fun _ => trivial

theorem RoundTrip.evGwctCompletion (effect : Nat) : Statement (.evGwctCompletion effect) := fun _ => trivial

theorem RoundTrip.evReleaseWaitEnds (core slot : Nat) : Statement (.evReleaseWaitEnds core slot) := fun _ => trivial

theorem RoundTrip.evCoreClockStop (core : Nat) : Statement (.evCoreClockStop core) := fun _ => trivial

theorem RoundTrip.evCoreWake (core : Nat) : Statement (.evCoreWake core) := fun _ => trivial

theorem RoundTrip.evEffectiveCloseDetermined (core slot region : Nat) : Statement (.evEffectiveCloseDetermined core slot region) := fun _ => trivial

theorem RoundTrip.evRegionCleared (core slot region : Nat) : Statement (.evRegionCleared core slot region) := fun _ => trivial

theorem RoundTrip.evRegionReleased (core slot region : Nat) : Statement (.evRegionReleased core slot region) := fun _ => trivial

theorem RoundTrip.evNeighbourWriteApplied (core entry : Nat) : Statement (.evNeighbourWriteApplied core entry) := fun _ => trivial

theorem RoundTrip.evSensorEvent (kind : SensorKind) (place : Nat) (second : Bool) : Statement (.evSensorEvent kind place second) := fun _ => trivial

theorem RoundTrip.evSensorReportArrives (report : Nat) : Statement (.evSensorReportArrives report) := fun _ => trivial

theorem RoundTrip.evSensorSquash (report core : Nat) : Statement (.evSensorSquash report core) := fun _ => trivial

theorem RoundTrip.evHeldEffectArrives (effect : Nat) : Statement (.evHeldEffectArrives effect) := fun _ => trivial

theorem RoundTrip.evPendingWriteAccepted (home : Nat) : Statement (.evPendingWriteAccepted home) := fun _ => trivial

theorem RoundTrip.evClose (home core : Nat) : Statement (.evClose home core) := fun _ => trivial

theorem RoundTrip.evSquash (home core : Nat) : Statement (.evSquash home core) := fun _ => trivial

theorem RoundTrip.evHomeRelease (home : Nat) : Statement (.evHomeRelease home) := fun _ => trivial

theorem RoundTrip.evCreditReturned (home core : Nat) : Statement (.evCreditReturned home core) := fun _ => trivial

theorem RoundTrip.evHeartbeat (die : Nat) : Statement (.evHeartbeat die) := fun _ => trivial

theorem RoundTrip.evHeartbeatReceived (home die : Nat) : Statement (.evHeartbeatReceived home die) := fun _ => trivial

theorem RoundTrip.evRegionResourceTrap (core : Nat) (resource : BitVec 3) : Statement (.evRegionResourceTrap core resource) := fun _ => trivial

theorem RoundTrip.evAtomicPerform (core slot : Nat) : Statement (.evAtomicPerform core slot) := fun _ => trivial

theorem RoundTrip.evTrapDelivery (core slot : Nat) : Statement (.evTrapDelivery core slot) := fun _ => trivial

theorem RoundTrip.evStrandSlotFreed (core slot : Nat) : Statement (.evStrandSlotFreed core slot) := fun _ => trivial

theorem RoundTrip.evBlockGriddleRelease (core : Nat) : Statement (.evBlockGriddleRelease core) := fun _ => trivial

theorem RoundTrip.evGridRetire (part grid : Nat) : Statement (.evGridRetire part grid) := fun _ => trivial

theorem RoundTrip.evCompletionStatusWrite (part grid : Nat) : Statement (.evCompletionStatusWrite part grid) := fun _ => trivial

theorem RoundTrip.evCompletionCounterAdd (part grid : Nat) : Statement (.evCompletionCounterAdd part grid) := fun _ => trivial

theorem RoundTrip.evSegmentCleared (core : Nat) : Statement (.evSegmentCleared core) := fun _ => trivial

theorem RoundTrip.evImplicitMeet (core : Nat) : Statement (.evImplicitMeet core) := fun _ => trivial

theorem RoundTrip.evMeetWaitSatisfied (core : Nat) : Statement (.evMeetWaitSatisfied core) := fun _ => trivial

theorem RoundTrip.evCopyStart (copy : Nat) : Statement (.evCopyStart copy) := fun _ => trivial

theorem RoundTrip.evCopyDataStaged (copy : Nat) : Statement (.evCopyDataStaged copy) := fun _ => trivial

theorem RoundTrip.evCopyChunkWrite (copy : Nat) : Statement (.evCopyChunkWrite copy) := fun _ => trivial

theorem RoundTrip.evCopyCompletionAdd (copy : Nat) : Statement (.evCopyCompletionAdd copy) := fun _ => trivial

theorem RoundTrip.evBatchTokenWritten (core slot batch : Nat) : Statement (.evBatchTokenWritten core slot batch) := fun _ => trivial

theorem RoundTrip.evFillRequest (core line : Nat) : Statement (.evFillRequest core line) := fun _ => trivial

theorem RoundTrip.evL1FillLands (core line : Nat) : Statement (.evL1FillLands core line) := fun _ => trivial

theorem RoundTrip.evWindowFillLands (block chunk : Nat) : Statement (.evWindowFillLands block chunk) := fun _ => trivial

theorem RoundTrip.evGenerationSweep (core : Nat) : Statement (.evGenerationSweep core) := fun _ => trivial

theorem RoundTrip.evCounterWake (core slot : Nat) : Statement (.evCounterWake core slot) := fun _ => trivial

theorem RoundTrip.evCounterRepoll (core slot : Nat) : Statement (.evCounterRepoll core slot) := fun _ => trivial

theorem RoundTrip.evItemQueueRefill (core : Nat) : Statement (.evItemQueueRefill core) := fun _ => trivial

theorem RoundTrip.evDispatchPeriodic (part hearth : Nat) : Statement (.evDispatchPeriodic part hearth) := fun _ => trivial

theorem RoundTrip.evPreemptQuantum (part gang : Nat) : Statement (.evPreemptQuantum part gang) := fun _ => trivial

theorem RoundTrip.evDecisionBegins (part : Nat) : Statement (.evDecisionBegins part) := fun _ => trivial

theorem RoundTrip.evDamperOverrun (part : Nat) : Statement (.evDamperOverrun part) := fun _ => trivial

theorem RoundTrip.evLoad (part : Nat) (h : HostAccess) : Statement (.evLoad part h) := fun _ => trivial

theorem RoundTrip.evDamperLoadCheckDone (part : Nat) : Statement (.evDamperLoadCheckDone part) := fun _ => trivial

theorem RoundTrip.evPreemptionRequest (part gang : Nat) (cause : PreemptCause) : Statement (.evPreemptionRequest part gang cause) := fun _ => trivial

theorem RoundTrip.evContextSave (part gang : Nat) : Statement (.evContextSave part gang) := fun _ => trivial

theorem RoundTrip.evCollectiveStall (channel : Nat) : Statement (.evCollectiveStall channel) := fun _ => trivial

theorem RoundTrip.evFillerWithdrawal (part : Nat) : Statement (.evFillerWithdrawal part) := fun _ => trivial

theorem RoundTrip.evAccountRefill (part acct : Nat) : Statement (.evAccountRefill part acct) := fun _ => trivial

theorem RoundTrip.evAccountCharge (part acct : Nat) : Statement (.evAccountCharge part acct) := fun _ => trivial

theorem RoundTrip.evPeriodWrite (part : Nat) (h : HostAccess) (acct : Nat) (value : Word) : Statement (.evPeriodWrite part h acct value) := fun _ => trivial

theorem RoundTrip.evParkres (part : Nat) (h : HostAccess) (value : Word) : Statement (.evParkres part h value) := fun _ => trivial

theorem RoundTrip.evHalt (part : Nat) (h : HostAccess) : Statement (.evHalt part h) := fun _ => trivial

theorem RoundTrip.evDebugResume (part : Nat) (h : HostAccess) : Statement (.evDebugResume part h) := fun _ => trivial

theorem RoundTrip.evStep (part : Nat) (h : HostAccess) : Statement (.evStep part h) := fun _ => trivial

theorem RoundTrip.evQpush (part : Nat) (h : HostAccess) (queue : Nat) (value : Word) : Statement (.evQpush part h queue value) := fun _ => trivial

theorem RoundTrip.evQcfgWrite (h : HostAccess) (die : Nat) (value : Word) : Statement (.evQcfgWrite h die value) := fun _ => trivial

theorem RoundTrip.evSignedFlashCommit (item : FlashItem) : Statement (.evSignedFlashCommit item) := fun _ => trivial

theorem RoundTrip.evSpcfgWrite (part : Nat) (h : HostAccess) (value : Word) : Statement (.evSpcfgWrite part h value) := fun _ => trivial

theorem RoundTrip.evSpsizeTakesEffect (core : Nat) : Statement (.evSpsizeTakesEffect core) := fun _ => trivial

theorem RoundTrip.evCommit (h : HostAccess) (part : Nat) : Statement (.evCommit h part) := fun _ => trivial

theorem RoundTrip.evResourceHandover (part : Nat) : Statement (.evResourceHandover part) := fun _ => trivial

theorem RoundTrip.evTake (h : HostAccess) : Statement (.evTake h) := fun _ => trivial

theorem RoundTrip.evGive (h : HostAccess) : Statement (.evGive h) := fun _ => trivial

theorem RoundTrip.evHostLinkDown (port : Nat) : Statement (.evHostLinkDown port) := fun _ => trivial

theorem RoundTrip.evHostPostedWrite (h : HostAccess) (part : Nat) (addr : Word) (bytes : List Byte) : Statement (.evHostPostedWrite h part addr bytes) := fun _ => trivial

theorem RoundTrip.evGrantMessage (port route : Nat) : Statement (.evGrantMessage port route) := fun _ => trivial

theorem RoundTrip.evHostPiecePerformed (port route : Nat) : Statement (.evHostPiecePerformed port route) := fun _ => trivial

theorem RoundTrip.evAck (port route : Nat) : Statement (.evAck port route) := fun _ => trivial

theorem RoundTrip.evHostRead (h : HostAccess) (part : Nat) (addr : Word) (size : Nat) : Statement (.evHostRead h part addr size) := fun _ => trivial

theorem RoundTrip.evCxlRead (port half : Nat) : Statement (.evCxlRead port half) := fun _ => trivial

theorem RoundTrip.evCxlReadForOwnership (port half : Nat) : Statement (.evCxlReadForOwnership port half) := fun _ => trivial

theorem RoundTrip.evCxlWriteBack (port half : Nat) (dirty : List (Nat × Byte)) : Statement (.evCxlWriteBack port half dirty) := fun _ => trivial

theorem RoundTrip.evBackInvalidationResponse (half : Nat) (dirty : List (Nat × Byte)) : Statement (.evBackInvalidationResponse half dirty) := fun _ => trivial

theorem RoundTrip.evTranslationWalk (part core : Nat) (addr : Word) : Statement (.evTranslationWalk part core addr) := fun _ => trivial

theorem RoundTrip.evTranslationLeaseExpires (core : Nat) : Statement (.evTranslationLeaseExpires core) := fun _ => trivial

theorem RoundTrip.evTunmap (part : Nat) (h : HostAccess) : Statement (.evTunmap part h) := fun _ => trivial

theorem RoundTrip.evMgo (part : Nat) (h : HostAccess) : Statement (.evMgo part h) := fun _ => trivial

theorem RoundTrip.evMigrationSwitch (part : Nat) : Statement (.evMigrationSwitch part) := fun _ => trivial

theorem RoundTrip.evMigrationDrainEnds (part : Nat) : Statement (.evMigrationDrainEnds part) := fun _ => trivial

theorem RoundTrip.evLockInterfaceRequest (part : Nat) (h : HostAccess) : Statement (.evLockInterfaceRequest part h) := fun _ => trivial

theorem RoundTrip.evGetDeviceInterfaceReport (part : Nat) (h : HostAccess) : Statement (.evGetDeviceInterfaceReport part h) := fun _ => trivial

theorem RoundTrip.evStartInterfaceRequest (part : Nat) (h : HostAccess) (nonce : BitVec 256) : Statement (.evStartInterfaceRequest part h nonce) := fun _ => trivial

theorem RoundTrip.evStopInterfaceRequest (part : Nat) (h : HostAccess) : Statement (.evStopInterfaceRequest part h) := fun _ => trivial

theorem RoundTrip.evIdeStreamLoss (part : Nat) : Statement (.evIdeStreamLoss part) := fun _ => trivial

theorem RoundTrip.evInterfaceError (part : Nat) : Statement (.evInterfaceError part) := fun _ => trivial

theorem RoundTrip.evStraitLaneFailure (strait left : Nat) : Statement (.evStraitLaneFailure strait left) := fun _ => trivial

theorem RoundTrip.evStraitRetrainDone (strait : Nat) : Statement (.evStraitRetrainDone strait) := fun _ => trivial

theorem RoundTrip.evStraitRetrain (h : HostAccess) (strait : Nat) : Statement (.evStraitRetrain h strait) := fun _ => trivial

theorem RoundTrip.evCollectiveChunk (channel : Nat) (ranks : List (List Byte)) : Statement (.evCollectiveChunk channel ranks) := fun _ => trivial

theorem RoundTrip.evCollectiveCompletionAdd (channel : Nat) : Statement (.evCollectiveCompletionAdd channel) := fun _ => trivial

theorem RoundTrip.evCollectivePacketArrives (strait group : Nat) (attempt : W32) : Statement (.evCollectivePacketArrives strait group attempt) := fun _ => trivial

theorem RoundTrip.evGabort (part : Nat) (h : HostAccess) : Statement (.evGabort part h) := fun _ => trivial

theorem RoundTrip.evAbortToken (group : Nat) (attempt : W32) : Statement (.evAbortToken group attempt) := fun _ => trivial

theorem RoundTrip.evErrnext (h : HostAccess) : Statement (.evErrnext h) := fun _ => trivial

theorem RoundTrip.evRgo (h : HostAccess) : Statement (.evRgo h) := fun _ => trivial

theorem RoundTrip.evRetirementConfirmed : Statement .evRetirementConfirmed := fun _ => trivial

theorem RoundTrip.evModuleReset (power : Nat) : Statement (.evModuleReset power) := fun _ => trivial

theorem RoundTrip.evComputeDieReset (h : HostAccess) (die : Nat) : Statement (.evComputeDieReset h die) := fun _ => trivial

theorem RoundTrip.evDieResetDrainEnds (die : Nat) : Statement (.evDieResetDrainEnds die) := fun _ => trivial

theorem RoundTrip.evPtpLock (ptp : Word) : Statement (.evPtpLock ptp) := fun _ => trivial

theorem RoundTrip.evPtpLockLost : Statement .evPtpLockLost := fun _ => trivial

theorem RoundTrip.evPtpoffReplaced (ptp : Word) : Statement (.evPtpoffReplaced ptp) := fun _ => trivial

theorem RoundTrip.evTstatRead (h : HostAccess) : Statement (.evTstatRead h) := fun _ => trivial

theorem RoundTrip.evStepRegisterWrite (h : HostAccess) (hearth : Nat) (value : Word) : Statement (.evStepRegisterWrite h hearth value) := fun _ => trivial

theorem RoundTrip.evStepChangeDone (hearth : Nat) : Statement (.evStepChangeDone hearth) := fun _ => trivial

theorem RoundTrip.evPwrctlWrite (h : HostAccess) (value : Word) : Statement (.evPwrctlWrite h value) := fun _ => trivial

theorem RoundTrip.evRampInterval (power : Nat) : Statement (.evRampInterval power) := fun _ => trivial

theorem RoundTrip.evTelemetryRecord (m : Measures) : Statement (.evTelemetryRecord m) := fun _ => trivial

theorem RoundTrip.evTimingReplay (hearth : Nat) : Statement (.evTimingReplay hearth) := fun _ => trivial

theorem RoundTrip.evFwgo (h : HostAccess) : Statement (.evFwgo h) := fun _ => trivial

theorem RoundTrip.evFirmwareVerifyDone : Statement .evFirmwareVerifyDone := fun _ => trivial

theorem RoundTrip.evAct (h : HostAccess) : Statement (.evAct h) := fun _ => trivial

theorem RoundTrip.evRegisterWrite (h : HostAccess) (place : RegPlace) (value : Word) : Statement (.evRegisterWrite h place value) := fun _ => trivial

theorem RoundTrip.evReservedEncoding (stream : Stream) (cause : BitVec 8) : Statement (.evReservedEncoding stream cause) := fun _ => trivial

theorem RoundTrip.evInstructionFetchFault (stream : Stream) : Statement (.evInstructionFetchFault stream) := fun _ => trivial

theorem RoundTrip.evPcieAtomicopCompletion (request : Nat) (refused : Bool) (old : Word) : Statement (.evPcieAtomicopCompletion request refused old) := fun _ => trivial

theorem RoundTrip.evPtpOffsetMeasurement (error : W32) : Statement (.evPtpOffsetMeasurement error) := fun _ => trivial

end Sys2Proof.Laws
end

