-- ==== Sys2Proof/Laws/Trap.lean ====
section
/-! SUPPORT. Laws of taking a trap: the trap is held, the strand's regions close, and nothing else changes. -/

namespace Sys2Proof.Machine

open Sys2Proof

/-- R210: every region of a strand is closed. -/
theorem closeAll_closed {s : State} {c : Nat} {t : Strand} {r : Region} (h : r ∈ closeAll s c t) : r.close ≠ none := by
  simp only [closeAll, List.mem_map] at h
  obtain ⟨x, -, rfl⟩ := h
  split <;> split <;> simp_all [closeRegion]

/-- Closing regions keeps their identifiers and whether they have cleared. -/
theorem closeAll_view (s : State) (c : Nat) (t : Strand) (p : Nat → Bool → Bool) :
    ((closeAll s c t).all fun r => p r.id r.cleared) = t.regions.all fun r => p r.id r.cleared := by
  simp only [closeAll, List.all_map]
  congr 1
  funext r
  simp only [Function.comp]
  split <;> split <;> rfl

/-- A trap other than that of poisoned memory and of a register error concerns the strand alone (R412). -/
theorem trapErrors_of_ne (s : State) (c l : Nat) (t : Strand) {code : Nat} (h1 : code ≠ 0x15) (h2 : code ≠ 0x06) :
    trapErrors s c l t code = s := by
  simp [trapErrors, h1, h2]

/-! ### Wakes -/

/-- What a wake may change of a state: no strand but for its waits, and no clock. -/
def Woken (s u : State) : Prop :=
  u.now = s.now ∧ ∀ c l t, strandAt s c l = some t → ∃ w v, strandAt u c l = some { t with swait := w, lwait := v }

theorem Woken.refl (s : State) : Woken s s := ⟨rfl, fun _ _ t h => ⟨t.swait, t.lwait, h⟩⟩

theorem Woken.trans {s u v : State} (h : Woken s u) (k : Woken u v) : Woken s v := by
  refine ⟨k.1.trans h.1, fun c l t ht => ?_⟩
  obtain ⟨w, x, h1⟩ := h.2 c l t ht
  obtain ⟨w', x', h2⟩ := k.2 c l _ h1
  exact ⟨w', x', h2⟩

/-- R185, R186: a wake of a core. -/
theorem wakeCore_woken (s : State) (c : Nat) (bit : BitVec 9) : Woken s (wakeCore s c bit) := by
  refine ⟨rfl, fun d l t h => ?_⟩
  have h' : strandAt (wakeCore s c bit) d l = strandAt (retryCore s c) d l := rfl
  rw [h']
  unfold strandAt retryCore
  rw [mget_map fun e => by split <;> rfl]
  rw [strandAt] at h
  rw [h, Option.map_some]
  split
  · exact ⟨_, _, rfl⟩
  · exact ⟨t.swait, t.lwait, rfl⟩

theorem wakeCores_woken (s : State) (bit : BitVec 9) (f : Strand → Bool) : Woken s (wakeCores s bit f) := by
  have key : ∀ (cs : List Nat) (s : State), Woken s (cs.foldl (fun s c => wakeCore s c bit) s) := by
    intro cs
    induction cs with
    | nil => exact fun s => Woken.refl s
    | cons c cs ih => exact fun s => (wakeCore_woken s c bit).trans (ih _)
  exact key _ s

/-- R285, R286: a reference to a slice that is dropped changes no strand but for its waits. -/
theorem dropGraft_woken (s : State) (t : Strand) : Woken s (dropGraft s t) := by
  unfold dropGraft
  split
  · exact wakeCores_woken (modGrid s t.part t.grid _) 0 _
  · exact Woken.refl s

/-- R274, R417: a `claim` that ends changes no strand but for its waits. -/
theorem dropClaim_woken (s : State) (c l : Nat) : Woken s (dropClaim s c l) := by
  unfold dropClaim
  split
  · exact wakeCores_woken s 0x10 _
  · exact Woken.refl s

/-- R285, R286: what ends a `graft` or `claim` leaves the strand as it was but for its graft and its waits. -/
theorem strandAt_endGraft {s : State} {c l : Nat} {t : Strand} (h : strandAt s c l = some t) :
    ∃ w v, strandAt (endGraft s c l) c l = some { t with grafting := none, swait := w, lwait := v } := by
  obtain ⟨w, v, hd⟩ := ((dropGraft_woken s t).trans (dropClaim_woken _ c l)).2 c l t h
  exact ⟨w, v, by simp only [endGraft, h, modStrand_of_strandAt hd, strandAt_putStrand]⟩

theorem now_endGraft (s : State) (c l : Nat) : (endGraft s c l).now = s.now := by
  unfold endGraft
  split
  · rename_i t _
    show (modStrand (dropClaim (dropGraft s t) c l) c l _).now = _
    unfold modStrand
    split <;> exact ((dropGraft_woken s t).trans (dropClaim_woken _ c l)).1
  · rfl

/-- R99, R141, R206: holding a trap. -/
theorem holdTrap_takes {s : State} {c l : Nat} {t : Strand} (ht : strandAt s c l = some t)
    (h : HeldTrap) (h1 : h.record.code.toNat ≠ 0x15) (h2 : h.record.code.toNat ≠ 0x06) (hk : h.kind = .own) :
    TakesTrap s (holdTrap s c l h) c l t h.record h.region h.resume := by
  obtain ⟨w, v, hg⟩ := strandAt_endGraft ht
  have hn : (endGraft s c l).now = s.now := now_endGraft s c l
  have e : holdTrap s c l h = putStrand (endGraft s c l) c l
      { t with grafting := none, regions := closeAll (endGraft s c l) c { t with grafting := none, swait := w, lwait := v },
               traps := t.traps ++ [{ h with ready := if (closeAll (endGraft s c l) c { t with grafting := none, swait := w, lwait := v }).all (fun r => r.id > h.region || r.cleared) then some (endGraft s c l).now else none }],
               stopped := true, swait := .none, lwait := .none, collects := false } := by
    simp only [holdTrap, ht, trapErrors_of_ne _ _ _ _ h1 h2, modStrand_of_strandAt hg]
  rw [e]
  refine ⟨onlyStrand_putStrand _ _ _ _, _, strandAt_putStrand _ _ _ _, rfl, rfl, rfl, fun x hx => closeAll_closed hx,
    ⟨_, rfl, rfl, hk, rfl, rfl, ?_⟩, rfl⟩
  have := closeAll_view (endGraft s c l) c { t with grafting := none, swait := w, lwait := v } fun i cl => decide (i > h.region) || cl
  simp only [this, hn]

/-- A scalar instruction's trap. -/
theorem scalarTrapAt_takes {s : State} {c l : Nat} {t : Strand} (ht : strandAt s c l = some t)
    {code : Nat} (detail : Nat) (resume : Word) (h1 : (BitVec.ofNat 8 code).toNat ≠ 0x15) (h2 : (BitVec.ofNat 8 code).toNat ≠ 0x06) :
    TakesTrap s (scalarTrapAt s c l code detail 0 resume .own) c l t (scalarRecord code detail t.sc.spc) (lastId t) resume := by
  have e : scalarTrapAt s c l code detail 0 resume .own = holdTrap s c l
      { record := trapRec code .scalar detail 0 t.sc.spc 0 0, kind := .own, region := lastId t, seq := t.sc.seq, ready := none, resume := resume } := by
    simp only [scalarTrapAt, ht]
  rw [e]
  exact holdTrap_takes ht _ h1 h2 rfl

/-- A scalar instruction's trap, which resumes at the instruction itself. -/
theorem scalarTrap_takes {s : State} {c l : Nat} {t : Strand} (ht : strandAt s c l = some t)
    {code : Nat} (detail : Nat) (h1 : (BitVec.ofNat 8 code).toNat ≠ 0x15) (h2 : (BitVec.ofNat 8 code).toNat ≠ 0x06) :
    TakesScalarTrap s (scalarTrap s c l code detail) c l t code detail := by
  have e : scalarTrap s c l code detail = scalarTrapAt s c l code detail 0 t.sc.spc .own := by simp only [scalarTrap, ht]
  rw [e]
  exact scalarTrapAt_takes ht detail _ h1 h2

/-- A reserved code in a scalar instruction (R61). -/
theorem scalarReserved_takes {s : State} {c l : Nat} {t : Strand} (ha : s.agent = .scalar c l) (ht : strandAt s c l = some t) :
    ∃ s', scalarReserved s = .next s' ∧ TakesScalarTrap s s' c l t 0x02 0x03 :=
  ⟨_, by simp only [scalarReserved, withScalar, ha, ht], scalarTrap_takes ht _ (by decide) (by decide)⟩

end Sys2Proof.Machine
end

