-- ==== Sys2Proof/Tests/Slice0.lean ====
section
/-! SUPPORT. Tests: an ill-formed term for every check of WellFormed, words written out bit by bit from the encoding tables of
spec/02 for every stream, single steps whose expected values are worked out from the spec by hand, and states that meet the
hypotheses of each statement. -/

namespace Sys2Proof.Machine
open Sys2Proof
set_option Elab.async false

/-- R42 to R45: words of the scalar stream, field by field from the spec's tables. -/
theorem test_decode_arithmetic :
    decodeScalar (0b000001#6 ++ 0b0000011#7 ++ 0b0000101#7 ++ 0b0000111#7 ++ 0b00000#5) = .ok (.sadd 3 5 7)
    ∧ decodeScalar (0b000011#6 ++ 0b0000011#7 ++ 0b0000101#7 ++ 0b111111111101#12) = .ok (.saddImm 3 5 4093)
    ∧ decodeScalar (0b000001#6 ++ 0b0000011#7 ++ 0b0000101#7 ++ 0b0000111#7 ++ 0b00001#5) = .ok (.ssub 3 5 7)
    ∧ decodeScalar (0b000001#6 ++ 0b0000011#7 ++ 0b0000101#7 ++ 0b0000111#7 ++ 0b00010#5) = .ok (.smul 3 5 7)
    ∧ decodeScalar (0b000001#6 ++ 0b0000011#7 ++ 0b0000101#7 ++ 0b0000111#7 ++ 0b00011#5) = .ok (.smulhI64 3 5 7)
    ∧ decodeScalar (0b000001#6 ++ 0b0000011#7 ++ 0b0000101#7 ++ 0b0000111#7 ++ 0b00100#5) = .ok (.smulhN64 3 5 7)
    ∧ decodeScalar (0b000001#6 ++ 0b0000011#7 ++ 0b0000101#7 ++ 0b0000111#7 ++ 0b00101#5) = .ok (.sdivI64 3 5 7)
    ∧ decodeScalar (0b000001#6 ++ 0b0000011#7 ++ 0b0000101#7 ++ 0b0000111#7 ++ 0b00110#5) = .ok (.sdivN64 3 5 7)
    ∧ decodeScalar (0b000001#6 ++ 0b0000011#7 ++ 0b0000101#7 ++ 0b0000111#7 ++ 0b00111#5) = .ok (.sremI64 3 5 7)
    ∧ decodeScalar (0b000001#6 ++ 0b0000011#7 ++ 0b0000101#7 ++ 0b0000111#7 ++ 0b01000#5) = .ok (.sremN64 3 5 7) :=
  ⟨rfl, rfl, rfl, rfl, rfl, rfl, rfl, rfl, rfl, rfl⟩

/-- R42 to R45: words of the scalar stream, field by field from the spec's tables. -/
theorem test_decode_logic :
    decodeScalar (0b000001#6 ++ 0b0000011#7 ++ 0b0000101#7 ++ 0b0000111#7 ++ 0b01001#5) = .ok (.sand 3 5 7)
    ∧ decodeScalar (0b000100#6 ++ 0b0000011#7 ++ 0b0000101#7 ++ 0b111111111101#12) = .ok (.sandImm 3 5 4093)
    ∧ decodeScalar (0b000001#6 ++ 0b0000011#7 ++ 0b0000101#7 ++ 0b0000111#7 ++ 0b01010#5) = .ok (.sor 3 5 7)
    ∧ decodeScalar (0b000101#6 ++ 0b0000011#7 ++ 0b0000101#7 ++ 0b111111111101#12) = .ok (.sorImm 3 5 4093)
    ∧ decodeScalar (0b000001#6 ++ 0b0000011#7 ++ 0b0000101#7 ++ 0b0000111#7 ++ 0b01011#5) = .ok (.sxor 3 5 7)
    ∧ decodeScalar (0b000110#6 ++ 0b0000011#7 ++ 0b0000101#7 ++ 0b111111111101#12) = .ok (.sxorImm 3 5 4093)
    ∧ decodeScalar (0b000001#6 ++ 0b0000011#7 ++ 0b0000101#7 ++ 0b0000111#7 ++ 0b01100#5) = .ok (.sandn 3 5 7)
    ∧ decodeScalar (0b000001#6 ++ 0b0000011#7 ++ 0b0000101#7 ++ 0b0000111#7 ++ 0b01101#5) = .ok (.sshl 3 5 7)
    ∧ decodeScalar (0b000111#6 ++ 0b0000011#7 ++ 0b0000101#7 ++ 0b000000#6 ++ 0b000111#6) = .ok (.sshlImm 3 5 7)
    ∧ decodeScalar (0b000001#6 ++ 0b0000011#7 ++ 0b0000101#7 ++ 0b0000111#7 ++ 0b01110#5) = .ok (.sshr 3 5 7)
    ∧ decodeScalar (0b001000#6 ++ 0b0000011#7 ++ 0b0000101#7 ++ 0b000000#6 ++ 0b000111#6) = .ok (.sshrImm 3 5 7)
    ∧ decodeScalar (0b000001#6 ++ 0b0000011#7 ++ 0b0000101#7 ++ 0b0000111#7 ++ 0b01111#5) = .ok (.ssra 3 5 7)
    ∧ decodeScalar (0b001001#6 ++ 0b0000011#7 ++ 0b0000101#7 ++ 0b000000#6 ++ 0b000111#6) = .ok (.ssraImm 3 5 7) :=
  ⟨rfl, rfl, rfl, rfl, rfl, rfl, rfl, rfl, rfl, rfl, rfl, rfl, rfl⟩

/-- R42 to R45: words of the scalar stream, field by field from the spec's tables. -/
theorem test_decode_selects :
    decodeScalar (0b000001#6 ++ 0b0000011#7 ++ 0b0000101#7 ++ 0b0000111#7 ++ 0b10000#5) = .ok (.sminI64 3 5 7)
    ∧ decodeScalar (0b000001#6 ++ 0b0000011#7 ++ 0b0000101#7 ++ 0b0000111#7 ++ 0b10001#5) = .ok (.smaxI64 3 5 7)
    ∧ decodeScalar (0b000001#6 ++ 0b0000011#7 ++ 0b0000101#7 ++ 0b0000111#7 ++ 0b10010#5) = .ok (.sminN64 3 5 7)
    ∧ decodeScalar (0b000001#6 ++ 0b0000011#7 ++ 0b0000101#7 ++ 0b0000111#7 ++ 0b10011#5) = .ok (.smaxN64 3 5 7)
    ∧ decodeScalar (0b000001#6 ++ 0b0000011#7 ++ 0b0000101#7 ++ 0b000000010100#12) = .ok (.sclz 3 5)
    ∧ decodeScalar (0b000001#6 ++ 0b0000011#7 ++ 0b0000101#7 ++ 0b000000010101#12) = .ok (.spopc 3 5)
    ∧ decodeScalar (0b000001#6 ++ 0b0000011#7 ++ 0b0000101#7 ++ 0b000000010110#12) = .ok (.smov 3 5)
    ∧ decodeScalar (0b000001#6 ++ 0b0000011#7 ++ 0b0000101#7 ++ 0b0000111#7 ++ 0b10111#5) = .ok (.ssel 3 5 7)
    ∧ decodeScalar (0b000001#6 ++ 0b0000011#7 ++ 0b0000#4 ++ 0b101#3 ++ 0b000000011000#12) = .ok (.smovMailbox 3 5)
    ∧ decodeScalar (0b000010#6 ++ 0b0000011#7 ++ 0b0000101#7 ++ 0b0000111#7 ++ 0b0#1 ++ 0b1001#4) = .ok (.scmp 3 5 7 9)
    ∧ decodeScalar (0b001010#6 ++ 0b0000011#7 ++ 0b1111111111111111101#19) = .ok (.sli 3 524285)
    ∧ decodeScalar (0b001011#6 ++ 0b0000011#7 ++ 0b1111111111111111101#19) = .ok (.slui 3 524285) :=
  ⟨rfl, rfl, rfl, rfl, rfl, rfl, rfl, rfl, rfl, rfl, rfl, rfl⟩

/-- R42 to R45: words of the scalar stream, field by field from the spec's tables. -/
theorem test_decode_control :
    decodeScalar (0b010000#6 ++ 0b0000011#7 ++ 0b0000101#7 ++ 0b111111111101#12) = .ok (.sbEq 3 5 4093)
    ∧ decodeScalar (0b010001#6 ++ 0b0000011#7 ++ 0b0000101#7 ++ 0b111111111101#12) = .ok (.sbNe 3 5 4093)
    ∧ decodeScalar (0b010010#6 ++ 0b0000011#7 ++ 0b0000101#7 ++ 0b111111111101#12) = .ok (.sbLt 3 5 4093)
    ∧ decodeScalar (0b010011#6 ++ 0b0000011#7 ++ 0b0000101#7 ++ 0b111111111101#12) = .ok (.sbGe 3 5 4093)
    ∧ decodeScalar (0b010100#6 ++ 0b0000011#7 ++ 0b0000101#7 ++ 0b111111111101#12) = .ok (.sbLtn 3 5 4093)
    ∧ decodeScalar (0b010101#6 ++ 0b0000011#7 ++ 0b0000101#7 ++ 0b111111111101#12) = .ok (.sbGen 3 5 4093)
    ∧ decodeScalar (0b010110#6 ++ 0b0000011#7 ++ 0b0000000#7 ++ 0b111111111101#12) = .ok (.pqpush 3 4093)
    ∧ decodeScalar (0b01011100000000000000#20 ++ 0b111111111101#12) = .ok (.pqjoin 4093)
    ∧ decodeScalar (0b011000#6 ++ 0b11111111111111111111111101#26) = .ok (.sj 67108861)
    ∧ decodeScalar (0b011001#6 ++ 0b11111111111111111111111101#26) = .ok (.scall 67108861)
    ∧ decodeScalar (0b011010#6 ++ 0b00000000000000000000000011#26) = .ok (.lrun 3)
    ∧ decodeScalar (0b0110110000000#13 ++ 0b0000011#7 ++ 0b000000000000#12) = .ok (.sjr 3)
    ∧ decodeScalar (0b0110110000000#13 ++ 0b0000011#7 ++ 0b000000000001#12) = .ok (.scallr 3)
    ∧ decodeScalar (0b01101100000000000000000000000010#32) = .ok (.sret)
    ∧ decodeScalar (0b01101100000000000000000000000011#32) = .ok (.exit)
    ∧ decodeScalar (0b0111000000000#13 ++ 0b0000011#7 ++ 0b000000000000#12) = .ok (.sexec 3)
    ∧ decodeScalar (0b01110000000000000000000000000001#32) = .ok (.pqnext)
    ∧ decodeScalar (0b0111000000000#13 ++ 0b0000011#7 ++ 0b000000000010#12) = .ok (.pqsave 3)
    ∧ decodeScalar (0b0111000000000#13 ++ 0b0000011#7 ++ 0b000000000011#12) = .ok (.pqload 3)
    ∧ decodeScalar (0b01110000000000000000000000000100#32) = .ok (.syield)
    ∧ decodeScalar (0b01110100000#11 ++ 0b11#2 ++ 0b0000101#7 ++ 0b000000000000#12) = .ok (.lk 3 5)
    ∧ decodeScalar (0b01111000000000000000#20 ++ 0b000000000011#12) = .ok (.lwait 3) :=
  ⟨rfl, rfl, rfl, rfl, rfl, rfl, rfl, rfl, rfl, rfl, rfl, rfl, rfl, rfl, rfl, rfl, rfl, rfl, rfl, rfl, rfl, rfl⟩

/-- R42 to R45: words of the scalar stream, field by field from the spec's tables. -/
theorem test_decode_memory :
    decodeScalar (0b110000#6 ++ 0b0000011#7 ++ 0b0000101#7 ++ 0b000111#6 ++ 0b011#3 ++ 0b010#3) = .ok (.sld 3 5 7 3 2)
    ∧ decodeScalar (0b110001#6 ++ 0b0000011#7 ++ 0b0000101#7 ++ 0b000111#6 ++ 0b011#3 ++ 0b001#3) = .ok (.sldAcquire 3 5 7 3 1)
    ∧ decodeScalar (0b110010#6 ++ 0b0000011#7 ++ 0b0000101#7 ++ 0b000111#6 ++ 0b010#3 ++ 0b001#3) = .ok (.sst 3 5 7 2 1)
    ∧ decodeScalar (0b110011#6 ++ 0b0000011#7 ++ 0b0000101#7 ++ 0b000111#6 ++ 0b010#3 ++ 0b001#3) = .ok (.sstRelease 3 5 7 2 1)
    ∧ decodeScalar (0b110100000000000000000000000#27 ++ 0b11#2 ++ 0b101#3) = .ok (.fence 3 5)
    ∧ decodeScalar (0b1101010000000#13 ++ 0b0000011#7 ++ 0b0000101#7 ++ 0b00#2 ++ 0b111#3) = .ok (.cadd 3 5 7)
    ∧ decodeScalar (0b1101100000000#13 ++ 0b0000011#7 ++ 0b0000101#7 ++ 0b00#2 ++ 0b111#3) = .ok (.cwait 3 5 7)
    ∧ decodeScalar (0b110111#6 ++ 0b0000011#7 ++ 0b0000101#7 ++ 0b000000000000#12) = .ok (.cread 3 5)
    ∧ decodeScalar (0b111000#6 ++ 0b0000011#7 ++ 0b0000101#7 ++ 0b0000111#7 ++ 0b00000#5) = .ok (.cpy 3 5 7)
    ∧ decodeScalar (0b111001#6 ++ 0b0000011#7 ++ 0b0000101#7 ++ 0b0000111#7 ++ 0b00000#5) = .ok (.cpy2d 3 5 7)
    ∧ decodeScalar (0b111010#6 ++ 0b0000011#7 ++ 0b0000000000000000000#19) = .ok (.cseal 3)
    ∧ decodeScalar (0b111011#6 ++ 0b0000011#7 ++ 0b0000101#7 ++ 0b0000111#7 ++ 0b000#3 ++ 0b01#2) = .ok (.wmap 3 5 7 1)
    ∧ decodeScalar (0b1111000000000#13 ++ 0b0000011#7 ++ 0b000000000000#12) = .ok (.wunmap 3)
    ∧ decodeScalar (0b1111000000000#13 ++ 0b0000011#7 ++ 0b000000000001#12) = .ok (.wflush 3)
    ∧ decodeScalar (0b1111000000000#13 ++ 0b0000011#7 ++ 0b000000000010#12) = .ok (.winval 3) :=
  ⟨rfl, rfl, rfl, rfl, rfl, rfl, rfl, rfl, rfl, rfl, rfl, rfl, rfl, rfl, rfl⟩

/-- R42 to R45: words of the scalar stream, field by field from the spec's tables. -/
theorem test_decode_system :
    decodeScalar (0b100000#6 ++ 0b11111111111111111111111101#26) = .ok (.region 67108861)
    ∧ decodeScalar (0b100001#6 ++ 0b00101#5 ++ 0b0000101000#10 ++ 0b011#3 ++ 0b00000000#8) = .ok (.iqloop 5 40 3)
    ∧ decodeScalar (0b1000100000000000#16 ++ 0b1111111111111101#16) = .ok (.mark 65533)
    ∧ decodeScalar (0b100011#6 ++ 0b0000101#7 ++ 0b000#3 ++ 0b1111111111111101#16) = .ok (.cut 5 65533)
    ∧ decodeScalar (0b100100#6 ++ 0b0000011#7 ++ 0b0000101#7 ++ 0b000000000000#12) = .ok (.glaunch 3 5)
    ∧ decodeScalar (0b100100#6 ++ 0b0000011#7 ++ 0b0000000000000000001#19) = .ok (.stime 3)
    ∧ decodeScalar (0b100101#6 ++ 0b0000011#7 ++ 0b0000000#7 ++ 0b000000000101#12) = .ok (.srd 3 5)
    ∧ decodeScalar (0b1001100000000#13 ++ 0b0000011#7 ++ 0b000000000101#12) = .ok (.swr 3 5)
    ∧ decodeScalar (0b10011100000000000000#20 ++ 0b000000000011#12) = .ok (.trap 3)
    ∧ decodeScalar (0b10100000000000000000#20 ++ 0b000000000011#12) = .ok (.brk 3)
    ∧ decodeScalar (0b1011100000000#13 ++ 0b0000011#7 ++ 0b00000000#8 ++ 0b0101#4) = .ok (.meet 3 5)
    ∧ decodeScalar (0b10111100000000000000000000000000#32) = .ok (.nop)
    ∧ decodeScalar (0b1111000000000#13 ++ 0b0000011#7 ++ 0b0000101#7 ++ 0b00011#5) = .ok (.claim 3 5)
    ∧ decodeScalar (0b111100#6 ++ 0b0000011#7 ++ 0b0000101#7 ++ 0b000000000100#12) = .ok (.xcoll 3 5)
    ∧ decodeScalar (0b1111010000000#13 ++ 0b0000011#7 ++ 0b0000101#7 ++ 0b00000#5) = .ok (.graft 3 5)
    ∧ decodeScalar (0b1111010000000#13 ++ 0b0000011#7 ++ 0b000000000001#12) = .ok (.sfree 3)
    ∧ decodeScalar (0b111101#6 ++ 0b0000011#7 ++ 0b0000101#7 ++ 0b000000000010#12) = .ok (.sinfo 3 5)
    ∧ decodeScalar (0b111110#6 ++ 0b0000011#7 ++ 0b0000000000000000000#19) = .ok (.mres 3)
    ∧ decodeScalar (0b11111000000000000000000000000001#32) = .ok (.mrel)
    ∧ decodeScalar (0b1111100000000#13 ++ 0b0000011#7 ++ 0b000000000010#12) = .ok (.mrun 3) :=
  ⟨rfl, rfl, rfl, rfl, rfl, rfl, rfl, rfl, rfl, rfl, rfl, rfl, rfl, rfl, rfl, rfl, rfl, rfl, rfl, rfl⟩

/-- R58, R59: words of the damper. -/
theorem test_decode_damper :
    decodeDamper (0b000000#6 ++ 0b0011#4 ++ 0b0101#4 ++ 0b01#2) 0xABCD = .ok (.dLdq 3 5 1 0, 1)
    ∧ decodeDamper (0b000001#6 ++ 0b0011#4 ++ 0b0101#4 ++ 0b01#2) 0xABCD = .ok (.dLdt 3 5 1 0, 1)
    ∧ decodeDamper (0b000010#6 ++ 0b0011#4 ++ 0b0101#4 ++ 0b01#2) 0xABCD = .ok (.dLdh 3 5 1 0, 1)
    ∧ decodeDamper (0b000011#6 ++ 0b0011#4 ++ 0b0101#4 ++ 0b01#2) 0xABCD = .ok (.dLde 3 5 1 0, 1)
    ∧ decodeDamper (0b000100#6 ++ 0b0011#4 ++ 0b0101#4 ++ 0b01#2) 0xABCD = .ok (.dAdd 3 5 1 0, 1)
    ∧ decodeDamper (0b000101#6 ++ 0b0011#4 ++ 0b0101#4 ++ 0b01#2) 0xABCD = .ok (.dSub 3 5 1 0, 1)
    ∧ decodeDamper (0b000110#6 ++ 0b0011#4 ++ 0b0101#4 ++ 0b01#2) 0xABCD = .ok (.dMul 3 5 1 0, 1)
    ∧ decodeDamper (0b000111#6 ++ 0b0011#4 ++ 0b0101#4 ++ 0b01#2) 0xABCD = .ok (.dMin 3 5 1 0, 1)
    ∧ decodeDamper (0b001000#6 ++ 0b0011#4 ++ 0b0101#4 ++ 0b01#2) 0xABCD = .ok (.dMax 3 5 1 0, 1)
    ∧ decodeDamper (0b001001#6 ++ 0b0011#4 ++ 0b0101#4 ++ 0b01#2) 0xABCD = .ok (.dAnd 3 5 1 0, 1)
    ∧ decodeDamper (0b001010#6 ++ 0b0011#4 ++ 0b0101#4 ++ 0b01#2) 0xABCD = .ok (.dOr 3 5 1 0, 1)
    ∧ decodeDamper (0b001011#6 ++ 0b0011#4 ++ 0b0101#4 ++ 0b01#2) 0xABCD = .ok (.dXor 3 5 1 0, 1)
    ∧ decodeDamper (0b001100#6 ++ 0b0011#4 ++ 0b0101#4 ++ 0b01#2) 0xABCD = .ok (.dShl 3 5 1 0, 1)
    ∧ decodeDamper (0b001101#6 ++ 0b0011#4 ++ 0b0101#4 ++ 0b01#2) 0xABCD = .ok (.dShr 3 5 1 0, 1)
    ∧ decodeDamper (0b001110#6 ++ 0b0011#4 ++ 0b0101#4 ++ 0b01#2) 0xABCD = .ok (.dCmp 3 5 1 0, 1)
    ∧ decodeDamper (0b001111#6 ++ 0b0011#4 ++ 0b0101#4 ++ 0b01#2) 0xABCD = .ok (.dJf 3 5 1 0, 1)
    ∧ decodeDamper (0b010000#6 ++ 0b0011#4 ++ 0b0101#4 ++ 0b01#2) 0xABCD = .ok (.dBest 3 5 1 0, 1)
    ∧ decodeDamper (0b011000#6 ++ 0b0011#4 ++ 0b0101#4 ++ 0b01#2) 0xABCD = .ok (.dDsp 3 5 1 0, 1)
    ∧ decodeDamper (0b011001#6 ++ 0b0011#4 ++ 0b000000#6) 0xABCD = .ok (.dPre 3, 1)
    ∧ decodeDamper (0b0110100000000000#16) 0xABCD = .ok (.dPark, 1)
    ∧ decodeDamper (0b0110110000000000#16) 0xABCD = .ok (.dKill, 1)
    ∧ decodeDamper (0b0111000000#10 ++ 0b0011#4 ++ 0b01#2) 0xABCD = .ok (.dRetry 3 1 0, 1)
    ∧ decodeDamper (0b0111010000000000#16) 0xABCD = .ok (.dSusp, 1)
    ∧ decodeDamper (0b0111100000000000#16) 0xABCD = .ok (.dGrant, 1)
    ∧ decodeDamper (0b011111#6 ++ 0b0011#4 ++ 0b0101#4 ++ 0b01#2) 0xABCD = .ok (.dFill 3 5 1 0, 1)
    ∧ decodeDamper (0b1000000000000000#16) 0xABCD = .ok (.dHold, 1) :=
  ⟨rfl, rfl, rfl, rfl, rfl, rfl, rfl, rfl, rfl, rfl, rfl, rfl, rfl, rfl, rfl, rfl, rfl, rfl, rfl, rfl, rfl, rfl, rfl, rfl, rfl, rfl⟩

/-- R48 to R53: words of the lane stream. -/
theorem test_decode_lane_integer :
    decodeLane (0b00000000#8 ++ 0b0000#4 ++ 0b0000001010#10 ++ 0b0000000100#10 ++ 0b0000000101#10 ++ 0b0000000110#10 ++ 0b11111#5 ++ 0b0#1 ++ 0b00#2 ++ 0b00#2 ++ 0b00#2 ++ 0b00#2 ++ 0b000#3 ++ 0b000#3 ++ 0b00000000#8 ++ 0b0000000100000010#16) = .ok (.vadd (plainFields 0x00 0 10 4 5 6 0 258))
    ∧ decodeLane (0b00000001#8 ++ 0b0011#4 ++ 0b0000001010#10 ++ 0b0000000100#10 ++ 0b0000000101#10 ++ 0b0000000110#10 ++ 0b11111#5 ++ 0b0#1 ++ 0b00#2 ++ 0b00#2 ++ 0b00#2 ++ 0b00#2 ++ 0b000#3 ++ 0b000#3 ++ 0b00000000#8 ++ 0b0000000100000010#16) = .ok (.vsub (plainFields 0x01 3 10 4 5 6 0 258))
    ∧ decodeLane (0b00000010#8 ++ 0b0000#4 ++ 0b0000001010#10 ++ 0b0000000100#10 ++ 0b0000000101#10 ++ 0b0000000110#10 ++ 0b11111#5 ++ 0b0#1 ++ 0b00#2 ++ 0b00#2 ++ 0b00#2 ++ 0b00#2 ++ 0b000#3 ++ 0b000#3 ++ 0b00000000#8 ++ 0b0000000100000010#16) = .ok (.vmul (plainFields 0x02 0 10 4 5 6 0 258))
    ∧ decodeLane (0b00000010#8 ++ 0b0001#4 ++ 0b0000001010#10 ++ 0b0000000100#10 ++ 0b0000000101#10 ++ 0b0000000110#10 ++ 0b11111#5 ++ 0b0#1 ++ 0b00#2 ++ 0b00#2 ++ 0b00#2 ++ 0b00#2 ++ 0b000#3 ++ 0b000#3 ++ 0b00000001#8 ++ 0b0000000100000010#16) = .ok (.vmulHi (plainFields 0x02 1 10 4 5 6 1 258))
    ∧ decodeLane (0b00000011#8 ++ 0b0000#4 ++ 0b0000001010#10 ++ 0b0000000100#10 ++ 0b0000000101#10 ++ 0b0000000110#10 ++ 0b11111#5 ++ 0b0#1 ++ 0b00#2 ++ 0b00#2 ++ 0b00#2 ++ 0b00#2 ++ 0b000#3 ++ 0b000#3 ++ 0b00000000#8 ++ 0b0000000100000010#16) = .ok (.vmad (plainFields 0x03 0 10 4 5 6 0 258))
    ∧ decodeLane (0b00000100#8 ++ 0b0000#4 ++ 0b0000001010#10 ++ 0b0000000100#10 ++ 0b0000000101#10 ++ 0b0000000110#10 ++ 0b11111#5 ++ 0b0#1 ++ 0b00#2 ++ 0b00#2 ++ 0b00#2 ++ 0b00#2 ++ 0b000#3 ++ 0b000#3 ++ 0b00000000#8 ++ 0b0000000100000010#16) = .ok (.vmin (plainFields 0x04 0 10 4 5 6 0 258))
    ∧ decodeLane (0b00000101#8 ++ 0b0001#4 ++ 0b0000001010#10 ++ 0b0000000100#10 ++ 0b0000000101#10 ++ 0b0000000110#10 ++ 0b11111#5 ++ 0b0#1 ++ 0b00#2 ++ 0b00#2 ++ 0b00#2 ++ 0b00#2 ++ 0b000#3 ++ 0b000#3 ++ 0b00000000#8 ++ 0b0000000100000010#16) = .ok (.vmax (plainFields 0x05 1 10 4 5 6 0 258))
    ∧ decodeLane (0b00000110#8 ++ 0b0001#4 ++ 0b0000001010#10 ++ 0b0000000100#10 ++ 0b0000000101#10 ++ 0b0000000110#10 ++ 0b11111#5 ++ 0b0#1 ++ 0b00#2 ++ 0b00#2 ++ 0b00#2 ++ 0b00#2 ++ 0b000#3 ++ 0b000#3 ++ 0b00000000#8 ++ 0b0000000100000010#16) = .ok (.vand (plainFields 0x06 1 10 4 5 6 0 258))
    ∧ decodeLane (0b00000111#8 ++ 0b0001#4 ++ 0b0000001010#10 ++ 0b0000000100#10 ++ 0b0000000101#10 ++ 0b0000000110#10 ++ 0b11111#5 ++ 0b0#1 ++ 0b00#2 ++ 0b00#2 ++ 0b00#2 ++ 0b00#2 ++ 0b000#3 ++ 0b000#3 ++ 0b00000000#8 ++ 0b0000000100000010#16) = .ok (.vor (plainFields 0x07 1 10 4 5 6 0 258))
    ∧ decodeLane (0b00001000#8 ++ 0b0001#4 ++ 0b0000001010#10 ++ 0b0000000100#10 ++ 0b0000000101#10 ++ 0b0000000110#10 ++ 0b11111#5 ++ 0b0#1 ++ 0b00#2 ++ 0b00#2 ++ 0b00#2 ++ 0b00#2 ++ 0b000#3 ++ 0b000#3 ++ 0b00000000#8 ++ 0b0000000100000010#16) = .ok (.vxor (plainFields 0x08 1 10 4 5 6 0 258))
    ∧ decodeLane (0b00001001#8 ++ 0b0001#4 ++ 0b0000001010#10 ++ 0b0000000100#10 ++ 0b0000000101#10 ++ 0b0000000110#10 ++ 0b11111#5 ++ 0b0#1 ++ 0b00#2 ++ 0b00#2 ++ 0b00#2 ++ 0b00#2 ++ 0b000#3 ++ 0b000#3 ++ 0b00000000#8 ++ 0b0000000100000010#16) = .ok (.vnot (plainFields 0x09 1 10 4 5 6 0 258))
    ∧ decodeLane (0b00001010#8 ++ 0b0001#4 ++ 0b0000001010#10 ++ 0b0000000100#10 ++ 0b0000000101#10 ++ 0b0000000110#10 ++ 0b11111#5 ++ 0b0#1 ++ 0b00#2 ++ 0b00#2 ++ 0b00#2 ++ 0b00#2 ++ 0b000#3 ++ 0b000#3 ++ 0b00000000#8 ++ 0b0000000100000010#16) = .ok (.vshl (plainFields 0x0A 1 10 4 5 6 0 258))
    ∧ decodeLane (0b00001011#8 ++ 0b0001#4 ++ 0b0000001010#10 ++ 0b0000000100#10 ++ 0b0000000101#10 ++ 0b0000000110#10 ++ 0b11111#5 ++ 0b0#1 ++ 0b00#2 ++ 0b00#2 ++ 0b00#2 ++ 0b00#2 ++ 0b000#3 ++ 0b000#3 ++ 0b00000000#8 ++ 0b0000000100000010#16) = .ok (.vshr (plainFields 0x0B 1 10 4 5 6 0 258))
    ∧ decodeLane (0b00001100#8 ++ 0b0000#4 ++ 0b0000001010#10 ++ 0b0000000100#10 ++ 0b0000000101#10 ++ 0b0000000110#10 ++ 0b11111#5 ++ 0b0#1 ++ 0b00#2 ++ 0b00#2 ++ 0b00#2 ++ 0b00#2 ++ 0b000#3 ++ 0b000#3 ++ 0b00000000#8 ++ 0b0000000100000010#16) = .ok (.vsra (plainFields 0x0C 0 10 4 5 6 0 258))
    ∧ decodeLane (0b00001101#8 ++ 0b0001#4 ++ 0b0000001010#10 ++ 0b0000000100#10 ++ 0b0000000101#10 ++ 0b0000000110#10 ++ 0b11111#5 ++ 0b0#1 ++ 0b00#2 ++ 0b00#2 ++ 0b00#2 ++ 0b00#2 ++ 0b000#3 ++ 0b000#3 ++ 0b00000000#8 ++ 0b0000000100000010#16) = .ok (.vbfe (plainFields 0x0D 1 10 4 5 6 0 258))
    ∧ decodeLane (0b00001110#8 ++ 0b0001#4 ++ 0b0000001010#10 ++ 0b0000000100#10 ++ 0b0000000101#10 ++ 0b0000000110#10 ++ 0b11111#5 ++ 0b0#1 ++ 0b00#2 ++ 0b00#2 ++ 0b00#2 ++ 0b00#2 ++ 0b000#3 ++ 0b000#3 ++ 0b00000000#8 ++ 0b0000000100000010#16) = .ok (.vbfi (plainFields 0x0E 1 10 4 5 6 0 258))
    ∧ decodeLane (0b00001111#8 ++ 0b0001#4 ++ 0b0000001010#10 ++ 0b0000000100#10 ++ 0b0000000101#10 ++ 0b0000000110#10 ++ 0b11111#5 ++ 0b0#1 ++ 0b00#2 ++ 0b00#2 ++ 0b00#2 ++ 0b00#2 ++ 0b000#3 ++ 0b000#3 ++ 0b00000000#8 ++ 0b0000000100000010#16) = .ok (.vpopc (plainFields 0x0F 1 10 4 5 6 0 258))
    ∧ decodeLane (0b00010000#8 ++ 0b0001#4 ++ 0b0000001010#10 ++ 0b0000000100#10 ++ 0b0000000101#10 ++ 0b0000000110#10 ++ 0b11111#5 ++ 0b0#1 ++ 0b00#2 ++ 0b00#2 ++ 0b00#2 ++ 0b00#2 ++ 0b000#3 ++ 0b000#3 ++ 0b00000000#8 ++ 0b0000000100000010#16) = .ok (.vclz (plainFields 0x10 1 10 4 5 6 0 258))
    ∧ decodeLane (0b00010001#8 ++ 0b0001#4 ++ 0b0000001010#10 ++ 0b0000000100#10 ++ 0b0000000101#10 ++ 0b0000000110#10 ++ 0b11111#5 ++ 0b0#1 ++ 0b00#2 ++ 0b00#2 ++ 0b00#2 ++ 0b00#2 ++ 0b000#3 ++ 0b000#3 ++ 0b00000000#8 ++ 0b0000000100000010#16) = .ok (.vbrev (plainFields 0x11 1 10 4 5 6 0 258))
    ∧ decodeLane (0b00010010#8 ++ 0b0001#4 ++ 0b0000001010#10 ++ 0b0000000100#10 ++ 0b0000000101#10 ++ 0b0000000110#10 ++ 0b11111#5 ++ 0b0#1 ++ 0b00#2 ++ 0b00#2 ++ 0b00#2 ++ 0b00#2 ++ 0b000#3 ++ 0b000#3 ++ 0b00000000#8 ++ 0b0000000100000010#16) = .ok (.vsel (plainFields 0x12 1 10 4 5 6 0 258))
    ∧ decodeLane (0b00010011#8 ++ 0b0001#4 ++ 0b0000001010#10 ++ 0b0000000100#10 ++ 0b0000000101#10 ++ 0b0000000110#10 ++ 0b11111#5 ++ 0b0#1 ++ 0b00#2 ++ 0b00#2 ++ 0b00#2 ++ 0b00#2 ++ 0b000#3 ++ 0b000#3 ++ 0b00000000#8 ++ 0b0000000100000010#16) = .ok (.vmov (plainFields 0x13 1 10 4 5 6 0 258))
    ∧ decodeLane (0b00010100#8 ++ 0b0000#4 ++ 0b0000001010#10 ++ 0b0000000100#10 ++ 0b0000000101#10 ++ 0b0000000110#10 ++ 0b11111#5 ++ 0b0#1 ++ 0b00#2 ++ 0b00#2 ++ 0b00#2 ++ 0b00#2 ++ 0b000#3 ++ 0b000#3 ++ 0b00000000#8 ++ 0b0000000100000010#16) = .ok (.vli (plainFields 0x14 0 10 4 5 6 0 258))
    ∧ decodeLane (0b00010100#8 ++ 0b0000#4 ++ 0b0000001010#10 ++ 0b0000000100#10 ++ 0b0000000101#10 ++ 0b0000000110#10 ++ 0b11111#5 ++ 0b0#1 ++ 0b00#2 ++ 0b00#2 ++ 0b00#2 ++ 0b00#2 ++ 0b000#3 ++ 0b000#3 ++ 0b00000001#8 ++ 0b0000000100000010#16) = .ok (.vliHi (plainFields 0x14 0 10 4 5 6 1 258)) :=
  ⟨rfl, rfl, rfl, rfl, rfl, rfl, rfl, rfl, rfl, rfl, rfl, rfl, rfl, rfl, rfl, rfl, rfl, rfl, rfl, rfl, rfl, rfl, rfl⟩

/-- R48 to R53: words of the lane stream. -/
theorem test_decode_lane_float :
    decodeLane (0b00100000#8 ++ 0b1000#4 ++ 0b0000001010#10 ++ 0b0000000100#10 ++ 0b0000000101#10 ++ 0b0000000110#10 ++ 0b11111#5 ++ 0b0#1 ++ 0b00#2 ++ 0b00#2 ++ 0b00#2 ++ 0b00#2 ++ 0b000#3 ++ 0b000#3 ++ 0b00000000#8 ++ 0b0000000100000010#16) = .ok (.vfadd (plainFields 0x20 8 10 4 5 6 0 258))
    ∧ decodeLane (0b00100001#8 ++ 0b1000#4 ++ 0b0000001010#10 ++ 0b0000000100#10 ++ 0b0000000101#10 ++ 0b0000000110#10 ++ 0b11111#5 ++ 0b0#1 ++ 0b00#2 ++ 0b00#2 ++ 0b00#2 ++ 0b00#2 ++ 0b000#3 ++ 0b000#3 ++ 0b00000000#8 ++ 0b0000000100000010#16) = .ok (.vfsub (plainFields 0x21 8 10 4 5 6 0 258))
    ∧ decodeLane (0b00100010#8 ++ 0b1000#4 ++ 0b0000001010#10 ++ 0b0000000100#10 ++ 0b0000000101#10 ++ 0b0000000110#10 ++ 0b11111#5 ++ 0b0#1 ++ 0b00#2 ++ 0b00#2 ++ 0b00#2 ++ 0b00#2 ++ 0b000#3 ++ 0b000#3 ++ 0b00000000#8 ++ 0b0000000100000010#16) = .ok (.vfmul (plainFields 0x22 8 10 4 5 6 0 258))
    ∧ decodeLane (0b00100011#8 ++ 0b1000#4 ++ 0b0000001010#10 ++ 0b0000000100#10 ++ 0b0000000101#10 ++ 0b0000000110#10 ++ 0b11111#5 ++ 0b0#1 ++ 0b00#2 ++ 0b00#2 ++ 0b00#2 ++ 0b00#2 ++ 0b000#3 ++ 0b000#3 ++ 0b00000000#8 ++ 0b0000000100000010#16) = .ok (.vffma (plainFields 0x23 8 10 4 5 6 0 258))
    ∧ decodeLane (0b00100100#8 ++ 0b1000#4 ++ 0b0000001010#10 ++ 0b0000000100#10 ++ 0b0000000101#10 ++ 0b0000000110#10 ++ 0b11111#5 ++ 0b0#1 ++ 0b00#2 ++ 0b00#2 ++ 0b00#2 ++ 0b00#2 ++ 0b000#3 ++ 0b000#3 ++ 0b00000000#8 ++ 0b0000000100000010#16) = .ok (.vfmin (plainFields 0x24 8 10 4 5 6 0 258))
    ∧ decodeLane (0b00100101#8 ++ 0b1000#4 ++ 0b0000001010#10 ++ 0b0000000100#10 ++ 0b0000000101#10 ++ 0b0000000110#10 ++ 0b11111#5 ++ 0b0#1 ++ 0b00#2 ++ 0b00#2 ++ 0b00#2 ++ 0b00#2 ++ 0b000#3 ++ 0b000#3 ++ 0b00000000#8 ++ 0b0000000100000010#16) = .ok (.vfmax (plainFields 0x25 8 10 4 5 6 0 258))
    ∧ decodeLane (0b00100110#8 ++ 0b1000#4 ++ 0b0000001010#10 ++ 0b0000000100#10 ++ 0b0000000101#10 ++ 0b0000000110#10 ++ 0b11111#5 ++ 0b0#1 ++ 0b00#2 ++ 0b00#2 ++ 0b00#2 ++ 0b00#2 ++ 0b000#3 ++ 0b000#3 ++ 0b00000000#8 ++ 0b0000000100000010#16) = .ok (.vfrcp (plainFields 0x26 8 10 4 5 6 0 258))
    ∧ decodeLane (0b00100111#8 ++ 0b1000#4 ++ 0b0000001010#10 ++ 0b0000000100#10 ++ 0b0000000101#10 ++ 0b0000000110#10 ++ 0b11111#5 ++ 0b0#1 ++ 0b00#2 ++ 0b00#2 ++ 0b00#2 ++ 0b00#2 ++ 0b000#3 ++ 0b000#3 ++ 0b00000000#8 ++ 0b0000000100000010#16) = .ok (.vfrsq (plainFields 0x27 8 10 4 5 6 0 258))
    ∧ decodeLane (0b00101000#8 ++ 0b1000#4 ++ 0b0000001010#10 ++ 0b0000000100#10 ++ 0b0000000101#10 ++ 0b0000000110#10 ++ 0b11111#5 ++ 0b0#1 ++ 0b00#2 ++ 0b00#2 ++ 0b00#2 ++ 0b00#2 ++ 0b000#3 ++ 0b000#3 ++ 0b00000000#8 ++ 0b0000000100000010#16) = .ok (.vfsqrt (plainFields 0x28 8 10 4 5 6 0 258))
    ∧ decodeLane (0b00101001#8 ++ 0b1000#4 ++ 0b0000001010#10 ++ 0b0000000100#10 ++ 0b0000000101#10 ++ 0b0000000110#10 ++ 0b11111#5 ++ 0b0#1 ++ 0b00#2 ++ 0b00#2 ++ 0b00#2 ++ 0b00#2 ++ 0b000#3 ++ 0b000#3 ++ 0b00000000#8 ++ 0b0000000100000010#16) = .ok (.vfdiv (plainFields 0x29 8 10 4 5 6 0 258))
    ∧ decodeLane (0b00101010#8 ++ 0b1000#4 ++ 0b0000001010#10 ++ 0b0000000100#10 ++ 0b0000000101#10 ++ 0b0000000110#10 ++ 0b11111#5 ++ 0b0#1 ++ 0b00#2 ++ 0b00#2 ++ 0b00#2 ++ 0b00#2 ++ 0b000#3 ++ 0b000#3 ++ 0b00000000#8 ++ 0b0000000100000010#16) = .ok (.vfexp2 (plainFields 0x2A 8 10 4 5 6 0 258))
    ∧ decodeLane (0b00101011#8 ++ 0b1000#4 ++ 0b0000001010#10 ++ 0b0000000100#10 ++ 0b0000000101#10 ++ 0b0000000110#10 ++ 0b11111#5 ++ 0b0#1 ++ 0b00#2 ++ 0b00#2 ++ 0b00#2 ++ 0b00#2 ++ 0b000#3 ++ 0b000#3 ++ 0b00000000#8 ++ 0b0000000100000010#16) = .ok (.vflog2 (plainFields 0x2B 8 10 4 5 6 0 258))
    ∧ decodeLane (0b00101100#8 ++ 0b1000#4 ++ 0b0000001010#10 ++ 0b0000000100#10 ++ 0b0000000101#10 ++ 0b0000000110#10 ++ 0b11111#5 ++ 0b0#1 ++ 0b00#2 ++ 0b00#2 ++ 0b00#2 ++ 0b00#2 ++ 0b000#3 ++ 0b000#3 ++ 0b00000000#8 ++ 0b0000000100000010#16) = .ok (.vfsin (plainFields 0x2C 8 10 4 5 6 0 258))
    ∧ decodeLane (0b00101101#8 ++ 0b1000#4 ++ 0b0000001010#10 ++ 0b0000000100#10 ++ 0b0000000101#10 ++ 0b0000000110#10 ++ 0b11111#5 ++ 0b0#1 ++ 0b00#2 ++ 0b00#2 ++ 0b00#2 ++ 0b00#2 ++ 0b000#3 ++ 0b000#3 ++ 0b00000000#8 ++ 0b0000000100000010#16) = .ok (.vfcos (plainFields 0x2D 8 10 4 5 6 0 258))
    ∧ decodeLane (0b00101110#8 ++ 0b1000#4 ++ 0b0000001010#10 ++ 0b0000000100#10 ++ 0b0000000101#10 ++ 0b0000000110#10 ++ 0b11111#5 ++ 0b0#1 ++ 0b00#2 ++ 0b00#2 ++ 0b00#2 ++ 0b00#2 ++ 0b000#3 ++ 0b000#3 ++ 0b00000000#8 ++ 0b0000000100000010#16) = .ok (.vfrnd (plainFields 0x2E 8 10 4 5 6 0 258))
    ∧ decodeLane (0b00101111#8 ++ 0b1000#4 ++ 0b0000001010#10 ++ 0b0000000100#10 ++ 0b0000000101#10 ++ 0b0000000110#10 ++ 0b11111#5 ++ 0b0#1 ++ 0b00#2 ++ 0b00#2 ++ 0b00#2 ++ 0b00#2 ++ 0b000#3 ++ 0b000#3 ++ 0b00000000#8 ++ 0b0000000100000010#16) = .ok (.vffrac (plainFields 0x2F 8 10 4 5 6 0 258))
    ∧ decodeLane (0b00110000#8 ++ 0b1000#4 ++ 0b0000001010#10 ++ 0b0000000100#10 ++ 0b0000000101#10 ++ 0b0000000110#10 ++ 0b11111#5 ++ 0b0#1 ++ 0b00#2 ++ 0b00#2 ++ 0b00#2 ++ 0b00#2 ++ 0b000#3 ++ 0b000#3 ++ 0b00000000#8 ++ 0b0000000100000010#16) = .ok (.vfcls (plainFields 0x30 8 10 4 5 6 0 258)) :=
  ⟨rfl, rfl, rfl, rfl, rfl, rfl, rfl, rfl, rfl, rfl, rfl, rfl, rfl, rfl, rfl, rfl, rfl⟩

/-- R48 to R53: words of the lane stream. -/
theorem test_decode_lane_predicate :
    decodeLane (0b01000000#8 ++ 0b0000#4 ++ 0b0000001010#10 ++ 0b0000000100#10 ++ 0b0000000101#10 ++ 0b0000000110#10 ++ 0b11111#5 ++ 0b0#1 ++ 0b00#2 ++ 0b00#2 ++ 0b00#2 ++ 0b00#2 ++ 0b000#3 ++ 0b000#3 ++ 0b00000010#8 ++ 0b0000000100000010#16) = .ok (.vicmp (plainFields 0x40 0 10 4 5 6 2 258))
    ∧ decodeLane (0b01000001#8 ++ 0b1000#4 ++ 0b0000001010#10 ++ 0b0000000100#10 ++ 0b0000000101#10 ++ 0b0000000110#10 ++ 0b11111#5 ++ 0b0#1 ++ 0b00#2 ++ 0b00#2 ++ 0b00#2 ++ 0b00#2 ++ 0b000#3 ++ 0b000#3 ++ 0b00000010#8 ++ 0b0000000100000010#16) = .ok (.vfcmp (plainFields 0x41 8 10 4 5 6 2 258))
    ∧ decodeLane (0b01000010#8 ++ 0b0000#4 ++ 0b0000001010#10 ++ 0b0000000100#10 ++ 0b0000000101#10 ++ 0b0000000110#10 ++ 0b11111#5 ++ 0b0#1 ++ 0b00#2 ++ 0b00#2 ++ 0b00#2 ++ 0b00#2 ++ 0b000#3 ++ 0b000#3 ++ 0b00000000#8 ++ 0b0000000100000010#16) = .ok (.pand (plainFields 0x42 0 10 4 5 6 0 258))
    ∧ decodeLane (0b01000011#8 ++ 0b0000#4 ++ 0b0000001010#10 ++ 0b0000000100#10 ++ 0b0000000101#10 ++ 0b0000000110#10 ++ 0b11111#5 ++ 0b0#1 ++ 0b00#2 ++ 0b00#2 ++ 0b00#2 ++ 0b00#2 ++ 0b000#3 ++ 0b000#3 ++ 0b00000000#8 ++ 0b0000000100000010#16) = .ok (.por (plainFields 0x43 0 10 4 5 6 0 258))
    ∧ decodeLane (0b01000100#8 ++ 0b0000#4 ++ 0b0000001010#10 ++ 0b0000000100#10 ++ 0b0000000101#10 ++ 0b0000000110#10 ++ 0b11111#5 ++ 0b0#1 ++ 0b00#2 ++ 0b00#2 ++ 0b00#2 ++ 0b00#2 ++ 0b000#3 ++ 0b000#3 ++ 0b00000000#8 ++ 0b0000000100000010#16) = .ok (.pxor (plainFields 0x44 0 10 4 5 6 0 258))
    ∧ decodeLane (0b01000101#8 ++ 0b0000#4 ++ 0b0000001010#10 ++ 0b0000000100#10 ++ 0b0000000101#10 ++ 0b0000000110#10 ++ 0b11111#5 ++ 0b0#1 ++ 0b00#2 ++ 0b00#2 ++ 0b00#2 ++ 0b00#2 ++ 0b000#3 ++ 0b000#3 ++ 0b00000000#8 ++ 0b0000000100000010#16) = .ok (.pnot (plainFields 0x45 0 10 4 5 6 0 258))
    ∧ decodeLane (0b01000110#8 ++ 0b0000#4 ++ 0b0000001010#10 ++ 0b0000000100#10 ++ 0b0000000101#10 ++ 0b0000000110#10 ++ 0b11111#5 ++ 0b0#1 ++ 0b00#2 ++ 0b00#2 ++ 0b00#2 ++ 0b00#2 ++ 0b000#3 ++ 0b000#3 ++ 0b00000000#8 ++ 0b0000000100000010#16) = .ok (.pmov (plainFields 0x46 0 10 4 5 6 0 258))
    ∧ decodeLane (0b01000110#8 ++ 0b0000#4 ++ 0b0000001010#10 ++ 0b0000000100#10 ++ 0b0000000101#10 ++ 0b0000000110#10 ++ 0b11111#5 ++ 0b0#1 ++ 0b00#2 ++ 0b00#2 ++ 0b00#2 ++ 0b00#2 ++ 0b000#3 ++ 0b000#3 ++ 0b00000001#8 ++ 0b0000000100000010#16) = .ok (.pmovFromLane (plainFields 0x46 0 10 4 5 6 1 258))
    ∧ decodeLane (0b01000110#8 ++ 0b0000#4 ++ 0b0000001010#10 ++ 0b0000000100#10 ++ 0b0000000101#10 ++ 0b0000000110#10 ++ 0b11111#5 ++ 0b0#1 ++ 0b00#2 ++ 0b00#2 ++ 0b00#2 ++ 0b00#2 ++ 0b000#3 ++ 0b000#3 ++ 0b00000010#8 ++ 0b0000000100000010#16) = .ok (.pmovToLane (plainFields 0x46 0 10 4 5 6 2 258)) :=
  ⟨rfl, rfl, rfl, rfl, rfl, rfl, rfl, rfl, rfl⟩

/-- R48 to R53: words of the lane stream. -/
theorem test_decode_lane_convert :
    decodeLane (0b01010000#8 ++ 0b0100#4 ++ 0b0000001010#10 ++ 0b0000000100#10 ++ 0b0000000101#10 ++ 0b0000000110#10 ++ 0b11111#5 ++ 0b0#1 ++ 0b00#2 ++ 0b00#2 ++ 0b00#2 ++ 0b00#2 ++ 0b000#3 ++ 0b000#3 ++ 0b00000000#8 ++ 0b0000000100000010#16) = .ok (.vdot4 (plainFields 0x50 4 10 4 5 6 0 258))
    ∧ decodeLane (0b01010001#8 ++ 0b1001#4 ++ 0b0000001010#10 ++ 0b0000000100#10 ++ 0b0000000101#10 ++ 0b0000000110#10 ++ 0b11111#5 ++ 0b0#1 ++ 0b00#2 ++ 0b00#2 ++ 0b00#2 ++ 0b00#2 ++ 0b000#3 ++ 0b000#3 ++ 0b00000000#8 ++ 0b0000000100000010#16) = .ok (.vfdot2 (plainFields 0x51 9 10 4 5 6 0 258))
    ∧ decodeLane (0b01010010#8 ++ 0b1000#4 ++ 0b0000001010#10 ++ 0b0000000100#10 ++ 0b0000000101#10 ++ 0b0000000110#10 ++ 0b11111#5 ++ 0b0#1 ++ 0b00#2 ++ 0b00#2 ++ 0b00#2 ++ 0b00#2 ++ 0b000#3 ++ 0b000#3 ++ 0b00000000#8 ++ 0b0000000100000010#16) = .ok (.vcvtDec (plainFields 0x52 8 10 4 5 6 0 258))
    ∧ decodeLane (0b01010010#8 ++ 0b1000#4 ++ 0b0000001010#10 ++ 0b0000000100#10 ++ 0b0000000101#10 ++ 0b0000000110#10 ++ 0b11111#5 ++ 0b0#1 ++ 0b00#2 ++ 0b00#2 ++ 0b00#2 ++ 0b00#2 ++ 0b000#3 ++ 0b000#3 ++ 0b00000001#8 ++ 0b0000000100000010#16) = .ok (.vcvtEnc (plainFields 0x52 8 10 4 5 6 1 258))
    ∧ decodeLane (0b01010011#8 ++ 0b1000#4 ++ 0b0000001010#10 ++ 0b0000000100#10 ++ 0b0000000101#10 ++ 0b0000000110#10 ++ 0b11111#5 ++ 0b0#1 ++ 0b00#2 ++ 0b00#2 ++ 0b00#2 ++ 0b00#2 ++ 0b000#3 ++ 0b000#3 ++ 0b00000010#8 ++ 0b0000000100000010#16) = .ok (.vpk (plainFields 0x53 8 10 4 5 6 2 258))
    ∧ decodeLane (0b01010100#8 ++ 0b1000#4 ++ 0b0000001010#10 ++ 0b0000000100#10 ++ 0b0000000101#10 ++ 0b0000000110#10 ++ 0b11111#5 ++ 0b0#1 ++ 0b00#2 ++ 0b00#2 ++ 0b00#2 ++ 0b00#2 ++ 0b000#3 ++ 0b000#3 ++ 0b00000000#8 ++ 0b0000000100000010#16) = .ok (.vupk (plainFields 0x54 8 10 4 5 6 0 258))
    ∧ decodeLane (0b01010101#8 ++ 0b1000#4 ++ 0b0000001010#10 ++ 0b0000000100#10 ++ 0b0000000101#10 ++ 0b0000000110#10 ++ 0b11111#5 ++ 0b0#1 ++ 0b00#2 ++ 0b00#2 ++ 0b00#2 ++ 0b00#2 ++ 0b000#3 ++ 0b000#3 ++ 0b00000000#8 ++ 0b0000000100000010#16) = .ok (.vscl (plainFields 0x55 8 10 4 5 6 0 258)) :=
  ⟨rfl, rfl, rfl, rfl, rfl, rfl, rfl⟩

/-- R48 to R53: words of the lane stream. -/
theorem test_decode_lane_cross :
    decodeLane (0b01100000#8 ++ 0b0001#4 ++ 0b0000001010#10 ++ 0b0000000100#10 ++ 0b0000000101#10 ++ 0b0000000110#10 ++ 0b11111#5 ++ 0b0#1 ++ 0b00#2 ++ 0b00#2 ++ 0b00#2 ++ 0b00#2 ++ 0b000#3 ++ 0b000#3 ++ 0b00000000#8 ++ 0b0000000100000010#16) = .ok (.vshfl (plainFields 0x60 1 10 4 5 6 0 258))
    ∧ decodeLane (0b01100001#8 ++ 0b0001#4 ++ 0b0000001010#10 ++ 0b0000000100#10 ++ 0b0000000101#10 ++ 0b0000000110#10 ++ 0b11111#5 ++ 0b0#1 ++ 0b00#2 ++ 0b00#2 ++ 0b00#2 ++ 0b00#2 ++ 0b000#3 ++ 0b000#3 ++ 0b00000000#8 ++ 0b0000000100000010#16) = .ok (.vbcast (plainFields 0x61 1 10 4 5 6 0 258))
    ∧ decodeLane (0b01100001#8 ++ 0b0001#4 ++ 0b0000001010#10 ++ 0b0000000100#10 ++ 0b0000000101#10 ++ 0b0000000110#10 ++ 0b11111#5 ++ 0b0#1 ++ 0b00#2 ++ 0b00#2 ++ 0b00#2 ++ 0b00#2 ++ 0b000#3 ++ 0b000#3 ++ 0b00000001#8 ++ 0b0000000100000010#16) = .ok (.vbcastFirst (plainFields 0x61 1 10 4 5 6 1 258))
    ∧ decodeLane (0b01100010#8 ++ 0b0000#4 ++ 0b0000001010#10 ++ 0b0000000100#10 ++ 0b0000000101#10 ++ 0b0000000110#10 ++ 0b11111#5 ++ 0b0#1 ++ 0b00#2 ++ 0b00#2 ++ 0b00#2 ++ 0b00#2 ++ 0b000#3 ++ 0b000#3 ++ 0b00000000#8 ++ 0b0000000100000010#16) = .ok (.vscan (plainFields 0x62 0 10 4 5 6 0 258))
    ∧ decodeLane (0b01100011#8 ++ 0b0000#4 ++ 0b0000001010#10 ++ 0b0000000100#10 ++ 0b0000000101#10 ++ 0b0000000110#10 ++ 0b11111#5 ++ 0b0#1 ++ 0b00#2 ++ 0b00#2 ++ 0b00#2 ++ 0b00#2 ++ 0b000#3 ++ 0b000#3 ++ 0b00000000#8 ++ 0b0000000100000010#16) = .ok (.vballot (plainFields 0x63 0 10 4 5 6 0 258))
    ∧ decodeLane (0b01100011#8 ++ 0b0000#4 ++ 0b0000001010#10 ++ 0b0000000100#10 ++ 0b0000000101#10 ++ 0b0000000110#10 ++ 0b11111#5 ++ 0b0#1 ++ 0b00#2 ++ 0b00#2 ++ 0b00#2 ++ 0b00#2 ++ 0b000#3 ++ 0b000#3 ++ 0b00000001#8 ++ 0b0000000100000010#16) = .ok (.vballotCnt (plainFields 0x63 0 10 4 5 6 1 258))
    ∧ decodeLane (0b01100100#8 ++ 0b0000#4 ++ 0b0000001010#10 ++ 0b0000000100#10 ++ 0b0000000101#10 ++ 0b0000000110#10 ++ 0b11111#5 ++ 0b0#1 ++ 0b00#2 ++ 0b00#2 ++ 0b00#2 ++ 0b00#2 ++ 0b000#3 ++ 0b000#3 ++ 0b00000000#8 ++ 0b0000000100000010#16) = .ok (.vred (plainFields 0x64 0 10 4 5 6 0 258))
    ∧ decodeLane (0b01100101#8 ++ 0b0001#4 ++ 0b0000001010#10 ++ 0b0000000100#10 ++ 0b0000000101#10 ++ 0b0000000110#10 ++ 0b11111#5 ++ 0b0#1 ++ 0b00#2 ++ 0b00#2 ++ 0b00#2 ++ 0b00#2 ++ 0b000#3 ++ 0b000#3 ++ 0b00000000#8 ++ 0b0000000100000010#16) = .ok (.vmbox (plainFields 0x65 1 10 4 5 6 0 258))
    ∧ decodeLane (0b01100101#8 ++ 0b0001#4 ++ 0b0000001010#10 ++ 0b0000000100#10 ++ 0b0000000101#10 ++ 0b0000000110#10 ++ 0b11111#5 ++ 0b0#1 ++ 0b00#2 ++ 0b00#2 ++ 0b00#2 ++ 0b00#2 ++ 0b000#3 ++ 0b000#3 ++ 0b00000001#8 ++ 0b0000000100000010#16) = .ok (.vmboxLast (plainFields 0x65 1 10 4 5 6 1 258))
    ∧ decodeLane (0b01100110#8 ++ 0b0000#4 ++ 0b0000001010#10 ++ 0b0000000100#10 ++ 0b0000000101#10 ++ 0b0000000110#10 ++ 0b11111#5 ++ 0b0#1 ++ 0b00#2 ++ 0b00#2 ++ 0b00#2 ++ 0b00#2 ++ 0b000#3 ++ 0b000#3 ++ 0b00000000#8 ++ 0b0000000100000010#16) = .ok (.vlid (plainFields 0x66 0 10 4 5 6 0 258))
    ∧ decodeLane (0b01100111#8 ++ 0b0000#4 ++ 0b0000001010#10 ++ 0b0000000100#10 ++ 0b0000000101#10 ++ 0b0000000110#10 ++ 0b11111#5 ++ 0b0#1 ++ 0b00#2 ++ 0b00#2 ++ 0b00#2 ++ 0b00#2 ++ 0b000#3 ++ 0b000#3 ++ 0b00000000#8 ++ 0b0000000100000010#16) = .ok (.vixs (plainFields 0x67 0 10 4 5 6 0 258)) :=
  ⟨rfl, rfl, rfl, rfl, rfl, rfl, rfl, rfl, rfl, rfl, rfl⟩

/-- R48 to R53: words of the lane stream. -/
theorem test_decode_lane_memory :
    decodeLane (0b10000000#8 ++ 0b0001#4 ++ 0b0000001010#10 ++ 0b0000000100#10 ++ 0b0000000101#10 ++ 0b0000000110#10 ++ 0b11111#5 ++ 0b0#1 ++ 0b00#2 ++ 0b00#2 ++ 0b00#2 ++ 0b00#2 ++ 0b000#3 ++ 0b000#3 ++ 0b00000010#8 ++ 0b0000000100000010#16) = .ok (.vld (plainFields 0x80 1 10 4 5 6 2 258))
    ∧ decodeLane (0b10000000#8 ++ 0b0001#4 ++ 0b0000001010#10 ++ 0b0000000100#10 ++ 0b0000000101#10 ++ 0b0000000110#10 ++ 0b11111#5 ++ 0b0#1 ++ 0b00#2 ++ 0b00#2 ++ 0b00#2 ++ 0b00#2 ++ 0b000#3 ++ 0b000#3 ++ 0b00001010#8 ++ 0b0000000100000010#16) = .ok (.vldAcquire (plainFields 0x80 1 10 4 5 6 10 258))
    ∧ decodeLane (0b10000001#8 ++ 0b0001#4 ++ 0b0000001010#10 ++ 0b0000000100#10 ++ 0b0000000101#10 ++ 0b0000000110#10 ++ 0b11111#5 ++ 0b0#1 ++ 0b00#2 ++ 0b00#2 ++ 0b00#2 ++ 0b00#2 ++ 0b000#3 ++ 0b000#3 ++ 0b00000010#8 ++ 0b0000000100000010#16) = .ok (.vst (plainFields 0x81 1 10 4 5 6 2 258))
    ∧ decodeLane (0b10000001#8 ++ 0b0001#4 ++ 0b0000001010#10 ++ 0b0000000100#10 ++ 0b0000000101#10 ++ 0b0000000110#10 ++ 0b11111#5 ++ 0b0#1 ++ 0b00#2 ++ 0b00#2 ++ 0b00#2 ++ 0b00#2 ++ 0b000#3 ++ 0b000#3 ++ 0b00001010#8 ++ 0b0000000100000010#16) = .ok (.vstRelease (plainFields 0x81 1 10 4 5 6 10 258))
    ∧ decodeLane (0b10000010#8 ++ 0b0001#4 ++ 0b0000001010#10 ++ 0b0000000100#10 ++ 0b0000000101#10 ++ 0b0000000110#10 ++ 0b11111#5 ++ 0b0#1 ++ 0b00#2 ++ 0b00#2 ++ 0b00#2 ++ 0b00#2 ++ 0b000#3 ++ 0b000#3 ++ 0b00000000#8 ++ 0b0000000100000010#16) = .ok (.vlds (plainFields 0x82 1 10 4 5 6 0 258))
    ∧ decodeLane (0b10000011#8 ++ 0b0001#4 ++ 0b0000001010#10 ++ 0b0000000100#10 ++ 0b0000000101#10 ++ 0b0000000110#10 ++ 0b11111#5 ++ 0b0#1 ++ 0b00#2 ++ 0b00#2 ++ 0b00#2 ++ 0b00#2 ++ 0b000#3 ++ 0b000#3 ++ 0b00000000#8 ++ 0b0000000100000010#16) = .ok (.vsts (plainFields 0x83 1 10 4 5 6 0 258))
    ∧ decodeLane (0b10000100#8 ++ 0b0001#4 ++ 0b0000001010#10 ++ 0b0000000100#10 ++ 0b0000000101#10 ++ 0b0000000110#10 ++ 0b11111#5 ++ 0b0#1 ++ 0b00#2 ++ 0b00#2 ++ 0b00#2 ++ 0b00#2 ++ 0b000#3 ++ 0b000#3 ++ 0b00000000#8 ++ 0b0000000100000010#16) = .ok (.vatom (plainFields 0x84 1 10 4 5 6 0 258))
    ∧ decodeLane (0b10000100#8 ++ 0b0001#4 ++ 0b0000001010#10 ++ 0b0000000100#10 ++ 0b0000000101#10 ++ 0b0000000110#10 ++ 0b11111#5 ++ 0b0#1 ++ 0b00#2 ++ 0b00#2 ++ 0b00#2 ++ 0b00#2 ++ 0b000#3 ++ 0b000#3 ++ 0b00000111#8 ++ 0b0000000100000010#16) = .ok (.vatomCas (plainFields 0x84 1 10 4 5 6 7 258))
    ∧ decodeLane (0b10000101#8 ++ 0b0001#4 ++ 0b0000001010#10 ++ 0b0000000100#10 ++ 0b0000000101#10 ++ 0b0000000110#10 ++ 0b11111#5 ++ 0b0#1 ++ 0b00#2 ++ 0b00#2 ++ 0b00#2 ++ 0b00#2 ++ 0b000#3 ++ 0b000#3 ++ 0b00000000#8 ++ 0b0000000100000010#16) = .ok (.vredm (plainFields 0x85 1 10 4 5 6 0 258))
    ∧ decodeLane (0b10000110#8 ++ 0b0000#4 ++ 0b0000001010#10 ++ 0b0000000100#10 ++ 0b0000000101#10 ++ 0b0000000110#10 ++ 0b11111#5 ++ 0b0#1 ++ 0b00#2 ++ 0b00#2 ++ 0b00#2 ++ 0b00#2 ++ 0b000#3 ++ 0b000#3 ++ 0b00000000#8 ++ 0b0000000100000010#16) = .ok (.vpref (plainFields 0x86 0 10 4 5 6 0 258)) :=
  ⟨rfl, rfl, rfl, rfl, rfl, rfl, rfl, rfl, rfl, rfl⟩

/-- R57, R297: words of the matrix stream. -/
theorem test_decode_matrix :
    decodeMatrix (0b11100000#8 ++ 0b1001#4 ++ 0b0000001001#10 ++ 0b0000010000#10 ++ 0b0000000011#10 ++ 0b0000000001#10 ++ 0b11111#5 ++ 0b0#1 ++ 0b00#2 ++ 0b00#2 ++ 0b00#2 ++ 0b00#2 ++ 0b000#3 ++ 0b000#3 ++ 0b00010011#8 ++ 0b0000000000000000#16) = .ok (.gmma (plainFields 0xE0 9 9 16 3 1 19 0))
    ∧ decodeMatrix (0b11100001#8 ++ 0b1001#4 ++ 0b0000001001#10 ++ 0b0000000000#10 ++ 0b0000000001#10 ++ 0b0000000000#10 ++ 0b11111#5 ++ 0b0#1 ++ 0b00#2 ++ 0b00#2 ++ 0b00#2 ++ 0b00#2 ++ 0b000#3 ++ 0b000#3 ++ 0b00000000#8 ++ 0b0000000000000000#16) = .ok (.gldb (plainFields 0xE1 9 9 0 1 0 0 0))
    ∧ decodeMatrix (0b11100010#8 ++ 0b0000#4 ++ 0b0000001001#10 ++ 0b0000000000#10 ++ 0b0000000000#10 ++ 0b0000000000#10 ++ 0b11111#5 ++ 0b0#1 ++ 0b00#2 ++ 0b00#2 ++ 0b00#2 ++ 0b00#2 ++ 0b000#3 ++ 0b000#3 ++ 0b00000000#8 ++ 0b0000000000000000#16) = .ok (.gclr (plainFields 0xE2 0 9 0 0 0 0 0))
    ∧ decodeMatrix (0b11100011#8 ++ 0b1000#4 ++ 0b0000000000#10 ++ 0b0000000101#10 ++ 0b0000000010#10 ++ 0b0000000000#10 ++ 0b11111#5 ++ 0b0#1 ++ 0b00#2 ++ 0b00#2 ++ 0b00#2 ++ 0b00#2 ++ 0b000#3 ++ 0b000#3 ++ 0b00000100#8 ++ 0b0000000000000000#16) = .ok (.gst (plainFields 0xE3 8 0 5 2 0 4 0))
    ∧ decodeMatrix (0b11100100#8 ++ 0b0000#4 ++ 0b0000001001#10 ++ 0b0000000101#10 ++ 0b0000000000#10 ++ 0b0000000000#10 ++ 0b11111#5 ++ 0b0#1 ++ 0b00#2 ++ 0b00#2 ++ 0b00#2 ++ 0b00#2 ++ 0b000#3 ++ 0b000#3 ++ 0b00000000#8 ++ 0b0000000000000000#16) = .ok (.gmov (plainFields 0xE4 0 9 5 0 0 0 0))
    ∧ decodeMatrix (0b11100100#8 ++ 0b0000#4 ++ 0b0000001001#10 ++ 0b0000000101#10 ++ 0b0000000000#10 ++ 0b0000000000#10 ++ 0b11111#5 ++ 0b0#1 ++ 0b00#2 ++ 0b00#2 ++ 0b00#2 ++ 0b00#2 ++ 0b000#3 ++ 0b000#3 ++ 0b00000001#8 ++ 0b0000000000000000#16) = .ok (.gmovTr (plainFields 0xE4 0 9 5 0 0 1 0))
    ∧ decodeMatrix (0b11100101#8 ++ 0b0000#4 ++ 0b0000000000#10 ++ 0b0000000000#10 ++ 0b0000000000#10 ++ 0b0000000100#10 ++ 0b11111#5 ++ 0b0#1 ++ 0b00#2 ++ 0b00#2 ++ 0b00#2 ++ 0b00#2 ++ 0b000#3 ++ 0b000#3 ++ 0b00000000#8 ++ 0b0000001000010000#16) = .ok (.gmeet (plainFields 0xE5 0 0 0 0 4 0 528))
    ∧ decodeMatrix (0b11100110#8 ++ 0b0000#4 ++ 0b0000000000#10 ++ 0b0000000000#10 ++ 0b0000000000#10 ++ 0b0000000100#10 ++ 0b11111#5 ++ 0b0#1 ++ 0b00#2 ++ 0b00#2 ++ 0b00#2 ++ 0b00#2 ++ 0b000#3 ++ 0b000#3 ++ 0b00000000#8 ++ 0b0000001000010000#16) = .ok (.gend (plainFields 0xE6 0 0 0 0 4 0 528)) :=
  ⟨rfl, rfl, rfl, rfl, rfl, rfl, rfl, rfl⟩

/-- Each check of WellFormed refuses an instruction that fails it, and it alone: a condition code (R44), the operands of `iqloop` (R127), the
fresh frame of `cut`, a system register that cannot be read or written (R132), the sizes, hints and scopes of memory words (R46, R253 to
R257), a register group past s127 (R47) and a window mode. -/
theorem test_wellFormed_scalar :
    WellFormed (.scmp 1 2 3 6) = false ∧ WellFormed (.iqloop 0 40 1) = false ∧ WellFormed (.iqloop 24 40 1) = false
    ∧ WellFormed (.iqloop 5 768 1) = false ∧ WellFormed (.cut 0 9) = false ∧ WellFormed (.srd 3 0x006) = false ∧ WellFormed (.swr 3 0x002) = false
    ∧ WellFormed (.sld 1 2 0 7 0) = false ∧ WellFormed (.sld 1 2 0 3 6) = false ∧ WellFormed (.sldAcquire 1 2 0 7 0) = false
    ∧ WellFormed (.sldAcquire 1 2 0 3 5) = false ∧ WellFormed (.sst 1 2 0 1 0) = false ∧ WellFormed (.sst 1 2 0 0 4) = false
    ∧ WellFormed (.sstRelease 1 2 0 3 0) = false ∧ WellFormed (.sstRelease 1 2 0 2 5) = false ∧ WellFormed (.fence 0 1) = false
    ∧ WellFormed (.fence 1 5) = false ∧ WellFormed (.cadd 1 2 5) = false ∧ WellFormed (.cwait 1 2 5) = false ∧ WellFormed (.cpy 1 2 126) = false
    ∧ WellFormed (.cpy2d 1 2 123) = false ∧ WellFormed (.wmap 1 2 127 0) = false ∧ WellFormed (.wmap 1 2 3 3) = false := by decide

/-- Lane and matrix words of another opcode, a reserved type, an unassigned function, an unused SLOT or an unused field (R49, R52, R53, R57); and
damper words of MODE 11, of a nonzero SRC beside an extension, and of an extension without MODE 10 (R58). -/
theorem test_wellFormed_words :
    WellFormed (.vadd (plainFields 0x01 0 1 2 3 0 0 0)) = false ∧ WellFormed (.vadd (plainFields 0x00 14 1 2 3 0 0 0)) = false
    ∧ WellFormed (.vadd (plainFields 0x00 0 1 2 3 0 1 0)) = false ∧ WellFormed (.vadd { plainFields 0x00 0 1 2 3 0 0 0 with slot := 1 }) = false
    ∧ WellFormed (.gmma (plainFields 0xE2 0 9 0 0 0 0 0)) = false ∧ WellFormed (.gclr (plainFields 0xE2 0 9 1 0 0 0 0)) = false
    ∧ WellFormed (.gclr { plainFields 0xE2 0 9 0 0 0 0 0 with pred := 0 }) = false
    ∧ WellFormed (.dAdd 3 5 3 0) = false ∧ WellFormed (.dAdd 3 5 2 7) = false ∧ WellFormed (.dAdd 3 5 1 7) = false := by decide

/-- The neighbours of those that are well formed. -/
theorem test_wellFormed_accepts :
    WellFormed (.scmp 1 2 3 5) = true ∧ WellFormed (.iqloop 23 767 1) = true ∧ WellFormed (.cut 1 9) = true ∧ WellFormed (.cpy 1 2 125) = true
    ∧ WellFormed (.cpy2d 1 2 122) = true ∧ WellFormed (.wmap 1 2 126 2) = true ∧ WellFormed (.fence 3 4) = true
    ∧ WellFormed (.vadd (plainFields 0x00 0 1 2 3 0 0 0)) = true ∧ WellFormed (.dAdd 3 0 2 7) = true := by decide

/-! ### States that meet the hypotheses of the statements -/

/-- A strand placed in slot 0 of core 0, whose scalar side is about to issue. -/
def base : State := { withStrand State.reset with agent := .scalar 0 0 }

/-- That strand, and the state, with its scalar side changed. -/
def baseT : Strand := (strandAt base 0 0).getD (fetchStrand State.reset)
def wT (f : ScalarSide → ScalarSide) : Strand := { baseT with sc := f baseT.sc }
def wS (f : ScalarSide → ScalarSide) : State := putStrand base 0 0 (wT f)

/-- Scalar registers given values. -/
def regs (l : List (Nat × Word)) (x : ScalarSide) : ScalarSide := { x with sregs := l }

/-- The same with the whole strand changed. -/
def vT (g : Strand → Strand) : Strand := g baseT
def vS (g : Strand → Strand) : State := putStrand base 0 0 (vT g)

/-- Every scalar instruction is ready in such a state: no register is awaited, and none is poisoned. -/
theorem readyV (g : Strand → Strand) (rs : List Nat) (d : Nat) (h1 : (vT g).spend = [] := by rfl) (h2 : (vT g).tpend = [] := by rfl)
    (h3 : (vT g).sc.spoison = [] := by rfl) (h4 : scalarUnits (vS g) 0 = 0 := by with_unfolding_all rfl) : ScalarReady (vS g) 0 0 (vT g) rs d where
  agent := rfl
  strand := rfl
  loads := by intro r _; simp [loadPending, h1]
  tokens := by intro e h; rw [h2] at h; cases h
  units := by
    simp only [scalarReserveShort, h4, Bool.and_eq_false_iff, decide_eq_false_iff_not, Nat.not_lt]; right
    exact Nat.le_trans (Nat.add_le_add_left (List.length_filter_le _ _) 0) (by rw [show [d].eraseDups = [d] from rfl]; simp)
  sound := by intro r _ _; simp [h3]
theorem ready (f : ScalarSide → ScalarSide) (rs : List Nat) (d : Nat) (h : (f baseT.sc).spoison = [] := by rfl) :
    ScalarReady (wS f) 0 0 (wT f) rs d := readyV (fun t => { t with sc := f t.sc }) rs d rfl rfl h (by with_unfolding_all rfl)

/-- A path stack without lanes gives no pop, and none to a demotion of a path that has no lanes either. -/
theorem no_pop {b : Bool} {x y : ScalarSide} (h : ∀ e ∈ x.path, e.empty) : ¬ Pops b x y := by
  rintro ⟨l, e, a, hp, he, -⟩
  exact he (h e (by simp [hp]))
theorem no_demotion {b : Bool} {x y : ScalarSide} {a : Word} (h : ∀ e ∈ x.path, e.empty) (he : x.exec = 0) (hn : x.path ≠ []) :
    ¬ Demotes b x y a := by
  rintro ⟨below, above, hp, -, hb, hc⟩
  have hl : below = [] := by
    cases hg : below.getLast? with
    | none => exact List.getLast?_eq_none_iff.1 hg
    | some e => exact absurd (hb e hg) (by simp [(h e (by simp [hp, List.mem_of_getLast? hg])).1])
  subst hl
  rcases hc with ⟨h1, -⟩ | ⟨-, z, hz, -⟩
  · exact hn (by simp [hp, h1])
  · exact no_pop (fun e h1 => by
      rcases List.mem_cons.1 h1 with rfl | h2
      · exact ⟨rfl, he⟩
      · exact h e (by simpa [hp] using h2)) hz

/-- The strand at an instruction that performs like an atomic: its side waits to perform, and its regions have cleared. -/
def atomicT (t : Strand) : Strand := { t with sphase := .closing, regions := t.regions.map fun r => { r with close := some 0, sclose := some 0, ec := some 0, cleared := true } }

theorem memReadyV (g : Strand → Strand) (rs : List Nat) (d : Nat) (h1 : (vT g).spend = [] := by rfl) (h2 : (vT g).tpend = [] := by rfl)
    (h3 : (vT g).sc.spoison = [] := by rfl) (h4 : scalarUnits (vS g) 0 = 0 := by with_unfolding_all rfl) (h5 : (vT g).ops = [] := by rfl) :
    MemReady (vS g) 0 0 (vT g) rs d := ⟨readyV g rs d h1 h2 h3 h4, by rw [h5]; intro o h; cases h⟩
theorem memReady (f : ScalarSide → ScalarSide) (rs : List Nat) (d : Nat) (h : (f baseT.sc).spoison = [] := by rfl) :
    MemReady (wS f) 0 0 (wT f) rs d := memReadyV (fun t => { t with sc := f t.sc }) rs d rfl rfl h (by with_unfolding_all rfl) rfl

/-- Such a state with changes outside the strand that leave the strands and the agent as they are. -/
theorem MemReady.other {s : State} {t : Strand} {rs : List Nat} {d : Nat} (h : MemReady s 0 0 t rs d) (u : State) (h1 : u.agent = s.agent)
    (h2 : u.strands = s.strands) : MemReady u 0 0 t rs d :=
  ⟨⟨h1.trans h.ready.agent, by rw [← h.ready.strand]; unfold strandAt; rw [h2], h.ready.loads, h.ready.tokens,
    by have := h.ready.units; unfold scalarReserveShort scalarUnits residents at *; rw [h2]; exact this, h.ready.sound⟩, h.acquire⟩

/-- An answer, or a fault, as a check that evaluates. -/
def isOk {ε α : Type} [DecidableEq α] (x : Except ε α) (v : α) : Bool := match x with | .ok a => a == v | .error _ => false
theorem ok_of {ε α : Type} [DecidableEq α] {x : Except ε α} {v : α} (h : isOk x v = true) : x = .ok v := by
  cases x with
  | error k => cases h
  | ok a => exact congrArg _ (eq_of_beq h)
def isErr {ε α : Type} [DecidableEq ε] (x : Except ε α) (v : ε) : Bool := match x with | .ok _ => false | .error a => a == v
theorem err_of {ε α : Type} [DecidableEq ε] {x : Except ε α} {v : ε} (h : isErr x v = true) : x = .error v := by
  cases x with
  | ok k => cases h
  | error a => exact congrArg _ (eq_of_beq h)

/-- The strand ready to perform. -/
theorem performing (g : Strand → Strand) (rs : List Nat) (d : Nat) (h1 : (vT g).spend = [] := by rfl) (h2 : (vT g).tpend = [] := by rfl)
    (h3 : (vT g).sc.spoison = [] := by rfl) (h4 : scalarUnits (vS g) 0 = 0 := by with_unfolding_all rfl) (h5 : (vT g).ops = [] := by rfl)
    (h6 : (vT g).sphase = .closing := by rfl) (h7 : ((vT g).regions.all fun r => r.cleared) = true := by rfl)
    (h8 : (vT g).regions.length < 4 := by decide +kernel) : Performing (vS g) 0 0 (vT g) rs d :=
  ⟨memReadyV g rs d h1 h2 h3 h4 h5, h8, h6, by simpa using h7⟩
theorem Performing.other {s : State} {t : Strand} {rs : List Nat} {d : Nat} (h : Performing s 0 0 t rs d) (u : State) (h1 : u.agent = s.agent)
    (h2 : u.strands = s.strands) : Performing u 0 0 t rs d := ⟨h.ready.other u h1 h2, h.room, h.phase, h.cleared⟩

/-- The strand with a clause under way, whose lane stream is about to issue; its VBLK is 24, and every lane is active. -/
def laneR : Running := fetchClause State.reset
def laneT (g : Strand → Strand) : Strand := g { baseT with st := { queue := [], current := some laneR } }
def lS (g : Strand → Strand) : State := { putStrand base 0 0 (laneT g) with agent := .lane 0 0 }
theorem laneReady (g : Strand → Strand) (u : LaneUse) (f : LaneFields) (h : (laneReject f = none ∧ laneChecks u (laneCtx 0 0 (laneT g) laneR f) f = none
      ∧ operandPending u (laneCtx 0 0 (laneT g) laneR f) f = false
      ∧ laneUnits (lS g) 0 + (newLanes u (laneCtx 0 0 (laneT g) laneR f) f).length ≤ 4096 ∧ poisonLanes u (laneCtx 0 0 (laneT g) laneR f) f = []
      ∧ (unconsumed u (laneCtx 0 0 (laneT g) laneR f) f = [] ∧ idleErrors u u.apart (laneCtx 0 0 (laneT g) laneR f) f = [])) := by decide +kernel)
    (h1 : (laneT g).st.current = some laneR := by rfl) : LaneReady u f (lS g) 0 0 (laneT g) laneR :=
  ⟨rfl, rfl, h1, h.1, h.2.1, h.2.2.1, h.2.2.2.1, h.2.2.2.2.1, h.2.2.2.2.2⟩

/-- Such a state with changes outside the strand. -/
theorem LaneReady.other {s : State} {t : Strand} {r : Running} {u : LaneUse} {f : LaneFields} (h : LaneReady u f s 0 0 t r) (v : State)
    (h1 : v.agent = s.agent := by rfl) (h2 : v.strands = s.strands := by rfl) (h3 : (coreOf v 0).lateUnits = (coreOf s 0).lateUnits := by rfl) :
    LaneReady u f v 0 0 t r :=
  ⟨h1.trans h.agent, by rw [← h.strand]; unfold strandAt; rw [h2], h.current, h.word, h.checks, h.pending,
    by have := h.units; unfold laneUnits residents at *; rw [h2, h3]; exact this, h.sound, h.clean⟩

theorem witness_ScalarArithmetic : scalarResult (.sadd 9 4 5) = some ([4, 5], 9, fun x => sget x 4 + sget x 5)
    ∧ ScalarReady (wS id) 0 0 (wT id) [4, 5] 9 := ⟨rfl, ready _ _ _⟩

/-- Division by 0, of the least number by -1, and of other numbers. -/
theorem witness_DivisionResults_zero : ScalarReady (wS (regs [(4, 7)])) 0 0 (wT (regs [(4, 7)])) [4, 5] 9
    ∧ sget (wT (regs [(4, 7)])).sc 5 = 0 := ⟨ready _ _ _, by decide⟩
theorem witness_DivisionResults_least : ScalarReady (wS (regs [(4, 0x8000000000000000), (5, -1)])) 0 0 (wT (regs [(4, 0x8000000000000000), (5, -1)])) [4, 5] 9
    ∧ (sget (wT (regs [(4, 0x8000000000000000), (5, -1)])).sc 4).toInt = -2 ^ 63
    ∧ (sget (wT (regs [(4, 0x8000000000000000), (5, -1)])).sc 5).toInt = -1 := ⟨ready _ _ _, by decide, by decide⟩
theorem witness_DivisionResults_other : ScalarReady (wS (regs [(4, 7), (5, -1)])) 0 0 (wT (regs [(4, 7), (5, -1)])) [4, 5] 9
    ∧ sget (wT (regs [(4, 7), (5, -1)])).sc 5 ≠ 0 ∧ (sget (wT (regs [(4, 7), (5, -1)])).sc 4).toInt ≠ -2 ^ 63 := ⟨ready _ _ _, by decide, by decide⟩

theorem witness_ShiftsAndCompares_reserved : (7#6).toNat = 7 ∧ 64 ≤ (64#12).toNat := by decide
theorem witness_ShiftsAndCompares_holds : ScalarReady (wS id) 0 0 (wT id) [0, 0] 9 ∧ (5#4).toNat ≤ 5
    ∧ Condition (5#4).toNat (sget (wT id).sc 0) (sget (wT id).sc 0) := ⟨ready _ _ _, by decide, Nat.le_refl _⟩
theorem witness_ShiftsAndCompares_fails : ScalarReady (wS id) 0 0 (wT id) [0, 0] 9 ∧ ¬ Condition 4 (sget (wT id).sc 0) (sget (wT id).sc 0) :=
  ⟨ready _ _ _, Nat.lt_irrefl _⟩
theorem witness_ShiftsAndCompares_code : (wS id).agent = .scalar 0 0 ∧ strandAt (wS id) 0 0 = some (wT id) ∧ 5 < (6#4).toNat := ⟨rfl, rfl, by decide⟩

theorem witness_BranchesCallsReturns_branch : branchOf (.sbEq 4 5 (-3)) = some (0, 4, 5, -3) ∧ ScalarReady (wS (regs [(4, 7)])) 0 0 (wT (regs [(4, 7)])) [4, 5] 0
    ∧ ¬ Condition 0 (sget (wT (regs [(4, 7)])).sc 4) (sget (wT (regs [(4, 7)])).sc 5) ∧ Condition 1 (sget (wT (regs [(4, 7)])).sc 4) (sget (wT (regs [(4, 7)])).sc 5) :=
  ⟨rfl, ready _ _ _, show ¬ sget _ 4 = sget _ 5 by decide, show sget _ 4 ≠ sget _ 5 by decide⟩
/-- A backward jump with DEMOTE set, with no path above the JOIN, and with paths all without lanes. -/
theorem witness_BranchesCallsReturns_demotes : Demotes (wT fun x => { x with demote := true }).compat (wT fun x => { x with demote := true }).sc
    { (wT fun x => { x with demote := true }).sc with spc := 0, demote := false } 0 :=
  ⟨[], [], rfl, by simp, by simp, .inl ⟨rfl, rfl⟩⟩
def noLanes (x : ScalarSide) : ScalarSide := { x with exec := 0, path := [{ mask := 0, addr := 0, join := false }], demote := true }
theorem witness_BranchesCallsReturns_underflow : ScalarReady (wS noLanes) 0 0 (wT noLanes) [] 0 ∧ (wT noLanes).sc.demote = true
    ∧ ∀ y, ¬ Demotes (wT noLanes).compat (wT noLanes).sc y 0 :=
  ⟨ready _ _ _, rfl, fun _ => no_demotion (by intro e h; rw [List.mem_singleton.1 h]; exact ⟨rfl, rfl⟩) rfl (by decide)⟩
theorem witness_BranchesCallsReturns_jump : ScalarReady (wS id) 0 0 (wT id) [] 0 ∧ (wT id).sc.demote = false := ⟨ready _ _ _, rfl⟩

def deep (n : BitVec 16) (a : Word) (x : ScalarSide) : ScalarSide := { x with rdepth := n, sregs := [(1, a), (7, a)] }
theorem witness_BranchesCallsReturns_call : ScalarReady (wS (deep 65534 64)) 0 0 (wT (deep 65534 64)) [7] 1
    ∧ (wT (deep 65534 64)).sc.rdepth.toNat < 65535 ∧ JumpTarget (sget (wT (deep 65534 64)).sc 7) := ⟨ready _ _ _, by decide, by unfold JumpTarget; decide⟩
theorem witness_BranchesCallsReturns_overflow : ScalarReady (wS (deep 65535 64)) 0 0 (wT (deep 65535 64)) [7] 1
    ∧ (wT (deep 65535 64)).sc.rdepth.toNat = 65535 := ⟨ready _ _ _, by decide⟩
theorem witness_BranchesCallsReturns_target : ScalarReady (wS (deep 65534 66)) 0 0 (wT (deep 65534 66)) [7] 1
    ∧ (wT (deep 65534 66)).sc.rdepth.toNat < 65535 ∧ ¬ JumpTarget (sget (wT (deep 65534 66)).sc 7) := ⟨ready _ _ _, by decide, by unfold JumpTarget; decide⟩
theorem witness_BranchesCallsReturns_ret : ScalarReady (wS (deep 1 64)) 0 0 (wT (deep 1 64)) [1] 0 ∧ 0 < (wT (deep 1 64)).sc.rdepth.toNat
    ∧ JumpTarget (sget (wT (deep 1 64)).sc 1) ∧ (wT (deep 1 64)).sc.tdepth = false := ⟨ready _ _ _, by decide, by unfold JumpTarget; decide, rfl⟩
theorem witness_BranchesCallsReturns_empty : ScalarReady (wS (deep 0 64)) 0 0 (wT (deep 0 64)) [1] 0 ∧ (wT (deep 0 64)).sc.rdepth.toNat = 0 := ⟨ready _ _ _, rfl⟩
theorem witness_BranchesCallsReturns_retTarget : ScalarReady (wS (deep 1 66)) 0 0 (wT (deep 1 66)) [1] 0 ∧ 0 < (wT (deep 1 66)).sc.rdepth.toNat
    ∧ ¬ JumpTarget (sget (wT (deep 1 66)).sc 1) := ⟨ready _ _ _, by decide, by unfold JumpTarget; decide⟩

def handler (x : ScalarSide) : ScalarSide := { deep 3 64 x with tdepth := true, entryd := 3 }
theorem witness_TrapHandlerReturn : ScalarReady (wS handler) 0 0 (wT handler) [1] 0 ∧ 0 < (wT handler).sc.rdepth.toNat ∧ JumpTarget (sget (wT handler).sc 1)
    ∧ (wT handler).sc.tdepth = true ∧ (wT handler).sc.rdepth.toNat ≤ (wT handler).sc.entryd.toNat := ⟨ready _ _ _, by decide, by unfold JumpTarget; decide, rfl, by decide⟩

def onPath (n : Nat) (m : Word) (x : ScalarSide) : ScalarSide := { x with sregs := [(7, 5)], path := List.replicate n { mask := m, addr := 64, join := false } }
theorem witness_PathStack_none : ScalarReady (wS (regs [(7, 0)])) 0 0 (wT (regs [(7, 0)])) [7] 0
    ∧ sget (wT (regs [(7, 0)])).sc 7 &&& (wT (regs [(7, 0)])).sc.exec = 0 := ⟨ready _ _ _, by decide⟩
theorem witness_PathStack_push : ScalarReady (wS (onPath 15 5)) 0 0 (wT (onPath 15 5)) [7] 0
    ∧ sget (wT (onPath 15 5)).sc 7 &&& (wT (onPath 15 5)).sc.exec ≠ 0 ∧ (wT (onPath 15 5)).sc.path.length < 16 := ⟨ready _ _ _, by decide, by decide⟩
theorem witness_PathStack_full : ScalarReady (wS (onPath 16 5)) 0 0 (wT (onPath 16 5)) [7] 0
    ∧ sget (wT (onPath 16 5)).sc 7 &&& (wT (onPath 16 5)).sc.exec ≠ 0 ∧ 16 ≤ (wT (onPath 16 5)).sc.path.length := ⟨ready _ _ _, by decide, by decide⟩
theorem witness_PathStack_pop : ScalarReady (wS (onPath 1 5)) 0 0 (wT (onPath 1 5)) [] 0
    ∧ Pops (wT (onPath 1 5)).compat (wT (onPath 1 5)).sc { (wT (onPath 1 5)).sc with path := [], exec := execMask (wT (onPath 1 5)).compat 5, spc := 64 } :=
  ⟨ready _ _ _, [], { mask := 5, addr := 64, join := false }, [], rfl, by unfold PathEntry.empty; decide, by simp, rfl⟩
theorem witness_PathStack_underflow : ScalarReady (wS (onPath 2 0)) 0 0 (wT (onPath 2 0)) [] 0 ∧ ∀ e ∈ (wT (onPath 2 0)).sc.path, e.empty :=
  ⟨ready _ _ _, by intro e h; rw [List.eq_of_mem_replicate h]; exact ⟨rfl, rfl⟩⟩

theorem witness_ControlAndSystemRegisters : ScalarReady (wS id) 0 0 (wT id) [3] 9 ∧ (0x010#12).toNat ∈ readable ∧ (0x006#12).toNat ∉ readable
    ∧ (0x002#12).toNat ≠ 0x000 ∧ (0x002#12).toNat ≠ 0x001 ∧ (0x002#12).toNat ≠ 0x005 := ⟨ready _ _ _, by decide⟩

def full (p : BitVec 8) (x : ScalarSide) : ScalarSide := { x with mfull := 8, mpoison := p, mdata := [(3, 77)] }
theorem witness_MailboxesAndClauses_full : ScalarReady (wS (full 0)) 0 0 (wT (full 0)) [] 9 ∧ (wT (full 0)).sc.mfull.getLsbD 3 = true
    ∧ (wT (full 0)).sc.mpoison.getLsbD 3 = false := ⟨ready _ _ _, rfl, rfl⟩
theorem witness_MailboxesAndClauses_poison : ScalarReady (wS (full 8)) 0 0 (wT (full 8)) [] 9 ∧ (wT (full 8)).sc.mfull.getLsbD 3 = true
    ∧ (wT (full 8)).sc.mpoison.getLsbD 3 = true := ⟨ready _ _ _, rfl, rfl⟩
/-- A strand with `n` clauses queued, their headers unread. -/
def waiting : Queued := { clause := 4, exec := -1, ks := [], seq := 0, region := 1, header := none, remat := false }
def queued (n : Nat) (t : Strand) : Strand := { t with st := { queue := List.replicate n waiting, current := none } }
theorem witness_MailboxesAndClauses_waits : ScalarReady (vS (queued 1)) 0 0 (vT (queued 1)) [] 9 ∧ (vT (queued 1)).sc.mfull.getLsbD 3 = false
    ∧ MayWriteMailbox (vT (queued 1)) 3 := ⟨readyV _ _ _, rfl, .inl ⟨_, List.mem_singleton.2 rfl, by intro h e; cases e⟩⟩
theorem witness_MailboxesAndClauses_underflow : ScalarReady (wS id) 0 0 (wT id) [] 9 ∧ (wT id).sc.mfull.getLsbD 3 = false ∧ ¬ MayWriteMailbox (wT id) 3 :=
  ⟨ready _ _ _, rfl, by rintro (⟨q, h, -⟩ | ⟨r, h, -⟩) <;> cases h⟩
theorem witness_MailboxesAndClauses_lrun : ScalarReady (vS (queued 7)) 0 0 (vT (queued 7)) [] 0 ∧ queueCount (vT (queued 7)) < 8 := ⟨readyV _ _ _, by decide⟩
theorem witness_MailboxesAndClauses_lrunWaits : ScalarReady (vS (queued 8)) 0 0 (vT (queued 8)) [] 0 ∧ 8 ≤ queueCount (vT (queued 8))
    ∧ (vT (queued 8)).st.queue ≠ [] := ⟨readyV _ _ _, by decide, by decide⟩
theorem witness_MailboxesAndClauses_lwait : ScalarReady (wS id) 0 0 (wT id) [] 0 ∧ (wT id).st.queue = [] ∧ (wT id).st.current = none
    ∧ ∀ n, n < 12 → (0xFFF#12).getLsbD n = true → flagCount (wT id) n = 0 := ⟨ready _ _ _, rfl, rfl, fun _ _ _ => rfl⟩

theorem witness_ExitEndsStrand_path : ScalarReady (wS (onPath 1 5)) 0 0 (wT (onPath 1 5)) [] 0 ∧ (wT (onPath 1 5)).sc.path ≠ [] := ⟨ready _ _ _, by decide⟩
theorem witness_ExitEndsStrand_saturation : ScalarReady (wS fun x => { x with trapPend := true }) 0 0 (wT fun x => { x with trapPend := true }) [] 0
    ∧ (wT fun x => { x with trapPend := true }).sc.path = [] ∧ (wT fun x => { x with trapPend := true }).sc.trapPend = true := ⟨ready _ _ _, rfl, rfl⟩
theorem witness_ExitEndsStrand : ScalarReady (wS id) 0 0 (wT id) [] 0 ∧ (wT id).sc.path = [] ∧ (wT id).sc.trapPend = false ∧ (wT id).st.queue = []
    ∧ (wT id).st.current = none := ⟨ready _ _ _, rfl, rfl, rfl, rfl⟩

theorem witness_SoftwareTraps : (wS id).agent = .scalar 0 0 ∧ strandAt (wS id) 0 0 = some (wT id) ∧ (partAt (wS id) 0).brkarm = false := ⟨rfl, rfl, rfl⟩
def armed : State := modPart (wS id) 0 fun x => { x with brkarm := true, dgrid := 1 }
theorem witness_SoftwareTraps_armed : armed.agent = .scalar 0 0 ∧ strandAt armed 0 0 = some (wT id) ∧ (partAt armed (wT id).part).brkarm = true
    ∧ (partAt armed (wT id).part).dgrid.toNat = (wT id).grid := ⟨rfl, rfl, rfl, rfl⟩

/-- An address that the strand's page maps, in register s4. -/
def at64 : ScalarSide → ScalarSide := regs [(2, 128), (3, 128), (4, 64)]
def bytes64 : List Nat := [64, 65, 66, 67, 68, 69, 70, 71]
theorem witness_ScalarLoads : (6#3).toNat ≠ 7 ∧ MemReady (wS at64) 0 0 (wT at64) [4] 9
    ∧ readFault (wS at64) 0 (wT at64) (accessAddr (wT at64).sc 4 0 6) (accessBytes 6) true = .ok bytes64
    ∧ outstanding (wS at64) 0 < 1024 ∧ (5#3).toNat ≤ 5 ∧ (4#3).toNat ≤ 4 :=
  ⟨by decide, memReady _ _ _, rfl, by decide, by decide, by decide⟩
theorem witness_ScalarStores : (6#3).toNat % 2 = 0 ∧ MemReady (wS at64) 0 0 (wT at64) [9, 4] 0
    ∧ writeFault (wS at64) 0 (wT at64) (accessAddr (wT at64).sc 4 0 6) (accessBytes 6) true = .ok bytes64
    ∧ StoreFree (keepFor (wS at64) 0 (wT at64) (accessAddr (wT at64).sc 4 0 6) (accessBytes 6)) 0 (wT at64) bytes64
    ∧ (3#3).toNat ≤ 3 ∧ (1#3).toNat ≤ 4 ∧ ReleaseEnded (wS at64) 0 0 (wT at64) 1 :=
  ⟨by decide, memReady _ _ _, rfl, ⟨rfl, rfl⟩, by decide, by decide, .inr (.inr ⟨by decide, rfl, rfl⟩)⟩
theorem witness_ScalarStores_pqsave : MemReady (wS at64) 0 0 (wT at64) [4] 0 ∧ (sget (wT at64).sc 4).toNat % 16 = 0
    ∧ writeFault (wS at64) 0 (wT at64) (sget (wT at64).sc 4) (16 * ((wT at64).sc.path.length + 1)) false = .ok ((List.range 16).map fun i => 64 + i)
    ∧ StoreFree (keepFor (wS at64) 0 (wT at64) (sget (wT at64).sc 4) 16) 0 (wT at64) ((List.range 16).map fun i => 64 + i) :=
  ⟨memReady _ _ _, rfl, rfl, rfl, rfl⟩
/-- Over an sp of 128. -/
theorem witness_ScalarStores_mark : MemReady (wS at64) 0 0 (wT at64) [2, 3] 2 ∧ scalarReserveShort (wS at64) 0 (wT at64) [2, 3] = false
    ∧ (sget (wT at64).sc 2).toNat % 16 = 0 ∧ (sget (wT at64).sc 3).toNat % 16 = 0
    ∧ writeFault (wS at64) 0 (wT at64) (sget (wT at64).sc 2) 16 false = .ok ((List.range 16).map fun i => 128 + i)
    ∧ StoreFree (keepFor (wS at64) 0 (wT at64) (sget (wT at64).sc 2) 16) 0 (wT at64) ((List.range 16).map fun i => 128 + i) :=
  ⟨memReady _ _ _, by decide +kernel, by decide, by decide, ok_of (by decide +kernel), rfl, by decide +kernel⟩

theorem witness_FencesAndReleases_reserved : (0#2).toNat = 0 ∧ (wS id).agent = .scalar 0 0 ∧ strandAt (wS id) 0 0 = some (wT id) := ⟨rfl, rfl, rfl⟩
def afterRelease (t : Strand) : Strand := { t with sphase := .released }
theorem witness_FencesAndReleases_fence : (3#2).toNat ≠ 0 ∧ (4#3).toNat ≤ 4 ∧ MemReady (vS afterRelease) 0 0 (vT afterRelease) [] 0
    ∧ ReleaseEnded (vS afterRelease) 0 0 (vT afterRelease) 4 ∧ AcquireFree (vS afterRelease) 0 4 :=
  ⟨by decide, by decide, memReadyV _ _ _, .inr (.inl rfl), .inr rfl⟩
theorem witness_FencesAndReleases_begins : 2 ≤ (2#3).toNat ∧ (2#3).toNat ≤ 4 ∧ MemReady (wS id) 0 0 (wT id) [] 0 ∧ (wT id).sphase = .idle
    ∧ quiet (wT id) = true ∧ headRoom (wT id) = true ∧ (∀ b, blockAt (wS id) (wT id).block = some b → dirtyChunks b none = []) ∧ (∀ r, openRegion (wT id) = some r → r.effect = false) :=
  ⟨by decide, by decide, memReady _ _ _, rfl, rfl, by decide +kernel, fun b h => by
    have h2 : blockAt (wS id) (wT id).block = some fetchBlock := rfl
    rw [h2] at h; cases h; rfl, fun r h => by
    have h2 : openRegion (wT id) = some ((openRegion (wT id)).getD (startRegion base baseT)) := rfl
    rw [h2] at h; cases h; rfl⟩

/-- The address of a word of the strand's own scratch area, and of one of its home. -/
def atOwn : ScalarSide → ScalarSide := regs [(4, 0xFF80000000400010), (5, 3)]
theorem witness_Counters_home : (1#3).toNat ≤ 4 ∧ MemReady (wS at64) 0 0 (wT at64) [4, 5] 0
    ∧ counterAt (wS at64) 0 (wT at64) (sget (wT at64).sc 4) .write = .ok (.home 64)
    ∧ ReleaseEnded (keepFor (wS at64) 0 (wT at64) (sget (wT at64).sc 4) 8) 0 0 (wT at64) 1 ∧ (openRegion (wT at64)).isSome
    ∧ (coreOf (wS at64) 0).adds.length < 256 ∧ outstanding (wS at64) 0 < 1024 :=
  ⟨by decide, memReady _ _ _, rfl, .inr (.inr ⟨by decide, rfl, rfl⟩), rfl, by decide, by decide⟩
theorem witness_Counters_own : MemReady (wS atOwn) 0 0 (wT atOwn) [4, 5] 0 ∧ counterAt (wS atOwn) 0 (wT atOwn) (sget (wT atOwn).sc 4) .write = .ok (.own 16)
    ∧ ReleaseEnded (keepFor (wS atOwn) 0 (wT atOwn) (sget (wT atOwn).sc 4) 8) 0 0 (wT atOwn) 1
    ∧ CounterFree (wS atOwn) 0 (wT atOwn) (sget (wT atOwn).sc 4) (.own 16)
    ∧ storeShort (keepFor (wS atOwn) 0 (wT atOwn) (sget (wT atOwn).sc 4) 8) 0 (wT atOwn) (openId (wT atOwn)) (counterLocs (wT atOwn) (.own 16)) = none
    ∧ (blockAt (wS atOwn) (wT atOwn).block).isSome ∧ (areaWord (wS atOwn) (wT atOwn).block 16).toNat + (sget (wT atOwn).sc 5).toNat < 2 ^ 64 :=
  ⟨memReady _ _ _, ok_of (by decide +kernel), .inr (.inr ⟨by decide, rfl, rfl⟩), ⟨by decide +kernel, by decide +kernel⟩, by decide +kernel, rfl, by decide +kernel⟩
/-- An own counter that overflows. -/
def brimming : State := { wS atOwn with blocks := [(1, { fetchBlock with scratch := (List.range 8).map fun i => (16 + i, 0xFF) })] }
theorem witness_Counters_overflow : MemReady brimming 0 0 (wT atOwn) [4, 5] 0 ∧ counterAt brimming 0 (wT atOwn) (sget (wT atOwn).sc 4) .write = .ok (.own 16)
    ∧ ReleaseEnded (keepFor brimming 0 (wT atOwn) (sget (wT atOwn).sc 4) 8) 0 0 (wT atOwn) 1
    ∧ CounterFree brimming 0 (wT atOwn) (sget (wT atOwn).sc 4) (.own 16)
    ∧ storeShort (keepFor brimming 0 (wT atOwn) (sget (wT atOwn).sc 4) 8) 0 (wT atOwn) (openId (wT atOwn)) (counterLocs (wT atOwn) (.own 16)) = none
    ∧ (blockAt brimming (wT atOwn).block).isSome ∧ 2 ^ 64 ≤ (areaWord brimming (wT atOwn).block 16).toNat + (sget (wT atOwn).sc 5).toNat :=
  ⟨(memReady _ _ _).other _ rfl rfl, ok_of (by decide +kernel), .inr (.inr ⟨by decide, rfl, rfl⟩), ⟨by decide +kernel, by decide +kernel⟩, by decide +kernel, rfl, by decide +kernel⟩
/-- A second block of the gang, on core 1, and the address of its meet point 2. -/
def twoBlocks : State := { wS (regs [(4, 0xFF80000000100010), (5, 3)]) with
  blocks := [(1, { fetchBlock with gsize := 2 }), (2, { fetchBlock with core := 1, gidx := 1, gsize := 2, number := 1 })] }
theorem witness_Counters_member : MemReady twoBlocks 0 0 (wT (regs [(4, 0xFF80000000100010), (5, 3)])) [4, 5] 0
    ∧ counterAt twoBlocks 0 (wT (regs [(4, 0xFF80000000100010), (5, 3)])) 0xFF80000000100010 .write = .ok (.member 2 16)
    ∧ ReleaseEnded (keepFor twoBlocks 0 (wT (regs [(4, 0xFF80000000100010), (5, 3)])) 0xFF80000000100010 8) 0 0 (wT (regs [(4, 0xFF80000000100010), (5, 3)])) 1
    ∧ CounterFree twoBlocks 0 (wT (regs [(4, 0xFF80000000100010), (5, 3)])) 0xFF80000000100010 (.member 2 16) ∧ hwbUsed twoBlocks 0 < 64 :=
  ⟨(memReady _ _ _).other _ rfl rfl, ok_of (by decide +kernel), .inr (.inr ⟨by decide, rfl, rfl⟩), ⟨by decide +kernel, by decide +kernel⟩, by decide +kernel⟩
theorem witness_Counters_read : MemReady (wS at64) 0 0 (wT at64) [4] 9 ∧ counterAt (wS at64) 0 (wT at64) (sget (wT at64).sc 4) .read = .ok (.home 64)
    ∧ CounterRead (wS at64) (wT at64) (.home 64) := ⟨memReady _ _ _, rfl, by decide +kernel, by decide +kernel⟩
theorem witness_Counters_waitZero : (2#3).toNat ≤ 4 ∧ MemReady (wS at64) 0 0 (wT at64) [4, 5] 0 ∧ counterAt (wS at64) 0 (wT at64) (sget (wT at64).sc 4) .read = .ok (.home 64)
    ∧ CounterFree (wS at64) 0 (wT at64) (sget (wT at64).sc 4) (.home 64) ∧ (wT at64).sc.trapPend = false ∧ AcquireFree (wS at64) 0 2 ∧ sget (wT at64).sc 5 = 0 :=
  ⟨by decide, memReady _ _ _, rfl, ⟨by decide +kernel, by decide +kernel⟩, rfl, .inr rfl, rfl⟩
/-- A wait whose head has been taken, on a counter that has reached its target. -/
def atHead (t : Strand) : Strand := { t with sphase := .headed, sc := { t.sc with sregs := [(4, 64), (5, 1)] } }
def counted : State := { vS atHead with mem := [(64, 1)] }
theorem witness_Counters_wait : (2#3).toNat ≤ 4 ∧ MemReady counted 0 0 (vT atHead) [4, 5] 0 ∧ counterAt counted 0 (vT atHead) (sget (vT atHead).sc 4) .read = .ok (.home 64)
    ∧ CounterFree counted 0 (vT atHead) (sget (vT atHead).sc 4) (.home 64) ∧ (vT atHead).sc.trapPend = false ∧ AcquireFree counted 0 2 ∧ (vT atHead).sphase = .headed
    ∧ (sget (vT atHead).sc 5).toNat ≤ (counterValue counted 0 2 (.home 64) 1).toNat :=
  ⟨by decide, (memReadyV _ _ _).other _ rfl rfl, rfl, ⟨by decide +kernel, by decide +kernel⟩, rfl, .inr rfl, rfl, by decide +kernel⟩
theorem witness_Counters_meet : MemReady (wS id) 0 0 (wT id) [9] 0 ∧ blockAt (wS id) (wT id).block = some fetchBlock ∧ 128 ≤ fetchBlock.area
    ∧ (wT id).sc.trapPend = false ∧ (sget (wT id).sc 9).toNat ≤ (areaWord (wS id) (wT id).block (8 * (15#4).toNat)).toNat :=
  ⟨memReady _ _ _, rfl, by decide, rfl, by decide +kernel⟩

/-- The arguments of a copy of 4 KiB from 64, to 64 KiB, in s20 to s25, with its counter at 128. -/
def copyRegs : ScalarSide → ScalarSide := regs [(4, 64), (5, 65536), (20, 4096), (21, 128), (22, 1)]
theorem witness_CopyIssue : (20#7).toNat + 3 ≤ 128 ∧ MemReady (wS copyRegs) 0 0 (wT copyRegs) [5, 4, 20, 21, 22] 0
    ∧ copyArgsOk { src := 64, dst := 65536, rowb := 4096, rows := 1, sstr := 0, dstr := 0, ctr := 128, amt := 1 } = true ∧ copyQueue (wS copyRegs) (wT copyRegs) < 32 :=
  ⟨by decide, memReady _ _ _, by decide +kernel, by decide +kernel⟩
theorem witness_CopyIssue_format : copyArgsOk { src := 64, dst := 65536, rowb := 4096, rows := 1, sstr := 0, dstr := 0, ctr := 129, amt := 1 } = false
    ∧ rowsOk { src := 64, dst := 65536, rowb := 0, rows := 1, sstr := 0, dstr := 0, ctr := 128, amt := 1 } = false := by decide +kernel
def copyRegs2 : ScalarSide → ScalarSide := regs [(4, 64), (5, 65536), (122, 4096), (123, 2), (124, 4096), (125, 4096), (126, 128), (127, 1)]
theorem witness_CopyIssue_rows : (122#7).toNat + 6 ≤ 128 ∧ MemReady (wS copyRegs2) 0 0 (wT copyRegs2) [5, 4, 122, 123, 124, 125, 126, 127] 0
    ∧ rowsOk { src := 64, dst := 65536, rowb := 4096, rows := 2, sstr := 4096, dstr := 4096, ctr := 128, amt := 1 } = true
    ∧ copyArgsOk { src := 64, dst := 65536, rowb := 4096, rows := 2, sstr := 4096, dstr := 4096, ctr := 128, amt := 1 } = true ∧ copyQueue (wS copyRegs2) (wT copyRegs2) < 32 :=
  ⟨by decide, memReady _ _ _, by decide +kernel, by decide +kernel, by decide +kernel⟩
def withBatch (t : Strand) : Strand := { t with batches := [{ number := 0, copies := [9], sealed := false, reg := 0, region := 1, token := none, read := false }] }
theorem witness_CopyIssue_seal : ScalarReady (vS withBatch) 0 0 (vT withBatch) [] 9 ∧ (∃ b ∈ (vT withBatch).batches, b.sealed = false)
    ∧ (∀ b ∈ (vT withBatch).batches, b.sealed = false → b.copies ≠ []) ∧ ∀ b ∈ (vT withBatch).batches, b.number ≠ (vT withBatch).nextBatch :=
  ⟨readyV _ _ _, by decide, by decide, by decide⟩

/-- A block with two windows granted, the first mapped over its chunk 1. -/
def mapped : Block := { fetchBlock with windows := 2, wins := [(0, { gbase := 8, mode := 1, valid := true, schunk := 1, nchunk := 1 })] }
def winRegs : ScalarSide → ScalarSide := regs [(4, 8192), (5, 512), (6, 2)]
def inWindows : State := { wS winRegs with blocks := [(1, mapped)] }
theorem witness_Windows_map : (2#2).toNat ≠ 3 ∧ (5#7).toNat + 2 ≤ 128 ∧ ScalarReady inWindows 0 0 (wT winRegs) [4, 5, 6] 9
    ∧ blockAt inWindows 1 = some mapped ∧ freeWindow mapped = some 1 ∧ canonical 8192 = true ∧ windowOk mapped 8192 512 2 = true ∧ 1 ≤ undoFree (coreOf inWindows 0) :=
  ⟨by decide, by decide, ((memReady winRegs _ _).other inWindows rfl rfl).ready, rfl, by decide +kernel, by decide +kernel, by decide +kernel, by decide +kernel⟩
theorem witness_Windows_named : MemReady inWindows 0 0 (wT winRegs) [9] 0 ∧ blockAt inWindows 1 = some mapped
    ∧ namedWindow inWindows (wT winRegs) 9 = some (0, { gbase := 8, mode := 1, valid := true, schunk := 1, nchunk := 1 })
    ∧ dirtyChunks mapped (some 0) = [] ∧ 1 ≤ undoFree (coreOf inWindows 0) ∧ mapped.chunks.length ≤ undoFree (coreOf inWindows 0) :=
  ⟨(memReady winRegs _ _).other inWindows rfl rfl, rfl, by decide +kernel, by decide +kernel, by decide +kernel, by decide +kernel⟩
theorem witness_Windows_fault : ScalarReady inWindows 0 0 (wT winRegs) [6] 0
    ∧ namedWindow inWindows (wT winRegs) 6 = none := ⟨((memReady winRegs _ _).other inWindows rfl rfl).ready, by decide +kernel⟩
/-- The same block with one dirty byte in chunk 1, over a page that maps it. -/
def dirtied : Block := { mapped with chunks := [(1, { Chunk.reset with wvalid := 1, wdirty := 1 })] }
def dirtyWindows : State := { wS winRegs with blocks := [(1, dirtied)] }
theorem witness_Windows_dirty : MemReady dirtyWindows 0 0 (wT winRegs) [9] 0 ∧ blockAt dirtyWindows 1 = some dirtied
    ∧ namedWindow dirtyWindows (wT winRegs) 9 = some (0, { gbase := 8, mode := 1, valid := true, schunk := 1, nchunk := 1 })
    ∧ (openRegion (wT winRegs)).isSome
    ∧ (∀ v ch, DirtyChunk dirtied 0 v ch → ∃ pa, chunkPhysical dirtyWindows 0 (wT winRegs).part v ch .write = .ok pa)
    ∧ (dirtyChunks dirtied (some 0)).length ≤ undoFree (coreOf dirtyWindows 0) ∧ 1 ≤ undoFree (coreOf dirtyWindows 0) ∧ dirtyChunks dirtied (some 0) ≠ [] :=
  ⟨(memReady winRegs _ _).other dirtyWindows rfl rfl, rfl, by decide +kernel, rfl, fun v ch h => ⟨1024, by
    obtain ⟨h1, -, h2, h3, -⟩ := h
    rcases List.mem_singleton.1 h1 with h4
    cases h4
    have h5 : ch = 1 := Nat.le_antisymm (by exact Nat.le_of_lt_succ h3) h2
    subst h5
    exact ok_of (by decide +kernel)⟩, by decide +kernel, by decide +kernel, by decide +kernel⟩

/-- A `region` at 4 names the recipe at 32, whose bytes are 0; with a reserved bit set it is none. -/
theorem witness_RegionHead : ScalarReady (wS id) 0 0 (wT id) [] 0 ∧ (wT id).regions.length < 4 ∧ recipeOwned (wS id) 0 (wT id) 7 = false
    ∧ recipeOf (wS id) 0 (wT id) 7 = .ok { slive := 0, plive := 0, ilive := 0, remv := false, remat := 0, ranges := [] } := ⟨ready _ _ _, by decide, by decide +kernel, ok_of (by decide +kernel)⟩
def reservedRecipe : State := { wS id with mem := [(32, 1)] }
theorem witness_RegionHead_reserved : ScalarReady reservedRecipe 0 0 (wT id) [] 0 ∧ recipeOf reservedRecipe 0 (wT id) 7 = .error (0x02, 0x03, 0) :=
  ⟨((memReady id _ _).other reservedRecipe rfl rfl).ready, err_of (by decide +kernel)⟩
/-- An implicit region at whose head an explicit one is taken up again. -/
def resuming (t : Strand) : Strand := { t with regions := t.regions.map fun r => { r with explicit := false, resumed := true } }
theorem witness_RegionHead_resumed : ScalarReady (vS resuming) 0 0 (vT resuming) [] 0 ∧ (openRegion (vT resuming)).any (fun r => r.resumed && !r.explicit) = true
    ∧ recipeOf (vS resuming) 0 (vT resuming) 7 = .ok { slive := 0, plive := 0, ilive := 0, remv := false, remat := 0, ranges := [] } :=
  ⟨readyV _ _ _, rfl, ok_of (by decide +kernel)⟩
def fourRegions (t : Strand) : Strand := { t with regions := t.regions ++ t.regions ++ t.regions ++ t.regions }
theorem witness_RegionHead_waits : ScalarReady (vS fourRegions) 0 0 (vT fourRegions) [] 0 ∧ 4 ≤ (vT fourRegions).regions.length := ⟨readyV _ _ _, by decide +kernel⟩

theorem witness_AtomicsClose : MemReady (wS id) 0 0 (wT id) [4] 0 ∧ (wT id).sphase = .idle ∧ (wT id).st.queue = [] ∧ (wT id).st.current = none :=
  ⟨memReady _ _ _, rfl, rfl, rfl⟩
theorem witness_AtomicsClose_waits : MemReady (vS (queued 1)) 0 0 (vT (queued 1)) [4] 0 ∧ (vT (queued 1)).sphase = .idle ∧ (vT (queued 1)).st.queue ≠ [] :=
  ⟨memReadyV _ _ _, rfl, by decide +kernel⟩

/-- Three finished lanes, and three items for them. -/
def finished (t : Strand) : Strand := atomicT { t with ln := { t.ln with preds := [(5, 7)] } }
def withItems (l : List W32) : State := modCore (vS finished) 0 fun k => { k with items := l, itemGrid := some (0, 1) }
theorem witness_LaunchesAndItems_items : (5#5).toNat ≠ 0 ∧ (5#5).toNat ≤ 23 ∧ (767#10).toNat < 32 * (vT finished).vblk ∧ (767#10).toNat ≤ 767
    ∧ (∀ e ∈ (vT finished).vpend, e.1 ≠ 767) ∧ Performing (withItems [1, 2, 3]) 0 0 (vT finished) [] 0 ∧ (vT finished).sc.mfull.getLsbD 1 = false
    ∧ (finishedLanes (vT finished) 5).length ≤ (heldItems (withItems [1, 2, 3]) 0 (vT finished)).length :=
  ⟨by decide, by decide, by decide, by decide, by decide, (performing finished _ _).other _ rfl rfl, rfl, by decide +kernel⟩
theorem witness_LaunchesAndItems_short : (finishedLanes (vT finished) 5).length = 3 ∧ itemsRemain (putCore (withItems [1]) 0
    { coreOf (withItems [1]) 0 with items := [] }) 0 1 = false := by decide +kernel
/-- One item here, and another on core 1: the two lanes behind wait. -/
def sharedItems : State := modCore (withItems [1]) 1 fun k => { k with items := [9], itemGrid := some (0, 1) }
theorem witness_LaunchesAndItems_waits : Performing sharedItems 0 0 (vT finished) [] 0 ∧ (heldItems sharedItems 0 (vT finished)).length < (finishedLanes (vT finished) 5).length
    ∧ itemsRemain (putCore sharedItems 0 { coreOf sharedItems 0 with items := [] }) 0 1 = true :=
  ⟨(performing finished _ _).other _ rfl rfl, by decide +kernel, by decide +kernel⟩

def launcher : ScalarSide → ScalarSide := regs [(2, 144), (3, 128), (4, 256), (5, 65536)]
def performer (t : Strand) : Strand := atomicT { t with sc := launcher t.sc }
def later : State := { vS performer with now := 1 }
theorem witness_LaunchesAndItems_launch : Performing later 0 0 (vT performer) [4] 9 ∧ releaseDone later 0 0 (vT performer) = true
    ∧ launchWait later 0 (vT performer) (sget (vT performer).sc 4) = none
    ∧ launchChecks later 0 (vT performer) (sget (vT performer).sc 4) = .ok (recordStatus (partAt later 0) 0 none, 0)
    ∧ outranked later 0 (parseRecord 0).queue 4 = false :=
  ⟨(performing performer _ _).other _ rfl rfl, by decide +kernel, by decide +kernel, ok_of (by decide +kernel), by decide +kernel⟩
theorem witness_LaunchesAndItems_checks : launchChecks later 0 { vT performer with number := 1 } 256 = .ok (5, 0)
    ∧ launchChecks later 0 { vT performer with depth := 10 } 256 = .ok (1, 0) ∧ launchChecks later 0 (vT performer) 257 = .ok (4, 0) := ⟨rfl, rfl, rfl⟩

theorem witness_ClaimsAndCollectives_claim : Performing (vS performer) 0 0 (vT performer) [9, 5] 0 ∧ mget (vS performer).claims (skey 0 0) = none
    ∧ (sget (vT performer).sc 9).toNat % 65536 = 0 ∧ (sget (vT performer).sc 5).toNat % 65536 = 0
    ∧ claimFrames (vS performer) 0 (vT performer).part 0 1 = .ok [0] ∧ frameBusy (vS performer) [0] = false
    ∧ movedBefore (vS performer) (vS performer).nextId [0] = false ∧ claimedBefore (vS performer) (vS performer).nextId [0] = false :=
  ⟨performing _ _ _, rfl, by decide, by decide, rfl, by decide +kernel, by decide +kernel, by decide +kernel⟩
/-- Another strand's claim of the same frame, registered before. -/
def behindClaim : State := { vS performer with claims := [(skey 0 1, { order := 0, frames := [0] })], nextId := 5 }
theorem witness_ClaimsAndCollectives_waiting : Performing behindClaim 0 0 (vT performer) [9, 5] 0 ∧ mget behindClaim.claims (skey 0 0) = none
    ∧ claimFrames behindClaim 0 (vT performer).part 0 1 = .ok [0] ∧ claimedBefore behindClaim behindClaim.nextId [0] = true :=
  ⟨(performing performer _ _).other _ rfl rfl, rfl, rfl, by decide +kernel⟩
def ownClaim : State := { vS performer with claims := [(skey 0 0, { order := 0, frames := [0] })], nextId := 5 }
theorem witness_ClaimsAndCollectives_registered : Performing ownClaim 0 0 (vT performer) [9, 5] 0
    ∧ mget ownClaim.claims (skey 0 0) = some { order := 0, frames := [0] } ∧ frameBusy ownClaim [0] = false
    ∧ movedBefore ownClaim 0 [0] = false ∧ claimedBefore ownClaim 0 [0] = false :=
  ⟨(performing performer _ _).other _ rfl rfl, rfl, by decide +kernel, by decide +kernel, by decide +kernel⟩
theorem witness_ClaimsAndCollectives_misaligned : Performing (vS performer) 0 0 (vT performer) [4, 5] 0 ∧ mget (vS performer).claims (skey 0 0) = none
    ∧ (sget (vT performer).sc 4).toNat % 65536 ≠ 0 := ⟨performing _ _ _, rfl, by decide⟩
theorem witness_ClaimsAndCollectives_collective : Performing later 0 0 (vT performer) [4] 9 ∧ releaseDone later 0 0 (vT performer) = true
    ∧ (sget (vT performer).sc 4).toNat % 64 = 0 ∧ readFault later 0 (vT performer) (sget (vT performer).sc 4) 64 false = .ok ((List.range 64).map fun i => 256 + i)
    ∧ copyWait later (vT performer) ((List.range 64).map fun i => 256 + i) = none ∧ homePoisoned later ((List.range 64).map fun i => 256 + i) = false :=
  ⟨(performing performer _ _).other _ rfl rfl, by decide +kernel, by decide, ok_of (by decide +kernel), by decide +kernel, by decide +kernel⟩
/-- Channel 3 belongs to the partition; a descriptor that adds 64 elements over group 2 in attempt 7 stands at 256. -/
def submitS (l : FMap Byte) (g : Group) (ch : Channel) : State :=
  modPart { later with mem := l, groups := [(2, g)], channels := [(3, ch)] } 0 fun x => { x with record := (List.range 16).map fun i => (i, if i = 11 then 0xFFFFFFFFFFFF0008 else -1) }
def group2 : Group := { Group.reset with owner := 0, ranks := 2, attempt := 7 }
def reduction : FMap Byte := [(258, 2), (260, 7), (280, 64)]
def descWord (s : State) : Nat := leNat (((List.range 64).map fun i => 256 + i).map fun x => if isScratch x then seenByte s 0 (vT performer) x else homeByte s x)
theorem collectiveReady (l : FMap Byte) (g : Group) (ch : Channel) (h : homePoisoned (submitS l g ch) ((List.range 64).map fun i => 256 + i) = false := by decide +kernel)
    (h2 : releaseDone (submitS l g ch) 0 0 (vT performer) = true := by decide +kernel)
    (h3 : isOk (readFault (submitS l g ch) 0 (vT performer) 256 64 false) ((List.range 64).map fun i => 256 + i) = true := by decide +kernel)
    (h4 : copyWait (submitS l g ch) (vT performer) ((List.range 64).map fun i => 256 + i) = none := by decide +kernel) :
    Performing (submitS l g ch) 0 0 (vT performer) [4] 9 ∧ releaseDone (submitS l g ch) 0 0 (vT performer) = true ∧ sget (vT performer).sc 4 = 256
      ∧ readFault (submitS l g ch) 0 (vT performer) 256 64 false = .ok ((List.range 64).map fun i => 256 + i)
      ∧ copyWait (submitS l g ch) (vT performer) ((List.range 64).map fun i => 256 + i) = none ∧ homePoisoned (submitS l g ch) ((List.range 64).map fun i => 256 + i) = false :=
  ⟨(performing performer _ _).other _ rfl rfl, h2, rfl, ok_of h3, h4, h⟩
/-- Status 4: a partition with no channel. -/
theorem witness_ClaimsAndCollectives_none : channelFor { later with parts := [(0, { partAt later 0 with record := [] })] } { partAt later 0 with record := [] } = none := by decide +kernel
/-- Status 0: an idle channel and a legal descriptor of the group's attempt. -/
def takenColl : State := submitS reduction group2 Channel.reset
theorem witness_ClaimsAndCollectives_accepted : (Performing takenColl 0 0 (vT performer) [4] 9 ∧ releaseDone takenColl 0 0 (vT performer) = true
      ∧ sget (vT performer).sc 4 = 256 ∧ readFault takenColl 0 (vT performer) 256 64 false = .ok ((List.range 64).map fun i => 256 + i)
      ∧ copyWait takenColl (vT performer) ((List.range 64).map fun i => 256 + i) = none ∧ homePoisoned takenColl ((List.range 64).map fun i => 256 + i) = false)
    ∧ channelFor takenColl (partAt takenColl 0) = some 3 ∧ ¬ Config.channelRoom < (mgetD takenColl.channels 3 Channel.reset).descs.length
    ∧ DescLegal (descWord takenColl) group2.ranks ∧ bits (descWord takenColl) 31 16 = 2 ∧ group2.attempt.toNat ≤ bits (descWord takenColl) 63 32 ∧ group2.owner = (vT performer).part :=
  ⟨collectiveReady _ _ _, by decide +kernel, Nat.not_lt_zero _, by unfold DescLegal; decide +kernel, by decide +kernel, by decide +kernel, rfl⟩
/-- Statuses 4, 3 and 2: another owner's group, an older attempt, and a reserved bit. -/
theorem witness_ClaimsAndCollectives_refused : channelFor (submitS reduction { group2 with owner := 1 } Channel.reset) (partAt (submitS reduction { group2 with owner := 1 } Channel.reset) 0) = some 3
    ∧ ({ group2 with owner := 1 } : Group).owner ≠ (vT performer).part ∧ bits (descWord takenColl) 63 32 < ({ group2 with attempt := 8 } : Group).attempt.toNat
    ∧ ¬ DescLegal (descWord (submitS ((257, 0x10) :: reduction) group2 Channel.reset)) 2 ∧ releaseDone (submitS ((257, 0x10) :: reduction) group2 Channel.reset) 0 0 (vT performer) = true :=
  ⟨by decide +kernel, by decide, by decide +kernel, by unfold DescLegal; decide +kernel, by decide +kernel⟩
/-- Status 1: a channel with more descriptors than its queue holds. -/
def aDesc : CollDesc := { part := 0, grid := 1, acct := 0, op := 0, dtype := 0, group := 2, attempt := 7, src := 0, dst := 0, count := 1, ctr := 0, amt := 0, root := 0, doneN := 0, gwct := 0, aborted := false, raised := [] }
def crowded : Channel := { Channel.reset with descs := List.replicate (Config.channelRoom + 1) aDesc }
theorem witness_ClaimsAndCollectives_full : Config.channelRoom < (mgetD (submitS reduction group2 crowded).channels 3 Channel.reset).descs.length ∧ Performing (submitS reduction group2 crowded) 0 0 (vT performer) [4] 9 :=
  ⟨by have h : mgetD (submitS reduction group2 crowded).channels 3 Channel.reset = crowded := rfl
      rw [h]; simp [crowded], (performing performer _ _).other _ rfl rfl⟩

/-- A grid whose slot 0 holds a slice of 48 bytes. -/
def oneSlice (ready : Bool) : SliceRec := { SliceRec.reset with gen := 7, valid := true, ready := ready, tag := 5, nbytes := 48, nframes := 1, exec := -1, refs := 1 }
def sliceGrid (l : FMap SliceRec) : Grid := { fetchGrid with record := { fetchRecord with nslice := 1 }, slices := l, pool := 65536 }
def withGrid (s : State) (g : Grid) : State := modPart s 0 fun x => { x with grids := [g] }
def sinfoS : State := withGrid (wS (regs [(4, handleOf 0 7 1)])) (sliceGrid [(0, oneSlice true)])
theorem witness_ControlAndSystemRegisters_sinfo : ScalarReady sinfoS 0 0 (wT (regs [(4, handleOf 0 7 1)])) [4] 9 ∧ gridAt sinfoS 0 1 = some (sliceGrid [(0, oneSlice true)])
    ∧ liveSlot (sliceGrid [(0, oneSlice true)]) (handleOf 0 7 1) = some 0 ∧ liveSlot (sliceGrid [(0, oneSlice true)]) 0 = none :=
  ⟨((memReady (regs [(4, handleOf 0 7 1)]) _ _).other sinfoS rfl rfl).ready, rfl, by decide +kernel, by decide +kernel⟩
/-- A mark with tag 5 at 128, and a frame of 48 bytes above it. -/
def cutter (t : Strand) : Strand := atomicT { t with sc := { t.sc with sregs := [(2, 192), (3, 144)], rdepth := 1 } }
def cutS : State := { withGrid (vS cutter) (sliceGrid []) with
  mem := [(128, 0x12), (130, 5), (136, 64), (144, 0x31), (148, 0xF0), (149, 0xFF), (150, 0xFF), (151, 0xFF)] }
def cutFrame : StackRec := { kind := 1, size := 3, prev := -16, tag := 0, resume := 0, smask := 0, lfirst := 0, lcount := 0, cutd := 0 }
theorem witness_SliceInstructions_cut : (9#7).toNat ≠ 0 ∧ Performing cutS 0 0 (vT cutter) [2, 3] 9 ∧ (vT cutter).vpend = [] ∧ gridAt cutS 0 1 = some (sliceGrid [])
    ∧ (vT cutter).sc.path = [] ∧ (sget (vT cutter).sc 2).toNat % 16 = 0 ∧ (sget (vT cutter).sc 3).toNat % 16 = 0
    ∧ walkStack cutS 0 (vT cutter) 5 4200 (sget (vT cutter).sc 3) [] = .ok { base := 128, resume := 64, lifted := [cutFrame] }
    ∧ cutChecks (sliceGrid []) (vT cutter) { base := 128, resume := 64, lifted := [cutFrame] } = .ok (some (0, cutFrame))
    ∧ viewBytes cutS 0 (vT cutter) 144 48 = .ok ((List.range 48).map fun i => memByte cutS.mem (144 + i))
    ∧ poolLocs cutS 0 (vT cutter) (sliceGrid []) 0 64 48 .write = .ok ((List.range 48).map fun i => 65600 + i) ∧ FrameSound (vT cutter) cutFrame :=
  ⟨by decide, (performing cutter _ _).other _ rfl rfl, rfl, rfl, rfl, by decide, by decide, ok_of (by decide +kernel), ok_of (by decide +kernel), ok_of (by decide +kernel), ok_of (by decide +kernel),
    ⟨fun r h => (List.not_mem_nil ((show maskRegs cutFrame.smask = [] by decide +kernel) ▸ h)).elim, by decide +kernel⟩⟩
/-- A slice image of one frame at 65,600, whose top frame names s9 for the value of the `graft`. -/
def grafter (t : Strand) : Strand := { t with grafting := some 0, sc := { t.sc with sregs := [(2, 128), (3, 128), (4, handleOf 0 7 1)] } }
def graftS : State := { withGrid (vS grafter) (sliceGrid [(0, oneSlice true)]) with mem := [(65600, 0x39), (65602, 9), (65632, 64)] }
theorem witness_SliceInstructions_graft : MemReady graftS 0 0 (vT grafter) [4, 5, 2, 3] 0 ∧ (vT grafter).st.queue = [] ∧ (vT grafter).st.current = none
    ∧ (vT grafter).vpend = [] ∧ gridAt graftS 0 1 = some (sliceGrid [(0, oneSlice true)]) ∧ (vT grafter).grafting = some 0
    ∧ (sliceAt (sliceGrid [(0, oneSlice true)]) 0).ready = true
    ∧ graftRead graftS 0 (vT grafter) (sliceGrid [(0, oneSlice true)]) 0 = .ok ((List.range 48).map fun i => memByte graftS.mem (65600 + i),
        { cutFrame with prev := 0, resume := 64, cutd := 9 }, (List.range 48).map fun i => 128 + i)
    ∧ Referenced graftS 0 0 (vT grafter) 0 = graftS ∧ hostOwned graftS (graftLocs graftS 0 (vT grafter) (sliceGrid [(0, oneSlice true)]) 0) = false ∧ loadOrder (vT grafter) true ((List.range 48).map fun i => 128 + i) = false
    ∧ storeNeeds graftS 0 (vT grafter) (openId (vT grafter)) ((List.range 48).map fun i => 128 + i) = none
    ∧ laneUnits graftS 0 + (graftLanes (vT grafter) { cutFrame with prev := 0, resume := 64, cutd := 9 }).length ≤ 4096 ∧ (openRegion (vT grafter)).isSome
    ∧ (∀ r, loadPending (vT grafter) r = false) ∧ (vT grafter).tpend = [] ∧ scalarReserveShort graftS 0 (vT grafter) [9, 2, 3] = false :=
  ⟨(memReadyV grafter _ _).other _ rfl rfl, rfl, rfl, rfl, rfl, rfl, rfl, ok_of (by decide +kernel), rfl, by decide +kernel, rfl, by decide +kernel, by decide +kernel, rfl,
    fun r => by have e : (vT grafter).spend = [] := rfl
                simp [loadPending, e], rfl, by decide +kernel⟩
/-- The same before the instruction has taken its reference. -/
def fresh (t : Strand) : Strand := { grafter t with grafting := none }
def freshS : State := { withGrid (vS fresh) (sliceGrid [(0, oneSlice true)]) with mem := graftS.mem }
theorem witness_SliceInstructions_reference : MemReady freshS 0 0 (vT fresh) [4, 5, 2, 3] 0 ∧ (vT fresh).grafting = none
    ∧ liveSlot (sliceGrid [(0, oneSlice true)]) (sget (vT fresh).sc 4) = some 0
    ∧ graftRead (Referenced freshS 0 0 (vT fresh) 0) 0 (vT fresh) (sliceGrid [(0, oneSlice true)]) 0 = .ok ((List.range 48).map fun i => memByte graftS.mem (65600 + i),
        { cutFrame with prev := 0, resume := 64, cutd := 9 }, (List.range 48).map fun i => 128 + i)
    ∧ hostOwned (Referenced freshS 0 0 (vT fresh) 0) (graftLocs (Referenced freshS 0 0 (vT fresh) 0) 0 (vT fresh) (sliceGrid [(0, oneSlice true)]) 0) = false
    ∧ storeNeeds (Referenced freshS 0 0 (vT fresh) 0) 0 (vT fresh) (openId (vT fresh)) ((List.range 48).map fun i => 128 + i) = none :=
  ⟨(memReadyV fresh _ _).other _ rfl rfl, rfl, by decide +kernel, ok_of (by decide +kernel), by decide +kernel, by decide +kernel⟩
def freer (t : Strand) : Strand := atomicT { t with sc := { t.sc with sregs := [(4, handleOf 0 7 1)] } }
def freeS : State := withGrid (vS freer) (sliceGrid [(0, oneSlice true)])
theorem witness_AtomicsClose_sfree : Performing freeS 0 0 (vT freer) [4] 0 ∧ gridAt freeS 0 1 = some (sliceGrid [(0, oneSlice true)])
    ∧ liveSlot (sliceGrid [(0, oneSlice true)]) (sget (vT freer).sc 4) = some 0 ∧ (sliceAt (sliceGrid [(0, oneSlice true)]) 0).ready = true :=
  ⟨(performing freer _ _).other _ rfl rfl, rfl, by decide +kernel, rfl⟩

/-- An image of `n` entries at 64. -/
def imageS (n : Byte) : State := { wS at64 with mem := [(64, n)] }
theorem witness_PathStack_load : MemReady (imageS 1) 0 0 (wT at64) [4] 0 ∧ (sget (wT at64).sc 4).toNat % 16 = 0 ∧ (wT at64).sc.path = []
    ∧ readFault (imageS 1) 0 (wT at64) 64 16 false = .ok ((List.range 16).map fun i => 64 + i) ∧ readWait (imageS 1) 0 (wT at64) ((List.range 16).map fun i => 64 + i) = none
    ∧ leNat (((List.range 16).map fun i => 64 + i).map (seenByte (imageS 1) 0 (wT at64))) = 1
    ∧ readFault (imageS 1) 0 (wT at64) 80 16 false = .ok ((List.range 16).map fun i => 80 + i) ∧ readWait (imageS 1) 0 (wT at64) ((List.range 16).map fun i => 80 + i) = none
    ∧ readEntries 1 (((List.range 16).map fun i => 80 + i).map (seenByte (imageS 1) 0 (wT at64))) = some [{ mask := 0, addr := 0, join := false }] :=
  ⟨(memReady at64 _ _).other (imageS 1) rfl rfl, by decide, rfl, ok_of (by decide +kernel), by decide +kernel, by decide +kernel, ok_of (by decide +kernel), by decide +kernel, by decide +kernel⟩
theorem witness_PathStack_loadEdges : leNat (((List.range 16).map fun i => 64 + i).map (seenByte (imageS 0) 0 (wT at64))) = 0
    ∧ leNat (((List.range 16).map fun i => 64 + i).map (seenByte (imageS 17) 0 (wT at64))) = 17
    ∧ readFault (imageS 17) 0 (wT at64) 64 16 false = .ok ((List.range 16).map fun i => 64 + i) := ⟨by decide +kernel, by decide +kernel, ok_of (by decide +kernel)⟩
theorem witness_PathStack_loadFull : MemReady (wS (onPath 1 5)) 0 0 (wT (onPath 1 5)) [9] 0 ∧ (sget (wT (onPath 1 5)).sc 9).toNat % 16 = 0
    ∧ (wT (onPath 1 5)).sc.path ≠ [] := ⟨memReady _ _ _, by decide, by decide⟩
/-- One entry whose bit 1 is set, and an image at an address that is no multiple of 16. -/
def reservedImage : State := { wS at64 with mem := [(64, 1), (80, 2)] }
theorem witness_PathStack_loadReserved : MemReady reservedImage 0 0 (wT at64) [4] 0 ∧ readFault reservedImage 0 (wT at64) 64 16 false = .ok ((List.range 16).map fun i => 64 + i)
    ∧ readWait reservedImage 0 (wT at64) ((List.range 16).map fun i => 64 + i) = none ∧ leNat (((List.range 16).map fun i => 64 + i).map (seenByte reservedImage 0 (wT at64))) = 1
    ∧ readFault reservedImage 0 (wT at64) 80 16 false = .ok ((List.range 16).map fun i => 80 + i) ∧ readWait reservedImage 0 (wT at64) ((List.range 16).map fun i => 80 + i) = none
    ∧ (leNat (((((List.range 16).map fun i => 80 + i).map (seenByte reservedImage 0 (wT at64))).drop (16 * 0)).take 8)).testBit 1 = true :=
  ⟨(memReady at64 _ _).other _ rfl rfl, ok_of (by decide +kernel), by decide +kernel, by decide +kernel, ok_of (by decide +kernel), by decide +kernel, by decide +kernel⟩
def at65 : ScalarSide → ScalarSide := regs [(4, 65)]
theorem witness_PathStack_misaligned : MemReady (wS at65) 0 0 (wT at65) [4] 0 ∧ (sget (wT at65).sc 4).toNat % 16 ≠ 0 := ⟨memReady _ _ _, by decide⟩

/-- A griddle that is held: by the strand's block (1) or another. -/
def griddle (s : State) (holder : Nat) (run : Bool) : State := modCore s 0 fun k => { k with griddle := { Griddle.reset with held := true, holder := holder, run := run } }
theorem witness_GriddleControl_mres : ScalarReady (wS id) 0 0 (wT id) [] 9 ∧ (coreOf (wS id) 0).griddle.held = false := ⟨ready _ _ _, rfl⟩
theorem witness_GriddleControl_other : ScalarReady (griddle (wS id) 2 false) 0 0 (wT id) [] 9 ∧ (coreOf (griddle (wS id) 2 false) 0).griddle.held = true
    ∧ (coreOf (griddle (wS id) 2 false) 0).griddle.holder ≠ (wT id).block := ⟨((memReady id _ _).other (griddle (wS id) 2 false) rfl rfl).ready, rfl, by decide +kernel⟩
theorem witness_GriddleControl_mrel : Performing (griddle (vS atomicT) 1 false) 0 0 (vT atomicT) [4] 0 ∧ heldBy (griddle (vS atomicT) 1 false) 0 1 = true
    ∧ (coreOf (griddle (vS atomicT) 1 false) 0).griddle.run = false ∧ (coreOf (griddle (vS atomicT) 1 false) 0).griddle.segs = []
    ∧ liveSegs (coreOf (griddle (vS atomicT) 1 false) 0).griddle < 16 ∧ heldBy (vS atomicT) 0 1 = false ∧ (coreOf (griddle (vS atomicT) 1 true) 0).griddle.run = true :=
  ⟨(performing atomicT _ _).other _ rfl rfl, by decide +kernel, rfl, rfl, by decide +kernel, by decide +kernel, rfl⟩

/-- A source at each range of R50, at its ends, and each modifier. -/
theorem witness_LaneOperandValues : modOf (plainFields 0x00 0 10 0 767 768 0 0) 0 = 0 ∧ fieldOf (plainFields 0x00 0 10 0 767 768 0 0) 1 = 767
    ∧ fieldOf (plainFields 0x00 0 10 0 767 771 0 0) 2 = 771 ∧ fieldOf (plainFields 0x00 0 10 775 784 847 0 255) 0 = 775
    ∧ fieldOf (plainFields 0x00 0 10 775 784 847 0 255) 1 = 784 ∧ fieldOf (plainFields 0x00 0 10 775 784 847 0 255) 2 = 847
    ∧ fieldOf (plainFields 0x20 8 10 848 861 0 0 0) 1 = 861 ∧ typeWidth 6 = 64 ∧ typeWidth 0 ≠ 64 ∧ typeFloat 0 = none ∧ (typeFloat 8).isSome
    ∧ modOf { plainFields 0x20 8 10 4 5 6 0 0 with moda := 3, modb := 2, modc := 1 } 0 = 3
    ∧ modOf { plainFields 0x20 8 10 4 5 6 0 0 with moda := 3, modb := 2, modc := 1 } 2 = 1 := by decide +kernel

theorem witness_LaneIntegers : laneInteger (.vadd (plainFields 0x00 0 767 0 847 0 0 0)) = some (plainFields 0x00 0 767 0 847 0 0 0, 2, true, fun a b _ => a + b)
    ∧ LaneReady (integerUse (plainFields 0x00 0 767 0 847 0 0 0) 2 true) (plainFields 0x00 0 767 0 847 0 0 0) (lS id) 0 0 (laneT id) laneR := ⟨rfl, laneReady _ _ _⟩
/-- With CLAMP 2 and a pair type. -/
theorem witness_LaneIntegers_clamp : LaneReady (integerUse { plainFields 0x00 0 10 4 5 0 0 0 with clamp := 2 } 2 true) { plainFields 0x00 0 10 4 5 0 0 0 with clamp := 2 }
      (lS id) 0 0 (laneT id) laneR
    ∧ LaneReady (integerUse (plainFields 0x00 6 10 4 766 0 0 0) 2 true) (plainFields 0x00 6 10 4 766 0 0 0) (lS id) 0 0 (laneT id) laneR := ⟨laneReady _ _ _, laneReady _ _ _⟩
theorem witness_LaneBits : ∃ u P, laneBits (.vsel (plainFields 0x12 1 10 4 5 0 23 0)) = some (plainFields 0x12 1 10 4 5 0 23 0, u, false, P)
    ∧ LaneReady u (plainFields 0x12 1 10 4 5 0 23 0) (lS id) 0 0 (laneT id) laneR := ⟨_, _, rfl, laneReady _ _ _⟩
theorem witness_LaneFloats : laneFloat (.vffma { plainFields 0x23 8 10 4 5 849 1 0 with scale := 4, clamp := 1 })
      = some ({ plainFields 0x23 8 10 4 5 849 1 0 with scale := 4, clamp := 1 }, 3, true, fun v => Num.add (Num.mul (v 0) (v 1)) (v 2))
    ∧ LaneReady (floatUse 3) { plainFields 0x23 8 10 4 5 849 1 0 with scale := 4, clamp := 1 } (lS id) 0 0 (laneT id) laneR := ⟨rfl, laneReady _ _ _⟩
theorem witness_LaneFloats_mov : LaneReady { srcs := [0], mods := [0], clamp := true, scale := true } (plainFields 0x13 8 10 4 0 0 0 0) (lS id) 0 0 (laneT id) laneR := laneReady _ _ _
theorem witness_LaneFloats_round : LaneReady (floatUse 1) (plainFields 0x2E 9 10 4 0 0 3 0) (lS id) 0 0 (laneT id) laneR
    ∧ LaneReady (floatUse 1) (plainFields 0x2F 8 10 4 0 0 0 0) (lS id) 0 0 (laneT id) laneR
    ∧ LaneReady { srcs := [0] } (plainFields 0x30 10 10 4 0 0 0 0) (lS id) 0 0 (laneT id) laneR := ⟨laneReady _ _ _, laneReady _ _ _, laneReady _ _ _⟩
theorem witness_LanePredicates : ∃ u P, lanePredicate (.vfcmp (plainFields 0x41 8 23 4 5 0 0x27 0)) = some (plainFields 0x41 8 23 4 5 0 0x27 0, u, P)
    ∧ LaneReady u (plainFields 0x41 8 23 4 5 0 0x27 0) (lS id) 0 0 (laneT id) laneR := ⟨_, _, rfl, laneReady _ _ _⟩
theorem witness_LaneDotProducts : LaneReady { srcs := [0, 1, 2], mods := [2], clamp := true } (plainFields 0x50 4 10 4 5 6 0 0) (lS id) 0 0 (laneT id) laneR
    ∧ LaneReady { srcs := [0, 1, 2], mods := [2], clamp := true, scale := true } (plainFields 0x50 12 10 4 5 6 0 0) (lS id) 0 0 (laneT id) laneR
    ∧ LaneReady { srcs := [0, 1, 2], mods := [0, 1, 2], clamp := true, scale := true } (plainFields 0x51 9 10 4 5 6 0 0) (lS id) 0 0 (laneT id) laneR :=
  ⟨laneReady _ _ _, laneReady _ _ _, laneReady _ _ _⟩
/-- Slot 0 of the grid's record holds `v`. -/
def slotted (v : BitVec 128) : State := { lS id with parts := (lS id).parts.map fun e => (e.1, { e.2 with grids := e.2.grids.map fun g => { g with record := { g.record with slots := [v] } } }) }
/-- E4M3 with a scale of kind E8M0. -/
theorem witness_LaneConversions_dec : laneSlot (slotted 0x43) (laneT id) (plainFields 0x52 8 10 4 5 0 6 0) = 0x43
    ∧ slotKind 0x43 = 1 ∧ fmtWidth (slotFmt 0x43) = 8 ∧ LaneReady { srcs := [0, 1], legal := decide (3 < 4) } (plainFields 0x52 8 10 4 5 0 6 0) (slotted 0x43) 0 0 (laneT id) laneR :=
  ⟨by decide +kernel, by decide +kernel, by decide +kernel, (laneReady _ _ _).other _⟩
theorem witness_LaneConversions_enc : LaneReady { srcs := [0, 1], mods := [0], keeps := true, legal := slotFmt 0x43 != 6 && decide (3 < 4) }
    (plainFields 0x52 8 10 4 5 0 7 0) (slotted 0x43) 0 0 (laneT id) laneR := (laneReady _ _ _).other _
theorem witness_LaneConversions_pack : LaneReady { srcs := [0, 1, 2], mods := [0, 1], keeps := true, legal := slotFmt 0x43 != 0 && decide (2 * 1 < 4) }
    (plainFields 0x53 8 10 4 5 6 1 0) (slotted 0x43) 0 0 (laneT id) laneR := (laneReady _ _ _).other _
/-- The quantized format. -/
theorem witness_LaneConversions_quantized : slotFmt 0x06 = 6 ∧ slotKind 0x06 = 0 ∧ LaneReady { srcs := [0, 1], mods := [0, 1], keeps := true, legal := slotFmt 0x06 != 0 && decide (2 * 3 < 8) }
    (plainFields 0x53 8 10 4 5 0 3 0) (slotted 0x06) 0 0 (laneT id) laneR := ⟨by decide +kernel, by decide +kernel, (laneReady _ _ _).other _⟩
theorem witness_LaneConversions_unpack : LaneReady { srcs := [0, 1], moreD := 1, legal := slotFmt 0x43 != 0 && decide (2 * 1 < 4) }
    (plainFields 0x54 8 10 4 5 0 1 0) (slotted 0x43) 0 0 (laneT id) laneR := (laneReady _ _ _).other _
theorem witness_LaneConversions_scale : LaneReady { srcs := [0], mods := [0], legal := slotKind 0x43 != 0 }
    (plainFields 0x55 8 10 4 0 0 0 0) (slotted 0x43) 0 0 (laneT id) laneR := (laneReady _ _ _).other _

/-- A rotation by a constant, and the same over a pair. -/
theorem witness_CrossLane : LaneReady { srcs := [0, 1], direct := [0], apart := [0], wide := pairFields (plainFields 0x60 1 10 4 785 0 0x19 0) [3, 0] }
      (plainFields 0x60 1 10 4 785 0 0x19 0) (lS id) 0 0 (laneT id) laneR
    ∧ (∀ k ∈ (laneCtx 0 0 (laneT id) laneR (plainFields 0x60 1 10 4 785 0 0x19 0)).lanes,
        operand (laneCtx 0 0 (laneT id) laneR (plainFields 0x60 1 10 4 785 0 0x19 0)) (plainFields 0x60 1 10 4 785 0 0x19 0) 1 1 k = 1)
    ∧ ∀ k : Nat, SourceSound (laneT id) (plainFields 0x60 1 10 4 785 0 0x19 0) k :=
  ⟨laneReady _ _ _, by decide +kernel, fun _ _ _ => rfl⟩
theorem witness_CrossLane_bcast : LaneReady { srcs := [0, 1], direct := [0], apart := [0, 1], wide := pairFields (plainFields 0x61 1 10 4 847 0 0 0) [3, 0] }
      (plainFields 0x61 1 10 4 847 0 0 0) (lS id) 0 0 (laneT id) laneR
    ∧ (laneCtx 0 0 (laneT id) laneR (plainFields 0x61 1 10 4 847 0 0 0)).lanes.head? = some 0
    ∧ operand (laneCtx 0 0 (laneT id) laneR (plainFields 0x61 1 10 4 847 0 0 0)) (plainFields 0x61 1 10 4 847 0 0 0) 1 1 0 % 64 = 63
    ∧ LaneReady { srcs := [0], direct := [0], apart := [0], wide := pairFields (plainFields 0x61 7 10 4 0 0 1 0) [3, 0] } (plainFields 0x61 7 10 4 0 0 1 0)
      (lS id) 0 0 (laneT id) laneR := ⟨laneReady _ _ _, by decide +kernel, by decide +kernel, laneReady _ _ _⟩
theorem witness_CrossLane_folds : LaneReady { srcs := [0] } (plainFields 0x62 8 10 4 0 0 8 0) (lS id) 0 0 (laneT id) laneR
    ∧ LaneReady { srcs := [0], dest := .regOrMailbox } (plainFields 0x64 0 10 4 0 0 1 0) (lS id) 0 0 (laneT id) laneR
    ∧ LaneReady { preds := [0], dest := .regOrMailbox, wide := [3] } (plainFields 0x63 0 10 23 0 0 0 0) (lS id) 0 0 (laneT id) laneR
    ∧ LaneReady { srcs := [0, 1], dest := .index } (plainFields 0x67 0 775 4 5 0 0 0) (lS id) 0 0 (laneT id) laneR :=
  ⟨laneReady _ _ _, laneReady _ _ _, laneReady _ _ _, laneReady _ _ _⟩
theorem witness_LaneMailboxes : LaneReady { srcs := [0], dest := .regOrMailbox } (plainFields 0x64 0 783 4 0 0 1 0) (lS id) 0 0 (laneT id) laneR
    ∧ LaneReady { preds := [0], dest := .regOrMailbox, wide := [3] } (plainFields 0x63 0 776 23 0 0 0 0) (lS id) 0 0 (laneT id) laneR
    ∧ LaneReady { srcs := [0], dest := .mailbox, apart := [0], wide := pairFields (plainFields 0x65 7 780 4 0 0 0 0) [0] } (plainFields 0x65 7 780 4 0 0 0 0)
      (lS id) 0 0 (laneT id) laneR
    ∧ (laneT id).exited = false ∧ mailFull (laneT id).sc 7 = false := ⟨laneReady _ _ _, laneReady _ _ _, laneReady _ _ _, rfl, rfl⟩
/-- A full mailbox, and a strand that has exited. -/
theorem witness_LaneMailboxes_full : LaneReady { srcs := [0], dest := .regOrMailbox } (plainFields 0x64 0 783 4 0 0 1 0)
      (lS fun t => { t with sc := { t.sc with mfull := 0x80 } }) 0 0 (laneT fun t => { t with sc := { t.sc with mfull := 0x80 } }) laneR
    ∧ mailFull (laneT fun t => { t with sc := { t.sc with mfull := 0x80 } }).sc 7 = true
    ∧ LaneReady { srcs := [0], dest := .regOrMailbox } (plainFields 0x64 0 783 4 0 0 1 0) (lS fun t => { t with exited := true }) 0 0
      (laneT fun t => { t with exited := true }) laneR := ⟨laneReady _ _ _, rfl, laneReady _ _ _⟩

/-- The traps of a lane word: a function that no entry has, a slot without a use, a destination out of VBLK's registers, an
illegal predicate, and a poisoned source. -/
theorem witness_LaneTraps : laneReject (plainFields 0x02 0 10 4 5 0 2 0) = some .laneFunction ∧ (laneInteger (.vmul (plainFields 0x02 0 10 4 5 0 2 0))).isSome
    ∧ (lS id).agent = .lane 0 0 ∧ strandAt (lS id) 0 0 = some (laneT id) ∧ (laneT id).st.current = some laneR := ⟨by decide +kernel, rfl, rfl, rfl, rfl⟩
theorem witness_LaneTraps_checks : laneChecks (integerUse (plainFields 0x00 0 768 4 5 0 0 0) 2 true) (laneCtx 0 0 (laneT id) laneR (plainFields 0x00 0 768 4 5 0 0 0)) (plainFields 0x00 0 768 4 5 0 0 0)
      = some (0x03, 2 ^ 64 - 1)
    ∧ laneReject (plainFields 0x00 0 768 4 5 0 0 0) = none ∧ predLegal (plainFields 0x00 0 768 4 5 0 0 0) = true
    ∧ laneChecks (floatUse 2) (laneCtx 0 0 (laneT fun t => { t with vblk := 1 }) laneR (plainFields 0x20 8 32 4 5 0 0 0)) (plainFields 0x20 8 32 4 5 0 0 0)
      = some (0x05, 2 ^ 64 - 1) := by decide +kernel
theorem witness_LaneTraps_predicate : laneReject { plainFields 0x00 0 10 4 5 0 0 0 with pred := 24 } = none ∧ predLegal { plainFields 0x00 0 10 4 5 0 0 0 with pred := 24 } = false := by decide +kernel
def poisonedLane (t : Strand) : Strand := { t with ln := { t.ln with vpoison := [64 * 4 + 63] } }
theorem witness_LaneTraps_poison : poisonLanes (integerUse (plainFields 0x00 0 10 4 5 0 0 0) 2 true) (laneCtx 0 0 (laneT poisonedLane) laneR (plainFields 0x00 0 10 4 5 0 0 0)) (plainFields 0x00 0 10 4 5 0 0 0) = [63]
    ∧ laneReject (plainFields 0x00 0 10 4 5 0 0 0) = none ∧ laneChecks (integerUse (plainFields 0x00 0 10 4 5 0 0 0) 2 true) (laneCtx 0 0 (laneT poisonedLane) laneR (plainFields 0x00 0 10 4 5 0 0 0)) (plainFields 0x00 0 10 4 5 0 0 0) = none
    ∧ operandPending (integerUse (plainFields 0x00 0 10 4 5 0 0 0) 2 true) (laneCtx 0 0 (laneT poisonedLane) laneR (plainFields 0x00 0 10 4 5 0 0 0)) (plainFields 0x00 0 10 4 5 0 0 0) = false
    ∧ laneUnits (lS poisonedLane) 0 + (newLanes (integerUse (plainFields 0x00 0 10 4 5 0 0 0) 2 true) (laneCtx 0 0 (laneT poisonedLane) laneR (plainFields 0x00 0 10 4 5 0 0 0)) (plainFields 0x00 0 10 4 5 0 0 0)).length ≤ 4096 := by decide +kernel

/-- What each lane of a full mask accesses where every address register holds zero. -/
def allAt (l : List Nat) : List (Nat × List Nat) := (List.range 64).map fun k => (k, l)
/-- A load of two words by every lane, plain and as an acquire at block scope. -/
theorem witness_LaneLoads : LaneReady (loadUse (plainFields 0x80 1 10 4 0 0 0x10 0) false) (memWord (plainFields 0x80 1 10 4 0 0 0x10 0)) (lS id) 0 0 (laneT id) laneR
    ∧ LaneMemFree (lS id) (laneCtx 0 0 (laneT id) laneR (memWord (plainFields 0x80 1 10 4 0 0 0x10 0))) none
    ∧ laneAccesses (lS id) (laneCtx 0 0 (laneT id) laneR (memWord (plainFields 0x80 1 10 4 0 0 0x10 0))) (plainFields 0x80 1 10 4 0 0 0x10 0) 8 .read false false false
      = .ok (allAt (List.range 8))
    ∧ flagA (laneCtx 0 0 (laneT id) laneR (memWord (plainFields 0x80 1 10 4 0 0 0x10 0))) = none :=
  ⟨laneReady _ _ _, by unfold LaneMemFree; decide +kernel, ok_of (by decide +kernel), by decide +kernel⟩
theorem witness_LaneLoads_free :
    reduceWait (keepLanes (lS id) (laneCtx 0 0 (laneT id) laneR (memWord (plainFields 0x80 1 10 4 0 0 0x10 0))) (plainFields 0x80 1 10 4 0 0 0x10 0) 8)
      (laneCtx 0 0 (laneT id) laneR (memWord (plainFields 0x80 1 10 4 0 0 0x10 0))) (List.range 8) = false := by decide +kernel
theorem witness_LaneLoads_acquire : LaneReady (loadUse (plainFields 0x80 1 10 4 0 0 0x19 0) false) (memWord (plainFields 0x80 1 10 4 0 0 0x19 0)) (lS id) 0 0 (laneT id) laneR
    ∧ laneAccesses (lS id) (laneCtx 0 0 (laneT id) laneR (memWord (plainFields 0x80 1 10 4 0 0 0x19 0))) (plainFields 0x80 1 10 4 0 0 0x19 0) 8 .read true false false
      = .ok (allAt (List.range 8)) := ⟨laneReady _ _ _, ok_of (by decide +kernel)⟩
/-- Form 4, from the strand's own area. -/
theorem witness_LaneLoads_scratch : LaneReady (loadUse (plainFields 0x82 1 10 4 0 0 0x00 0x400) true) (memWord (plainFields 0x82 1 10 4 0 0 0x00 0x400)) (lS id) 0 0 (laneT id) laneR
    ∧ laneAccesses (lS id) (laneCtx 0 0 (laneT id) laneR (memWord (plainFields 0x82 1 10 4 0 0 0x00 0x400))) (plainFields 0x82 1 10 4 0 0 0x00 0x400) 4 .read false false false
      = .ok (allAt ((List.range 4).map fun i => scratchLoc 1 i)) := ⟨laneReady _ _ _, ok_of (by decide +kernel)⟩
theorem witness_LaneLoads_prefetch : LaneReady { srcs := [0], dest := .none, legal := formLegal (plainFields 0x86 0 0 4 0 0 0 0) false, wide := addrWide (plainFields 0x86 0 0 4 0 0 0 0) }
      (memWord (plainFields 0x86 0 0 4 0 0 0 0)) (lS id) 0 0 (laneT id) laneR
    ∧ LaneMemFree (lS id) (laneCtx 0 0 (laneT id) laneR (memWord (plainFields 0x86 0 0 4 0 0 0 0))) none
    ∧ ∀ q ∈ (laneCtx 0 0 (laneT id) laneR (memWord (plainFields 0x86 0 0 4 0 0 0 0))).lanes,
      isErr (readFault (lS id) 0 (laneT id) (laneAddr (laneCtx 0 0 (laneT id) laneR (memWord (plainFields 0x86 0 0 4 0 0 0 0))) (plainFields 0x86 0 0 4 0 0 0 0) q) 1 false) cRecall = false :=
  ⟨laneReady _ _ _, by unfold LaneMemFree; decide +kernel, by decide +kernel⟩

theorem witness_LaneStoring : LaneReady (storeUse (plainFields 0x81 1 0 4 5 0 0x10 0) false) (memWord (plainFields 0x81 1 0 4 5 0 0x10 0)) (lS id) 0 0 (laneT id) laneR
    ∧ LaneMemFree (lS id) (laneCtx 0 0 (laneT id) laneR (memWord (plainFields 0x81 1 0 4 5 0 0x10 0))) none
    ∧ laneAccesses (lS id) (laneCtx 0 0 (laneT id) laneR (memWord (plainFields 0x81 1 0 4 5 0 0x10 0))) (plainFields 0x81 1 0 4 5 0 0x10 0) 8 .write false false false
      = .ok (allAt (List.range 8)) := ⟨laneReady _ _ _, by unfold LaneMemFree; decide +kernel, ok_of (by decide +kernel)⟩
theorem witness_LaneStoring_free : LaneStoreFree (keepLanes (lS id) (laneCtx 0 0 (laneT id) laneR (memWord (plainFields 0x81 1 0 4 5 0 0x10 0))) (plainFields 0x81 1 0 4 5 0 0x10 0) 8)
    (laneCtx 0 0 (laneT id) laneR (memWord (plainFields 0x81 1 0 4 5 0 0x10 0))) (List.range 8) := by unfold LaneStoreFree; decide +kernel
theorem witness_LaneStoring_release : LaneReady (storeUse (plainFields 0x81 1 0 4 5 0 0x09 0) false) (memWord (plainFields 0x81 1 0 4 5 0 0x09 0)) (lS id) 0 0 (laneT id) laneR
    ∧ laneAccesses (lS id) (laneCtx 0 0 (laneT id) laneR (memWord (plainFields 0x81 1 0 4 5 0 0x09 0))) (plainFields 0x81 1 0 4 5 0 0x09 0) 4 .write true false false
      = .ok (allAt (List.range 4))
    ∧ LaneReleaseEnded (lS id) (laneCtx 0 0 (laneT id) laneR (memWord (plainFields 0x81 1 0 4 5 0 0x09 0))) 1 :=
  ⟨laneReady _ _ _, ok_of (by decide +kernel), rfl, .inr ⟨rfl, by decide⟩⟩
theorem witness_LaneStoring_scratch : LaneReady (storeUse (plainFields 0x83 1 0 4 5 0 0x00 0x400) true) (memWord (plainFields 0x83 1 0 4 5 0 0x00 0x400)) (lS id) 0 0 (laneT id) laneR
    ∧ laneAccesses (lS id) (laneCtx 0 0 (laneT id) laneR (memWord (plainFields 0x83 1 0 4 5 0 0x00 0x400))) (plainFields 0x83 1 0 4 5 0 0x00 0x400) 4 .write false false false
      = .ok (allAt ((List.range 4).map fun i => scratchLoc 1 i))
    ∧ LaneStoreFree (keepLanes (lS id) (laneCtx 0 0 (laneT id) laneR (memWord (plainFields 0x83 1 0 4 5 0 0x00 0x400))) (plainFields 0x83 1 0 4 5 0 0x00 0x400) 4)
      (laneCtx 0 0 (laneT id) laneR (memWord (plainFields 0x83 1 0 4 5 0 0x00 0x400))) ((List.range 4).map fun i => scratchLoc 1 i) :=
  ⟨laneReady _ _ _, ok_of (by decide +kernel), by unfold LaneStoreFree; decide +kernel⟩
/-- A reduction of a sum by every lane into one word. -/
theorem witness_LaneStoring_reduction : LaneReady { srcs := [0, 1], dest := .none, outward := true, legal := formLegal (plainFields 0x85 1 0 4 5 0 0 0) false, wide := addrWide (plainFields 0x85 1 0 4 5 0 0 0) ++ dataWide (plainFields 0x85 1 0 4 5 0 0 0) [1] } (memWord (plainFields 0x85 1 0 4 5 0 0 0)) (lS id) 0 0 (laneT id) laneR
    ∧ laneAccesses (lS id) (laneCtx 0 0 (laneT id) laneR (memWord (plainFields 0x85 1 0 4 5 0 0 0))) (plainFields 0x85 1 0 4 5 0 0 0) 4 .write true true false
      = .ok (allAt (List.range 4))
    ∧ (regionAt (laneT id) laneR.entry.region).isSome
    ∧ reduceShort (keepLanes (lS id) (laneCtx 0 0 (laneT id) laneR (memWord (plainFields 0x85 1 0 4 5 0 0 0))) (plainFields 0x85 1 0 4 5 0 0 0) 4)
        (laneCtx 0 0 (laneT id) laneR (memWord (plainFields 0x85 1 0 4 5 0 0 0))) (byAddress (allAt (List.range 4))) = none :=
  ⟨laneReady _ _ _, ok_of (by decide +kernel), rfl, by decide +kernel⟩

/-- An atomic before its regions close, and once they have cleared. -/
def laneCleared (t : Strand) : Strand := { t with lphase := .releasing, regions := t.regions.map fun r => { r with close := some 0, sclose := some 0, ec := some 0, cleared := true } }
theorem witness_LaneAtomics : atomOp (plainFields 0x84 1 10 4 5 0 0 0) ≠ 7 ∧ LaneReady (atomUse (plainFields 0x84 1 10 4 5 0 0 0) false) (memWord (plainFields 0x84 1 10 4 5 0 0 0)) (lS id) 0 0 (laneT id) laneR
    ∧ LaneMemFree (lS id) (laneCtx 0 0 (laneT id) laneR (memWord (plainFields 0x84 1 10 4 5 0 0 0))) none
    ∧ laneAccesses (lS id) (laneCtx 0 0 (laneT id) laneR (memWord (plainFields 0x84 1 10 4 5 0 0 0))) (plainFields 0x84 1 10 4 5 0 0 0) 4 .write true true true
      = .ok (allAt (List.range 4))
    ∧ poisoned (lS id) 0 (laneT id) (List.range 4) = false ∧ (laneT id).lphase = .idle :=
  ⟨by decide, laneReady _ _ _, by unfold LaneMemFree; decide +kernel, ok_of (by decide +kernel), by decide +kernel, rfl⟩
theorem witness_LaneAtomics_performs : atomOp (plainFields 0x84 1 10 4 5 6 7 0) = 7
    ∧ LaneReady (atomUse (plainFields 0x84 1 10 4 5 6 7 0) true) (memWord (plainFields 0x84 1 10 4 5 6 7 0)) (lS laneCleared) 0 0 (laneT laneCleared) laneR
    ∧ LaneMemFree (lS laneCleared) (laneCtx 0 0 (laneT laneCleared) laneR (memWord (plainFields 0x84 1 10 4 5 6 7 0))) none
    ∧ laneAccesses (lS laneCleared) (laneCtx 0 0 (laneT laneCleared) laneR (memWord (plainFields 0x84 1 10 4 5 6 7 0))) (plainFields 0x84 1 10 4 5 6 7 0) 4 .write true true true
      = .ok (allAt (List.range 4))
    ∧ (laneT laneCleared).lphase = .releasing ∧ allCleared (laneT laneCleared) = true ∧ headRoom (laneT laneCleared) = true
    ∧ atomBlocked (keepLanes (lS laneCleared) (laneCtx 0 0 (laneT laneCleared) laneR (memWord (plainFields 0x84 1 10 4 5 6 7 0))) (plainFields 0x84 1 10 4 5 6 7 0) 4)
        (laneCtx 0 0 (laneT laneCleared) laneR (memWord (plainFields 0x84 1 10 4 5 6 7 0))) (List.range 4) = false
    ∧ hostOwned (lS laneCleared) (List.range 4) = false ∧ frameHeld (lS laneCleared) (List.range 4) = false ∧ (lS laneCleared).links = [] :=
  ⟨by decide, laneReady _ _ _, by unfold LaneMemFree; decide +kernel, ok_of (by decide +kernel), rfl, rfl, by decide +kernel, by decide +kernel, by decide +kernel, by decide +kernel, rfl⟩
/-- Words of the strand's own scratch area. -/
def laneArea (t : Strand) : Strand := { laneCleared t with ln := { t.ln with vregs := (List.range 128).map fun k => (256 + k, if k < 64 then 0x00400000 else 0xFF800000) } }
def areaLocs : List Nat := (List.range 4).map fun i => scratchLoc 1 i
theorem witness_LaneAtomics_scratch : LaneReady (atomUse (plainFields 0x84 1 10 4 5 0 0 0) false) (memWord (plainFields 0x84 1 10 4 5 0 0 0)) (lS laneArea) 0 0 (laneT laneArea) laneR
    ∧ laneAccesses (lS laneArea) (laneCtx 0 0 (laneT laneArea) laneR (memWord (plainFields 0x84 1 10 4 5 0 0 0))) (plainFields 0x84 1 10 4 5 0 0 0) 4 .write true true true = .ok (allAt areaLocs)
    ∧ isScratch (areaLocs.headD 0) = true ∧ (blockAt (lS laneArea) (locBlock (areaLocs.headD 0))).isSome
    ∧ atomBlocked (keepLanes (lS laneArea) (laneCtx 0 0 (laneT laneArea) laneR (memWord (plainFields 0x84 1 10 4 5 0 0 0))) (plainFields 0x84 1 10 4 5 0 0 0) 4)
        (laneCtx 0 0 (laneT laneArea) laneR (memWord (plainFields 0x84 1 10 4 5 0 0 0))) areaLocs = false :=
  ⟨laneReady _ _ _, ok_of (by decide +kernel), by decide +kernel, by decide +kernel, by decide +kernel⟩


/-- The griddle held by block 1, whose stream runs; the slot record of the grid is `v`. -/
def streamG : Griddle := { Griddle.reset with held := true, holder := 1, run := true, segs := [newSegment base 0 0 none [] 0] }
def mS (v : BitVec 128) (k : Griddle → Griddle) : State :=
  { base with agent := .matrix 0, cores := [(0, { (coreOf base 0) with griddle := k streamG })],
              parts := base.parts.map fun e => (e.1, { e.2 with grids := e.2.grids.map fun g => { g with record := { g.record with slots := [v] } } }) }
def seg0 : Segment := newSegment base 0 0 none [] 0
theorem streamRuns (v : BitVec 128) (k : Griddle → Griddle) (h1 : (k streamG).held = true := by rfl) (h2 : (k streamG).run = true := by rfl)
    (h3 : (k streamG).holder = 1 := by rfl) (h4 : openSeg (k streamG) = some seg0 := by rfl) : StreamRuns (mS v k) 0 fetchBlock seg0 where
  agent := rfl
  held := h1
  run := h2
  holder := by
    have h : (coreOf (mS v k) 0).griddle.holder = 1 := h3
    rw [h]; rfl
  segment := h4

theorem witness_MatrixTiles : StreamRuns (mS 0 id) 0 fetchBlock seg0 ∧ matrixReject (plainFields 0xE4 0 63 5 0 0 1 0) = none
    ∧ stageNeed (coreOf (mS 0 id) 0).griddle seg0 63 = .fine := ⟨streamRuns _ _, by decide +kernel, rfl⟩
/-- A tile of E4M3 elements in the own area. -/
theorem witness_MatrixTiles_load : StreamRuns (mS 3 id) 0 fetchBlock seg0 ∧ SlotOf (mS 3 id) fetchBlock (plainFields 0xE1 11 0 0 1 0 0 0) 3
    ∧ matrixTarget (mS 3 id) (coreOf (mS 3 id) 0).griddle fetchBlock 0 = some (1, fetchBlock) ∧ 2048 + tileBytes 3 ≤ fetchBlock.area
    ∧ scalesInArea fetchBlock 3 2048 1024 = true := ⟨streamRuns _ _, ⟨by decide +kernel, by decide +kernel⟩, rfl, by decide +kernel, by decide +kernel⟩
theorem witness_MatrixMultiply : StreamRuns (mS 1 id) 0 fetchBlock seg0 ∧ SlotOf (mS 1 id) fetchBlock (plainFields 0xE0 9 63 8 1 0 16 0) 1
    ∧ slotKind 1 = 0 ∧ (coreOf (mS 1 id) 0).griddle.latch = none
    ∧ streamStrand (mS 1 id) 0 (coreOf (mS 1 id) 0).griddle.holder 0 = some (0, baseT)
    ∧ (∀ v ∈ fragRegs baseT.compat 8 ++ imageRegs baseT.compat 1 0, v < 32 * baseT.vblk) ∧ baseT.vpend = []
    ∧ fragPoison baseT 1 8 0 = false ∧ 2048 + 2048 ≤ fetchBlock.area ∧ scalesInArea fetchBlock 1 2048 (32 * 32) = true
    ∧ stageNeed (coreOf (mS 1 id) 0).griddle seg0 63 = .fine :=
  ⟨streamRuns _ _, ⟨by decide +kernel, by decide +kernel⟩, by decide +kernel, rfl, by decide +kernel, by decide +kernel, rfl, by decide +kernel, by decide, by decide +kernel, rfl⟩
/-- The latch holds the fragment. -/
def latch0 : Latch := { strand := 0, va := 8, vc := 0, type := 9, slot := 0, frag := List.replicate 512 0, scales := [] }
theorem witness_MatrixMultiply_latched : StreamRuns (mS 1 fun g => { g with latch := some latch0 }) 0 fetchBlock seg0
    ∧ (coreOf (mS 1 fun g => { g with latch := some latch0 }) 0).griddle.latch = some latch0 ∧ latchAgrees (plainFields 0xE0 9 63 8 1 0 16 0) latch0 = true :=
  ⟨streamRuns _ _, rfl, by decide +kernel⟩
/-- Into the own area, and the quantized format. -/
theorem witness_MatrixStore : StreamRuns (mS 3 id) 0 fetchBlock seg0 ∧ SlotOf (mS 3 id) fetchBlock (plainFields 0xE3 11 0 63 1 0 0 0) 3
    ∧ undoNeed (coreOf (mS 3 id) 0) seg0 1 ((List.range (1024 / 4)).map fun i => 2048 + 4 * i) = .fine ∧ tileBytes 3 = 1024 :=
  ⟨streamRuns _ _, ⟨by decide +kernel, by decide +kernel⟩, by decide +kernel, by decide +kernel⟩
theorem witness_MatrixStore_quantized : SlotOf (mS 6 id) fetchBlock (plainFields 0xE3 13 0 63 1 0 0 0) 6 ∧ slotFmt 6 = 6 ∧ tileBytes 6 = 512
    ∧ undoNeed (coreOf (mS 6 id) 0) seg0 1 ((List.range (512 / 4)).map fun i => 2048 + 4 * i) = .fine := ⟨⟨by decide +kernel, by decide +kernel⟩, by decide +kernel, by decide +kernel, by decide +kernel⟩
/-- Into the area of the next member of the gang. -/
def twoMembers : State := { mS 3 id with blocks := [(1, { fetchBlock with gsize := 2 }), (2, { fetchBlock with core := 1, gidx := 1, gsize := 2, number := 1 })] }
theorem witness_MatrixStore_member : matrixTarget twoMembers (coreOf twoMembers 0).griddle { fetchBlock with gsize := 2 } 5 = some (2, { fetchBlock with core := 1, gidx := 1, gsize := 2, number := 1 })
    ∧ SlotOf twoMembers { fetchBlock with gsize := 2 } (plainFields 0xE3 11 0 63 1 0 5 0) 3 ∧ hwbNeed twoMembers 0 seg0 ((1024 + 127) / 128) = .fine := by
  unfold SlotOf; decide +kernel
theorem witness_MatrixMeets : StreamRuns (mS 0 id) 0 fetchBlock seg0 ∧ matrixReject (plainFields 0xE6 0 0 0 0 4 0 0x2F0) = none
    ∧ matrixReject (plainFields 0xE5 0 0 0 0 4 0 0x3F1) = none
    ∧ signalNeed (mS 0 id) 0 (coreOf (mS 0 id) 0).griddle seg0 (plainFields 0xE5 0 0 0 0 4 0 0x3F1) = .fine ∧ liveSegs (coreOf (mS 0 id) 0).griddle < 16
    ∧ meetWord (mS 0 id) 0 15 + 4 < 2 ^ 64 := ⟨streamRuns _ _, by decide +kernel, by decide +kernel, by decide +kernel, by decide, by decide +kernel⟩
/-- A meet point at its greatest value, and a griddle with sixteen segments. -/
def meetFull : State := { mS 0 id with blocks := [(1, { fetchBlock with scratch := (List.range 8).map fun i => (120 + i, 0xFF) })] }
theorem witness_MatrixMeets_over : 2 ^ 64 ≤ meetWord meetFull 0 15 + 4 := by decide +kernel
theorem witness_MatrixMeets_waits : 16 ≤ liveSegs (coreOf (mS 0 fun g => { g with segs := List.replicate 15 { seg0 with close := some 0 } ++ g.segs }) 0).griddle := by decide +kernel
theorem witness_MatrixTraps : matrixWord (.gclr (plainFields 0xE2 0 63 1 0 0 0 0)) = some (plainFields 0xE2 0 63 1 0 0 0 0) ∧ StreamRuns (mS 0 id) 0 fetchBlock seg0
    ∧ matrixReject (plainFields 0xE2 0 63 1 0 0 0 0) = some .matrixField ∧ matrixReject (plainFields 0xE0 9 63 8 1 0 16 0) = none
    ∧ matrixSlot (mS 3 id) fetchBlock (plainFields 0xE0 9 63 8 1 0 16 0) = none ∧ streamStrand (mS 1 id) 0 (coreOf (mS 1 id) 0).griddle.holder 1 = none :=
  ⟨rfl, streamRuns _ _, by decide +kernel, by decide +kernel, by decide +kernel, by decide +kernel⟩
/-- A B tile that begins at the area's last kibibyte pair. -/
theorem witness_MatrixTraps_range : SlotOf (mS 1 id) fetchBlock (plainFields 0xE0 9 63 8 2 0 16 0) 1 ∧ fetchBlock.area < 2048 * 2 + 2048 :=
  ⟨⟨by decide +kernel, by decide +kernel⟩, by decide⟩

/-- An interpreter of partition 0 at an event. -/
def dI (e : DecEvent) (g : Interp → Interp) : Interp := g { regs := [(3, 7)], eq := false, ltn := false, lts := false, pc := 0, cycles := 0, began := 0, event := e, view := [], policy := [0x10D4] }
def dS (e : DecEvent) (g : Interp → Interp) (f : State → State) : State := f { modPart State.reset 0 (fun x => { x with interp := some (dI e g) }) with agent := .damper 0 }
theorem damperRuns (e : DecEvent) (g : Interp → Interp) (f : State → State) (h : (dS e g f).agent = .damper 0 ∧ (partAt (dS e g f) 0).interp = some (dI e g)) :
    DamperRuns (dS e g f) 0 (dI e g) := ⟨h.1, h.2⟩
def ev0 : DecEvent := plainEvent State.reset 0 2 5
theorem witness_DamperArithmetic : (damperArithOf (.dShl 3 15 1 0)).isSome ∧ DamperRuns (dS ev0 id id) 0 (dI ev0 id) ∧ (dI ev0 id).cycles + damperCycles 1 1 ≤ 512
    ∧ (dI ev0 fun r => { r with cycles := 510 }).cycles + damperCycles 1 2 ≤ 512 := ⟨rfl, damperRuns _ _ _ ⟨rfl, rfl⟩, by decide, by decide⟩
/-- A view of one entry that is a candidate. -/
def withView (r : Interp) : Interp := { r with view := [(0, 1), (1, 9)], regs := [] }
theorem witness_DamperTestsAndViews : DamperRuns (dS ev0 withView id) 0 (dI ev0 withView) ∧ (dI ev0 withView).cycles + damperCycles (4 + (0x088 / 128 % 16 + 1)) 2 ≤ 512
    ∧ BestCandidate (dI ev0 withView) 0 0x088 0 ∧ ¬ BestCandidate (dI ev0 withView) 0 0x088 1 ∧ ¬ JumpHolds (dI ev0 withView) 1 ∧ JumpHolds (dI ev0 withView) 2
    ∧ (damperLoadOf (.dLde 15 15 1 0)).isSome := by
  refine ⟨damperRuns _ _ _ ⟨rfl, rfl⟩, by decide, by unfold BestCandidate; decide +kernel, by unfold BestCandidate; decide +kernel, nofun, rfl, rfl⟩
/-- A decision whose last cycle has passed; one that runs still; and one past 512 cycles. -/
theorem witness_DamperDecisions : (decisionOf (.dDsp 3 15 1 0)).isSome ∧ (decisionOf .dGrant).isSome ∧ DamperRuns (dS ev0 id fun s => { s with now := 9 }) 0 (dI ev0 id)
    ∧ (dI ev0 id).cycles + damperCycles 1 1 ≤ 512 ∧ (dI ev0 id).began + (dI ev0 id).cycles + damperCycles 1 1 ≤ 9
    ∧ (dS ev0 id id).now < (dI ev0 id).began + (dI ev0 id).cycles + damperCycles 1 1 ∧ (dI ev0 id).event.kind = 0
    ∧ DamperRuns (dS ev0 (fun r => { r with cycles := 512 }) fun s => { s with now := 512 }) 0 (dI ev0 fun r => { r with cycles := 512 })
    ∧ 512 < (dI ev0 fun r => { r with cycles := 512 }).cycles + damperCycles 1 0
    ∧ decisionWaits (dS ev0 id fun s => { s with now := 9 }) 0 (dI ev0 id) (decisionQueue (dI ev0 id)) = false
    ∧ decisionWaits (dS ev0 (fun r => { r with cycles := 512 }) fun s => { s with now := 512 }) 0 (dI ev0 fun r => { r with cycles := 512 }) none = false :=
  ⟨rfl, rfl, damperRuns _ _ _ ⟨rfl, rfl⟩, by decide, by decide, by decide, rfl, damperRuns _ _ _ ⟨rfl, rfl⟩, by decide, by decide +kernel, by decide +kernel⟩
/-- A partition with every hearth, and a gang at the head of queue 7: its dispatch, and its dispatch as a filler, are accepted. -/
def headS (s : State) : State :=
  let q : QueueBlock := { queueOf (partAt s 0) 7 with records := [{ record := { fetchRecord with sbase := 65536 }, depth := 0, parent := 0, arrived := 0 }] }
  modPart { s with now := 9, cores := [(23, { Core.reset with spsize := 16 })] } 0 fun x => { x with record := (List.range 16).map (fun i => (i, -1)), spsize := 16, queues := [(7, q)] }
theorem witness_DamperDecisions_dispatch : (dispatchHead (headS State.reset) 0 5 7 3 false true).isSome ∧ (dispatchHead (headS State.reset) 0 5 7 3 true true).isSome
    ∧ (headOf (partAt (headS State.reset) 0) 7).isSome ∧ ∀ hd, headOf (partAt (headS State.reset) 0) 7 = some hd →
      hd.record!.cores = false ∧ neverFits (partAt (headS State.reset) 0) hd = false ∧ hd.gang.1 = 1 :=
  ⟨by decide +kernel, by decide +kernel, by decide +kernel, fun hd h => by
    have e : headOf (partAt (headS State.reset) 0) 7 = some (.record { record := { fetchRecord with sbase := 65536 }, depth := 0, parent := 0, arrived := 0 }) := by decide +kernel
    rw [e] at h; cases h; decide +kernel⟩
theorem witness_DamperDecisions_refused : dispatchHead State.reset 0 5 7 0 false true = none ∧ holdsHearth (partAt State.reset 0) 5 = false := by decide +kernel

theorem witness_EncodingsDecode : WellFormed (.vffma { plainFields 0x23 8 10 4 5 768 1 0 with pred := 3, pneg := 1 }) = true ∧ WellFormed (.sli 127 (-1)) = true
    ∧ WellFormed (.gmma (plainFields 0xE0 9 63 8 1 0 16 0)) = true ∧ WellFormed (.dAdd 15 0 2 0xFFFF) = true := by decide +kernel
theorem witness_WordsHaveOneMeaning : decodeScalar 0x044840A0 = .ok (.sadd 9 4 5) ∧ decodeLane 0x00002804C5400F8000000000 = .ok (.vadd (plainFields 0x00 0 10 4 789 0 0 0))
    ∧ decodeMatrix 0xE200000000000F8000000000 = .ok (.gclr (plainFields 0xE2 0 0 0 0 0 0 0)) ∧ decodeDamper 0x10D4 0 = .ok (.dAdd 3 5 0 0, 1) := ⟨ok_of (by decide +kernel), ok_of (by decide +kernel), ok_of (by decide +kernel), ok_of (by decide +kernel)⟩

/-- The state in which the word of `withFetchWord` is about to run. -/
def fetched (nbits w : Nat) : State := { State.reset.withFetchWord nbits w with turns := [] }
/-- At a scalar instruction, `sadd s9, s4, s5` (R43). -/
theorem witness_StepRunsTheInstruction : AtInstruction { fetched 32 0x044840A0 with agent := .scalar 0 0 } (.scalar 0 0) (.sadd 9 4 5) :=
  ⟨_, _, rfl, by decide +kernel, by decide +kernel, by decide +kernel, ok_of (v := [0xA0, 0x40, 0x48, 0x04]) (by decide +kernel), ok_of (by decide +kernel)⟩
theorem witness_StepRunsTheInstruction_lane : AtInstruction { fetched 96 0x00002804C5400F8000000000 with agent := .lane 0 0 } (.lane 0 0) (.vadd (plainFields 0x00 0 10 4 789 0 0 0)) :=
  ⟨_, _, _, rfl, by decide +kernel, by decide +kernel, rfl, by decide +kernel, by decide +kernel, ok_of (v := (List.range 12).map fun i => BitVec.ofNat 8 (0x00002804C5400F8000000000 / 256 ^ i)) (by decide +kernel), ok_of (by decide +kernel)⟩
theorem witness_StepRunsTheInstruction_matrix : AtInstruction { fetched 96 0xE200000000000F8000000000 with agent := .matrix 0 } (.matrix 0) (.gclr (plainFields 0xE2 0 0 0 0 0 0 0)) :=
  ⟨fetchBlock, (List.range 12).map fun i => BitVec.ofNat 8 (0xE200000000000F8000000000 / 256 ^ i), by decide +kernel, by decide +kernel, by decide +kernel, by decide +kernel,
    fun r h => by
      have e : recordOf { fetched 96 0xE200000000000F8000000000 with agent := .matrix 0 } 0 1 = some fetchRecord := by decide +kernel
      have h2 : recordOf { fetched 96 0xE200000000000F8000000000 with agent := .matrix 0 } 0 1 = some r := h
      rw [e] at h2; cases h2; decide +kernel, ok_of (by decide +kernel), ok_of (by decide +kernel)⟩
theorem witness_StepRunsTheInstruction_damper : AtInstruction { fetched 16 0x10D4 with agent := .damper 0 } (.damper 0) (.dAdd 3 5 0 0) :=
  ⟨_, 1, rfl, ok_of (by decide +kernel)⟩
theorem witness_StepRunsTheInstruction_due : due (State.reset.withFetchWord 32 0x044840A0) = none ∧ due (State.reset.withFetchWord 96 0x00002804C5400F8000000000) = none
    ∧ due (State.reset.withFetchWord 96 0xE200000000000F8000000000) = none ∧ due (State.reset.withFetchWord 16 0x10D4) = none := by decide +kernel
/-- A step at each of them gives a next state. -/
def goesOn (r : Out) : Bool := match r with | .next _ => true | _ => false
theorem witness_StepsGoOn : (∀ i rest, ({ State.reset with turns := [.event (.evCoreWake 0)] } : State).turns = .event i :: rest → encode i = .none)
    ∧ goesOn (step { State.reset with turns := [.event (.evCoreWake 0)] }) = true ∧ goesOn (step State.reset) = true :=
  ⟨fun i rest h => by cases h; rfl, by decide +kernel, by decide +kernel⟩
theorem witness_MemoryStaysCanonical : Memory.wf (State.reset.withFetchWord 32 0x044840A0).mem = true ∧ goesOn (step (State.reset.withFetchWord 32 0x044840A0)) = true := by decide +kernel
theorem witness_ResetMemory : State.reset.mem = [] := rfl

/-- The strand's first region, closed at tick 0; with its effective close known; cleared; and at a later tick. -/
def cl0 (t : Strand) : Strand := { t with regions := t.regions.map fun r => { r with close := some 0, sclose := some 0 } }
def ec0 (t : Strand) : Strand := { cl0 t with regions := (cl0 t).regions.map fun r => { r with ec := some 0, qcore := 32 } }
def clear0 (t : Strand) : Strand := { ec0 t with regions := (ec0 t).regions.map fun r => { r with cleared := true } }
def atLater (s : State) : State := { s with now := 1000 }
/-- A write that waits in the hearth write buffer of core 0, for block 1. -/
def hwb0 (due : Option Nat) : HwbEntry := { id := 9, part := 0, grid := 1, slot := 0, owner := 5, block := 1, off := 0, bytes := [(4, 7)], reduce := none, add := none, due := due, issuer := (1, 0), lane := false, seq := 0, place := 0 }
def withHwb (h : HwbEntry) (s : State) : State := { s with cores := [(0, { coreOf s 0 with hwb := [h] })] }

theorem witness_RegionsClear_known : ∃ s c l id t r cl, l < 64 ∧ strandAt s c l = some t ∧ regionAt t id = some r ∧ r.ec = none ∧ r.close = some cl ∧ depsKnown s c r.deps = true :=
  ⟨vS cl0, 0, 0, State.reset.nextId, _, _, _, by decide, rfl, rfl, rfl, rfl, by decide +kernel⟩
def closedSeg (g : Griddle) : Griddle := { g with segs := [{ seg0 with close := some 0 }] }
def clearSeg (g : Griddle) : Griddle := { g with segs := [{ seg0 with close := some 0, ec := some 0 }] }
theorem witness_RegionsClear_segmentKnown : ∃ s c id x cl, (coreOf s c).griddle.segs.find? (fun g => g.id == id && g.ec.isNone) = some x ∧ x.close = some cl ∧ depsKnown s c x.deps = true :=
  ⟨mS 0 closedSeg, 0, seg0.id, _, _, rfl, rfl, by decide +kernel⟩
theorem witness_RegionsClear_clears : ∃ s c l id t r ec, strandAt s c l = some t ∧ regionAt t id = some r ∧ r.ec = some ec ∧ r.cleared = false ∧ ec + r.qcore ≤ s.now :=
  ⟨atLater (vS ec0), 0, 0, State.reset.nextId, _, _, _, rfl, rfl, rfl, rfl, by decide +kernel⟩
theorem witness_RegionsClear_notYet : ∃ s c l id t r ec, strandAt s c l = some t ∧ regionAt t id = some r ∧ r.ec = some ec ∧ r.cleared = false ∧ s.now < ec + r.qcore :=
  ⟨vS ec0, 0, 0, State.reset.nextId, _, _, _, rfl, rfl, rfl, rfl, by decide +kernel⟩
theorem witness_RegionsClear_releases : ∃ s c l id t r ec, strandAt s c l = some t ∧ regionAt t id = some r ∧ r.ec = some ec ∧ r.cleared = true ∧ ec + windowOf r ≤ s.now
    ∧ ∀ h ∈ (coreOf s c).hwb, h.owner ≠ id :=
  ⟨atLater (vS clear0), 0, 0, State.reset.nextId, _, _, _, rfl, rfl, rfl, rfl, by decide +kernel, by decide +kernel⟩
theorem witness_RegionsClear_neighbour : ∃ c id s h tick, (coreOf s c).hwb.find? (fun e => e.id == id) = some h ∧ h.due = some tick ∧ tick ≤ s.now ∧ entryReadsFirst s h = false ∧ h.add = none ∧ h.reduce = none :=
  ⟨0, 9, withHwb (hwb0 (some 0)) base, _, _, rfl, rfl, by decide, by decide +kernel, rfl, rfl⟩
theorem witness_RegionsClear_segment : ∃ c s x ec b, (coreOf s c).griddle.segs.find? (fun g => !g.cleared) = some x ∧ x.ec = some ec ∧ blockAt s (coreOf s c).griddle.holder = some b
    ∧ ec + x.qcore ≤ s.now ∧ ((reportStrand s c (coreOf s c).griddle.holder).isSome ∨ (x.trap = none ∧ x.arm = false)) :=
  ⟨0, atLater (mS 0 clearSeg), _, _, fetchBlock, rfl, rfl, rfl, by decide +kernel, .inr ⟨rfl, rfl⟩⟩
theorem witness_RegionsClear_meet : ∃ c s, matrixMay s c = true ∧ (coreOf s c).griddle.waiting = none ∧ openSeg (coreOf s c).griddle = none ∧ liveSegs (coreOf s c).griddle = 0 :=
  ⟨0, mS 0 fun g => { g with segs := [] }, by decide +kernel, rfl, rfl, rfl⟩
theorem witness_RegionsClear_wait : ∃ c s w x b, (coreOf s c).griddle.waiting = some w ∧ openSeg (coreOf s c).griddle = some x ∧ (coreOf s c).griddle.held = true
    ∧ (coreOf s c).griddle.run = true ∧ blockAt s (coreOf s c).griddle.holder = some b ∧ meetReady s (coreOf s c).griddle w = true :=
  ⟨0, mS 0 fun g => { g with waiting := some (1, 0) }, _, _, fetchBlock, rfl, rfl, rfl, rfl, rfl, by decide +kernel⟩

/-- A strike on core 0, before and after it arrives. -/
def strike0 (a : Option Nat) : State := { vS cl0 with reports := [{ id := 3, kind := .strike, place := 0, second := false, time := 0, arrived := a, cores := [0] }] }
theorem witness_SensorsAndTraps_report : (767 : Nat) < Config.cores ∧ (191 : Nat) < Config.hearths := by decide
theorem witness_SensorsAndTraps_arrives : ∃ id, ∃ s : State, ∃ q, s.reports.find? (fun r => r.id == id && r.arrived.isNone) = some q := ⟨3, strike0 none, _, rfl⟩
theorem witness_SensorsAndTraps_squash : ∃ id c, ∃ s : State, ∃ q l t r, s.reports.find? (fun r => r.id == id && r.arrived.isSome && r.cores.contains c) = some q
    ∧ l < 64 ∧ strandAt s c l = some t ∧ r ∈ t.regions ∧ r.id < s.nextId ∧ r.cleared = false ∧ disowned q.time r.close r.ec = true :=
  ⟨3, 0, strike0 (some 0), _, 0, vT cl0, _, rfl, by decide, rfl, .head _, by decide +kernel, rfl, by decide +kernel⟩
/-- What the restore of a squashed strand needs: no trap of its matrix stream is held, and every region and segment has been numbered. -/
theorem witness_SensorsAndTraps_restore : (∀ e ∈ residents (strike0 (some 0)) 0, (∀ h ∈ e.2.traps, h.kind ≠ .matrix) ∧ ∀ x ∈ e.2.regions, x.id < (strike0 (some 0)).nextId)
    ∧ (∀ x ∈ (coreOf (strike0 (some 0)) 0).griddle.segs, x.id < (strike0 (some 0)).nextId) ∧ strandAt (strike0 (some 0)) 0 0 = some (vT cl0) :=
  ⟨by decide +kernel, by decide +kernel, rfl⟩
/-- A held trap, ready; its handler is in entry 2 of the trap table, and sp lies in a mapped page. -/
def held0 : HeldTrap := { record := { code := 2, stream := .scalar, detail := 1, index := 0, place := 4, lanes := 0, faddr := 0 }, kind := .own, region := 1, seq := 0, ready := some 0, resume := 4 }
def trapped (t : Strand) : Strand := { t with traps := [held0], stopped := true }
def handled : State := modPart (vS trapped) 0 fun x => { x with traps := [(2, { scode := 0, hoff := 0x100, handled := 4, valid := 1 })] }
theorem witness_SensorsAndTraps_handler : ∃ c l s t h, strandAt s c l = some t ∧ nextTrap t = some h ∧ deliveryWaits s c t h = false
    ∧ ∃ scode e locs, handlerFor s c t h = some (scode, e, locs) ∧ storeNeeds s c t 0 locs = none :=
  ⟨0, 0, handled, _, _, rfl, rfl, by decide +kernel, 0, { scode := 0, hoff := 0x100, handled := 4, valid := 1 }, (List.range 32).map fun i => 0x8000 + i, by decide +kernel, by decide +kernel⟩
theorem witness_SensorsAndTraps_fault : ∃ c l s t h g x, strandAt s c l = some t ∧ nextTrap t = some h ∧ deliveryWaits s c t h = false
    ∧ handlerFor s c t h = none ∧ gangAt s t.part t.gang = some (g, x) ∧ x.state = .resident :=
  ⟨0, 0, vS trapped, _, _, 1, fetchGang, rfl, rfl, by decide +kernel, by decide +kernel, rfl, rfl⟩
def shortOf (k : Nat) (t : Strand) : Strand := { t with swait := .resource k }
theorem witness_SensorsAndTraps_resource : ∃ c s l t, resourceVictim s c 5 = some (l, t) ∧ strandAt s c l = some t ∧ t.lwait ≠ .resource 5 :=
  ⟨0, vS (shortOf 5), 0, vT (shortOf 5), by decide +kernel, rfl, by decide⟩
def laneShort (t : Strand) : Strand := { t with lwait := .resource 0 }
theorem witness_SensorsAndTraps_laneResource : ∃ c s l t r, resourceVictim s c 0 = some (l, t) ∧ strandAt s c l = some t ∧ t.lwait = .resource 0 ∧ t.st.current = some r :=
  ⟨0, lS laneShort, 0, laneT laneShort, laneR, by decide +kernel, rfl, rfl, rfl⟩
theorem witness_SensorsAndTraps_reserved : (vS id).agent = .scalar 0 0 ∧ strandAt (vS id) 0 0 = some (vT id) ∧ (lS id).agent = .lane 0 0
    ∧ (mS 0 id).agent = .matrix 0 ∧ openSeg (coreOf (mS 0 id) 0).griddle = some seg0 := ⟨rfl, rfl, rfl, rfl, rfl⟩
/-- Code that no page maps. -/
def lost (t : Strand) : Strand := { t with sc := { t.sc with spc := 0x20000 } }
theorem witness_SensorsAndTraps_fetch : ∃ s : State, ∃ c l t, s.agent = .scalar c l ∧ strandAt s c l = some t ∧ fetchScalar s c t t.sc.spc 4 = .error 0x01 :=
  ⟨vS lost, 0, 0, _, rfl, rfl, err_of (by decide +kernel)⟩

/-- A clause that waits at the front of the queue with its header read; and one whose header byte is none. -/
def front (h : Option Header) (t : Strand) : Strand :=
  { t with st := { queue := [{ clause := 0, exec := -1, ks := [], seq := 0, region := State.reset.nextId, header := h, remat := false }], current := none } }
def plainHeader : Header := { wait := 1, flagA := 15, flagB := 15, len := 0, mbox := 0xFF }
theorem witness_StreamEvents_clause : ∃ c l s t q rest h, strandAt s c l = some t ∧ laneMay s c t = true ∧ t.st.current = none ∧ t.st.queue = q :: rest ∧ HeaderIs s c t q h
    ∧ clauseWaits t q h = false := ⟨0, 0, vS (front (some plainHeader)), _, _, _, plainHeader, rfl, by decide +kernel, rfl, rfl, .inl rfl, by decide +kernel⟩
def op0 (d : List Dest) (sc : Bool) (acq : Option (BitVec 3)) (f : Option Nat) : MemOp :=
  { id := 77, region := State.reset.nextId, scalar := sc, flag := f, flagB := none, dests := d, lines := [], asked := 0, waits := [], got := [(0, 1), (1, 2), (2, 3), (3, 4)], landed := false, effects := [],
    poll := false, byp := false, acquire := acq, seq := 0, place := 0, index := 1 }
def flagged (t : Strand) : Strand := { front (some plainHeader) t with ops := [op0 [] false none (some 0)] }
theorem witness_StreamEvents_waits : ∃ c l s t q rest h, strandAt s c l = some t ∧ laneMay s c t = true ∧ t.st.current = none ∧ t.st.queue = q :: rest ∧ HeaderIs s c t q h
    ∧ clauseWaits t q h = true := ⟨0, 0, vS flagged, _, _, _, plainHeader, rfl, by decide +kernel, rfl, rfl, .inl rfl, by decide +kernel⟩
/-- The header that memory holds at the clause's place: none. -/
theorem witness_StreamEvents_header : ∃ c l s t q rest bs, strandAt s c l = some t ∧ laneMay s c t = true ∧ t.st.current = none ∧ t.st.queue = q :: rest ∧ q.header = none
    ∧ laneOwned s c t q.clause.toNat = false ∧ fetchLane s c t q.clause.toNat = .ok bs ∧ readHeader (leNat bs) = none :=
  ⟨0, 0, { vS (front none) with mem := [(4096, 1), (4107, 0xFF)] }, _, _, _, [1, 0, 0, 0, 0, 0, 0, 0, 0, 0, 0, 0xFF], rfl, by decide +kernel, rfl, rfl, rfl, by decide +kernel, ok_of (by decide +kernel), by decide +kernel⟩
def laneDest : Dest := { lane := 63, reg := 10, addr := 0, locs := [0, 1, 2, 3], signed := false, pair := false }
def loading (o : MemOp) (t : Strand) : Strand := { t with ops := [o], vpend := [(10, 77)] }
theorem witness_StreamEvents_lands : ∃ c l op s t o d, strandAt s c l = some t ∧ t.ops.find? (fun x => x.id == op) = some o ∧ o.scalar = false ∧ o.landed = false ∧ o.lines = []
    ∧ o.dests = [d] ∧ d.pair = false := ⟨0, 0, 77, vS (loading (op0 [laneDest] false none none)), _, _, _, rfl, rfl, rfl, rfl, rfl, rfl, rfl⟩
theorem witness_StreamEvents_completes : ∃ c l op s t o, strandAt s c l = some t ∧ t.ops.find? (fun x => x.id == op) = some o ∧ opReady s o = true ∧ o.acquire = none :=
  ⟨0, 0, 77, vS (loading (op0 [{ laneDest with lane := 64 }] true none none)), _, _, rfl, rfl, by decide +kernel, rfl⟩
theorem witness_StreamEvents_acquires : ∃ c l op s t o k, strandAt s c l = some t ∧ t.ops.find? (fun x => x.id == op) = some o ∧ opReady s o = true ∧ o.acquire = some k
    ∧ 2 ≤ k.toNat ∧ (coreOf s c).sweeping = false := ⟨0, 0, 77, vS (loading (op0 [] true (some 2) none)), _, _, 2, rfl, rfl, by decide +kernel, rfl, by decide, rfl⟩
def releasing (a b : Phase) (t : Strand) : Strand := { t with sphase := a, lphase := b }
theorem witness_StreamEvents_release : ∃ c l s t, strandAt s c l = some t ∧ releaseDone s c l t = true ∧ t.sphase = .releasing :=
  ⟨0, 0, atLater (vS (releasing .releasing .idle)), _, rfl, by decide +kernel, rfl⟩
theorem witness_StreamEvents_laneRelease : ∃ c l s t, strandAt s c l = some t ∧ releaseDone s c l t = true ∧ t.sphase ≠ .releasing ∧ t.lphase = .releasing :=
  ⟨0, 0, atLater (vS (releasing .idle .releasing)), _, rfl, by decide +kernel, by decide, rfl⟩
/-- `mrel` at 4, once its regions have cleared. -/
def performs0 : State := { atLater (vS fun t => { clear0 t with sphase := .closing }) with mem := memWrite [] 4 4 0xF8000001, agent := .none }
theorem witness_StreamEvents_performs : ∃ c l s t, strandAt s c l = some t ∧ t.lphase = .idle ∧ t.sphase = .closing ∧ nextScalar s c l = some (.instr .mrel)
    ∧ goesOn (exec .mrel { s with agent := .scalar c l }) = true := ⟨0, 0, performs0, _, rfl, rfl, rfl, by decide +kernel, by decide +kernel⟩
/-- A lane atomic whose regions have cleared, in the clause at 0x1000. -/
def performsLane : State :=
  let w := (0b10000100#8 ++ 0b0001#4 ++ 0b0000001010#10 ++ 0b0000000100#10 ++ 0b0000000101#10 ++ 0b0000000000#10 ++ 0b11111#5 ++ 0#39).toNat
  { lS laneCleared with mem := memWrite [] 0x100C 12 w, agent := .none }
theorem witness_StreamEvents_performsLane : ∃ c l s t, strandAt s c l = some t ∧ t.lphase ≠ .idle ∧ nextLane s c l = some (.instr (.vatom (plainFields 0x84 1 10 4 5 0 0 0)))
    ∧ goesOn (exec (.vatom (plainFields 0x84 1 10 4 5 0 0 0)) { s with agent := .lane c l }) = true :=
  ⟨0, 0, performsLane, laneT laneCleared, rfl, by decide, by decide +kernel, by decide +kernel⟩
def counting (t : Strand) : Strand := { t with swait := .counter, sphase := .headed }
theorem witness_StreamEvents_wake : ∃ c l s, counterWaits s c l = true ∧ ∃ w ∈ watchesOf s c l, w.woken = true :=
  ⟨0, 0, { vS counting with watches := [{ core := 0, slot := 0, addr := 64, target := 1, woken := true }] }, by decide +kernel, by decide +kernel⟩
/-- `cwait.st s4, s5` at 4 on the own counter at offset 16, which has reached its target. -/
def meetsT (t : Strand) : Strand := counting { t with sc := { t.sc with sregs := [(4, 0xFF80000000400010)] } }
def meetsS : State := { vS meetsT with mem := memWrite [] 4 4 (match encode (.cwait 4 5 0) with | .scalar w => w.toNat | _ => 0) }
theorem witness_StreamEvents_meets : counterWaits meetsS 0 0 = true ∧ coreMeets meetsS 0 0 = true := by decide +kernel
theorem witness_StreamEvents_repoll : ∃ c l s, counterWaits s c l = true ∧ watchesOf s c l = [] ∧ s.now % 1024 = 0 := ⟨0, 0, vS counting, by decide +kernel, by decide +kernel, by decide⟩
theorem witness_StreamEvents_stop : ∃ c s, c < 768 ∧ (coreOf s c).stopped = false ∧ hearthStopped s (hearthOf c) = false ∧ coreReady s c = false ∧ ∀ e ∈ residents s c, e.2.collects = false :=
  ⟨767, State.reset, by decide, by decide, by decide +kernel, by decide +kernel, by decide +kernel⟩
theorem witness_StreamEvents_ready : ∃ c s, c < 768 ∧ (coreOf s c).stopped = false ∧ hearthStopped s (hearthOf c) = false ∧ coreReady s c = true :=
  ⟨0, { vS id with mem := memWrite [] 4 4 0x044840A0 }, by decide, by decide, by decide +kernel, by decide +kernel⟩
/-- A stopped core with a reason to wake; a sweep; a fill asked for; and one answered for line 8. -/
def coreS (f : Core → Core) (s : State) : State := { s with cores := [(0, f (coreOf s 0))] }
theorem witness_StreamEvents_coreWake : ∃ c s, (coreOf s c).stopped = true ∧ hearthStopped s (hearthOf c) = false ∧ (coreOf s c).woken.isSome :=
  ⟨0, coreS (fun k => { k with stopped := true, wakePend := 1, woken := some 0 }) State.reset, rfl, by decide +kernel, rfl⟩
theorem witness_StreamEvents_sweep : ∃ c s, (coreOf s c).sweeping = true := ⟨0, coreS (fun k => { k with sweeping := true }) State.reset, rfl⟩
def fill8 (a : Option (FMap Byte × BitVec 2 × Nat)) : Fill := { line := 8, hints := [0], answer := a, stamp := 0, gen := false, byp := false }
theorem witness_StreamEvents_request : ∃ c line s, (∃ f ∈ (coreOf s c).fills, f.line = line ∧ f.answer = none) ∧ (c, line, false) ∉ s.stale
    ∧ claimHeld s [128 * line] = false ∧ hostDropped s (coreOwner s c) (128 * line) = false :=
  ⟨0, 8, coreS (fun k => { k with fills := [fill8 none] }) State.reset, ⟨_, .head _, rfl, rfl⟩, by decide, by decide +kernel, by decide +kernel⟩
theorem witness_StreamEvents_fill : ∃ c line s f data halves lease k, (coreOf s c).fills.filter (fun f => f.line == line && f.answer.isSome) = [f]
    ∧ f.answer = some (data, halves, lease) ∧ isleOf (128 * line) < 14 ∧ (c, line, true) ∉ s.stale ∧ s.now + 2 < lease ∧ takeLine s c f data halves lease = some k ∧ line ∉ s.poison :=
  ⟨0, 8, coreS (fun k => { k with fills := [fill8 (some ([], 3, 500))] }) State.reset, _, _, _, _, _, rfl, rfl, by decide, by decide, by decide, rfl, by decide⟩
theorem witness_StreamEvents_expired : ∃ c line s f data halves lease, (coreOf s c).fills.filter (fun f => f.line == line && f.answer.isSome) = [f]
    ∧ f.answer = some (data, halves, lease) ∧ isleOf (128 * line) < 14 ∧ (c, line, true) ∉ s.stale ∧ f.byp = false ∧ lease ≤ s.now + 2 :=
  ⟨0, 8, coreS (fun k => { k with fills := [fill8 (some ([], 3, 2))] }) State.reset, _, _, _, _, rfl, rfl, by decide, by decide, rfl, by decide⟩
/-- A window over chunk 1 whose fill has been asked for. -/
def filling1 : State := { base with blocks := [(1, { mapped with chunks := [(1, { Chunk.reset with filling := some 1024 })] })] }
theorem witness_StreamEvents_window : ∃ block ch, ∃ s : State, ∃ b named pa, blockAt s block = some b ∧ (chunkOf b ch).filling = some named ∧ pa = redirect s named ∧ (windowAt b ch).isSome
    ∧ (∀ e ∈ s.staleWins, e.1 ≠ block ∨ e.2.1 ≠ ch) ∧ isleOf pa < 14 ∧ deviceHalves s (pa / 128) = 3 ∧ claimHeld s [pa] = false :=
  ⟨1, 1, filling1, _, 1024, _, rfl, by decide +kernel, rfl, by decide +kernel, by decide, by decide +kernel, by decide +kernel, by decide +kernel⟩

/-- An effect of core 0 at home 0, and a state with such effects. -/
def eff (k : EffectKind) (st : Stage) : Effect :=
  { id := 50, part := 0, grid := 1, tag := { core := 0, slot := 0, serial := 0, inc := 0 }, region := 5, home := 0, kind := k, stage := st, order := 3, entry := 1, ownClose := none,
    copy := none, slice := none, lane := false, store := true, seq := 0, place := 0 }
def effS (l : List Effect) : State := { base with effects := l, heard := [(0, 0), (12, 0)], nextId := 100 }
def write64 : EffectKind := .write [(64, 7), (65, 8)]
/-- The record of region 5 at home 0: closed long ago, or squashed. -/
def rec5 (c : Option (Nat × Nat)) (sq : Bool) : TagRec := { home := 0, tag := { core := 0, slot := 0, serial := 0, inc := 0 }, region := 5, close := c, squashed := sq, n := 1, arrived := 1 }
theorem witness_HomeEvents_arrives : ∃ id s e, s.effects.find? (fun x => x.id == id && x.stage == .flight) = some e ∧ olderFlight s e = false ∧ oldInc s e.tag = false
    ∧ frameHeld s (effectLocs e) = false ∧ effectOwned s e = false ∧ readsFirst s e = false ∧ ∀ u, u = modRecord s (recordHome e) e.region (fun r => { r with arrived := r.arrived + 1 }) →
      olderIngress u e s.nextId = false ∧ tagSquashed u e = false ∧ effectDue u e = false ∧ (freeEntry u e).isSome :=
  ⟨50, effS [eff write64 .flight], eff write64 .flight, rfl, by decide +kernel, by decide +kernel, by decide +kernel, by decide +kernel, by decide +kernel, fun u h => by subst h; decide +kernel⟩
theorem witness_HomeEvents_oldIncarnation : ∃ id s e, s.effects.find? (fun x => x.id == id && x.stage == .flight) = some e ∧ olderFlight s e = false ∧ oldInc s e.tag = true :=
  ⟨50, { effS [eff write64 .flight] with incs := [(0, 1)] }, eff write64 .flight, rfl, by decide +kernel, by decide +kernel⟩
theorem witness_HomeEvents_squashedTag : tagSquashed { effS [eff write64 .flight] with records := [rec5 none true] } (eff write64 .flight) = true := by decide +kernel
theorem witness_HomeEvents_accepted : ∃ home s e, (s.effects.filter fun x => x.home == home && x.stage == .ingress && !olderIngress s x x.order
      && (tagSquashed s x || effectDue s x || (freeEntry s x).isSome) && !effectOwned s x && !frameHeld s (effectLocs x)) = [e]
    ∧ tagSquashed s e = false ∧ effectDue s e = false := ⟨0, effS [eff write64 .ingress], eff write64 .ingress, by decide +kernel, by decide +kernel, by decide +kernel⟩
def msg (sq : Bool) : Msg := { home := 0, tag := { core := 0, slot := 0, serial := 0, inc := 0 }, region := 5, squash := sq, ec := 9, n := 1, w := 128, sent := some 10 }
theorem witness_HomeEvents_messages : nextMsg { base with msgs := [msg false] } 0 0 = some (msg false) ∧ nextMsg { base with msgs := [msg true] } 0 0 = some (msg true)
    ∧ oldInc { base with msgs := [msg true] } (msg true).tag = false ∧ recordFor { base with msgs := [msg true] } 0 5 = none := by decide +kernel
/-- A pending write and a pending add whose release tick has come, with the heartbeat of its die. -/
def dueS (k : EffectKind) : State := { effS [eff k .pending] with records := [rec5 (some (0, 100)) false], now := 1000, heard := [(0, 1000)] }
theorem witness_HomeEvents_release : dueEffects (dueS write64) 0 = [eff write64 .pending] ∧ (∀ x ∈ [((64 : Nat), (7 : Byte)), (65, 8)], isleOf x.1 < 14) ∧ eff write64 .pending ∈ (dueS write64).effects
    ∧ dueEffects (dueS (.add 64 1)) 0 = [eff (.add 64 1) .pending] := by decide +kernel
theorem witness_HomeEvents_credit : ∃ home core s r, s.records.find? (fun r => r.home == home && r.tag.core == core && recordOver s r) = some r ∧ waitingMsg s home core = none :=
  ⟨0, 0, { base with records := [rec5 (some (0, 100)) false], now := 1000 }, _, rfl, rfl⟩
theorem witness_HomeEvents_beats : State.reset.now % 8 = 0 ∧ nextBeat { base with beats := [(16, 8)] } 0 1 = some 0 ∧ nextBeat { base with beats := [(16, 8)], heard := [(16, 0)] } 0 1 = some 8
    ∧ mget ({ base with beats := [(16, 8)], heard := [(16, 0)], oldBeats := [(16, 8)] } : State).oldBeats (16 * 1 + 0) = some 8 := by decide +kernel
theorem witness_HomeEvents_completion : ∃ id s e gw past, s.effects.find? (fun x => x.id == id) = some e ∧ e.stage = .done gw past ∧ s.links = [] ∧ oldInc s e.tag = false ∧ e.copy = none ∧ e.slice = none
    ∧ past = false ∧ (strandOf s id).isSome := ⟨50, { vS (fun t => { t with effects := [50] }) with effects := [eff write64 (.done 7 false)] }, _, 7, false, rfl, rfl, rfl, by decide +kernel, rfl, rfl, rfl, by decide +kernel⟩
def link0 : LinkReq := { id := 60, core := 0, slot := 0, strand := true, addr := 0xE000000000040, op := 0, type := 6, value := 1, compare := 0, lane := 64, expect := none, result := none, refused := false }
theorem witness_HomeEvents_link : ∃ id, ∃ s : State, ∃ q, s.links.find? (fun q => q.id == id && q.result.isNone && !q.refused) = some q ∧ linkDone q 5 = true ∧ q.strand = true
    ∧ q.inc = mgetD s.incs (dieOf q.core) 0 :=
  ⟨60, { base with links := [link0] }, _, rfl, by decide +kernel, rfl, by decide +kernel⟩
/-- The same from before a reset of its die. -/
theorem witness_HomeEvents_linkOld : ∃ id, ∃ s : State, ∃ q, s.links.find? (fun q => q.id == id && q.result.isNone && !q.refused) = some q ∧ q.strand = true
    ∧ q.inc ≠ mgetD s.incs (dieOf q.core) 0 := ⟨60, { base with links := [link0], incs := [(0, 4)] }, _, rfl, rfl, by decide +kernel⟩
/-- A reduction that the link partner performs by compare and swap: before its first answer it has no expected value. -/
theorem witness_HomeEvents_linkAgain : linkDone { link0 with op := 1 } 5 = false := by decide +kernel

/-- The gang's state changed; its grid changed; its partition changed. -/
def gangS (f : Gang → Gang) : State := modGang base 0 1 f
def gridS (f : Grid → Grid) : State := modGrid base 0 1 f
def partS (f : Partition → Partition) (s : State) : State := modPart s 0 f
/-- A partition with a page table at 0x10000 whose one leaf maps the first GiB to itself. -/
def paged (s : State) : State :=
  { partS (fun x => { x with ptroot := 0x10001, record := (List.range 16).map (fun i => (i, -1)) }) s with
    mem := memWrite (memWrite (memWrite s.mem 0x10000 8 0x11001) 0x11000 8 0x12001) 0x12000 8 0xF }
theorem witness_walk : hubAddr (paged State.reset) 0 64 = some 64 ∧ hubAddr (paged base) 0 0x20000 = some 0x20000 := by decide +kernel

def savedS : State := gangS (fun g => { g with state := .saving }) |> fun s => putStrand s 0 0 { clear0 baseT with saving := true }
theorem witness_HubEvents_save : ∃ p g s launch x, gangAt s p g = some (launch, x) ∧ x.state = .saving ∧ maySave s g = true :=
  ⟨0, 1, savedS, 1, { fetchGang with state := .saving }, by decide +kernel, rfl, by decide +kernel⟩
theorem witness_HubEvents_preempt : gangAt base 0 1 = some (1, fetchGang) ∧ fetchGang.state = .resident
    ∧ (partAt (partS (fun x => { x with awaiting := [(0, 0)] }) base) 0).awaiting.contains (0, hearthOf 0) = true ∧ (partAt (partS (fun x => { x with withdraw := some 0 }) base) 0).withdraw.isSome := by decide +kernel
def doneGrid (g : Grid) : Grid := { g with gangs := [{ fetchGang with state := .retired }] }
theorem witness_HubEvents_retire : ∃ p g s y, gridAt s p g = some y ∧ gridEnded s y = true := ⟨0, 1, gridS doneGrid, doneGrid fetchGrid, by decide +kernel, by decide +kernel⟩
theorem witness_HubEvents_running : gridAt base 0 1 = some fetchGrid ∧ gridEnded base fetchGrid = false := by decide +kernel
/-- A retired grid at its steps, with a status word at 0x20000 and a counter at 0x20008. -/
def stepGrid (n : Nat) (a : Word) (g : Grid) : Grid := { doneGrid g with code := some 0, step := n, record := { g.record with saddr := a, ctr := if a = 0 then 0 else a + 8, amt := 2 } }
def atStep (n : Nat) (a : Word) : State := { paged (gridS (stepGrid n a)) with now := 50 }
theorem witness_HubEvents_status : gridAt (atStep 1 0) 0 1 = some (stepGrid 1 0 fetchGrid) ∧ gridSettled (atStep 1 0) (stepGrid 1 0 fetchGrid) = true
    ∧ gridAt (atStep 1 0x20000) 0 1 = some (stepGrid 1 0x20000 fetchGrid) ∧ gridSettled (atStep 1 0x20000) (stepGrid 1 0x20000 fetchGrid) = true
    ∧ hubAddr (atStep 1 0x20000) 0 0x20000 = some 0x20000 ∧ isleOf 0x20000 < 14 ∧ hubWaits (atStep 1 0x20000) 0 0x20000 8 = false := by decide +kernel
theorem witness_HubEvents_counter : gridAt (atStep 2 0) 0 1 = some (stepGrid 2 0 fetchGrid) ∧ gridAt (atStep 2 0x20000) 0 1 = some (stepGrid 2 0x20000 fetchGrid)
    ∧ (stepGrid 2 0x20000 fetchGrid).gwct < 50 ∧ hubAddr (atStep 2 0x20000) 0 0x20008 = some 0x20008 ∧ hubWaits (atStep 2 0x20000) 0 0x20008 8 = false ∧ memNat (atStep 2 0x20000).mem 0x20008 8 + 2 < 2 ^ 64
    ∧ (stepGrid 2 0x20000 { fetchGrid with gwct := 50 }).gwct = 50 := by decide +kernel
theorem witness_HubEvents_periodic : mget (partAt (partS (fun x => { x with heldAt := [(5, 3)] }) { headS State.reset with now := 10003 }) 0).heldAt 5 = some 3
    ∧ hearthOffers (partS (fun x => { x with heldAt := [(5, 3)] }) { headS State.reset with now := 10003 }) 0 5 = true := by decide +kernel
/-- A gang whose quantum of 10 has passed, while queue 7 holds a record. -/
def quantumS (n : Nat) : State :=
  let q : QueueBlock := { queueOf (partAt base 0) 7 with records := [{ record := fetchRecord, arrived := 0, depth := 0, parent := 0 }] }
  partS (fun x => { x with dpquant := 10, queues := [(7, q)] }) { base with now := n }
theorem witness_HubEvents_quantum : gangAt (quantumS 10) 0 1 = some (1, fetchGang) ∧ gridAt (quantumS 10) 0 1 = some fetchGrid ∧ quantumDue (quantumS 10) 0 fetchGang = true
    ∧ quantumDue (quantumS 9) 0 fetchGang = false := by decide +kernel
def eventS (w : List (BitVec 16)) : State := partS (fun x => { x with events := [ev0], policy := w }) State.reset
theorem witness_HubEvents_decision : (partAt (eventS [0x10D4]) 0).interp = none ∧ (partAt (eventS [0x10D4]) 0).events ≠ [] ∧ nextEvent (partAt (accrueAll (eventS [0x10D4]) 0) 0) = some ev0
    ∧ nextEvent (partAt (accrueAll (eventS []) 0) 0) = some ev0
    ∧ beginWaits (eventS [0x10D4]) 0 = false ∧ beginWaits (eventS []) 0 = false := by decide +kernel
theorem witness_HubEvents_overrun : damperOver (dI ev0 fun r => { r with cycles := 512 }) = true ∧ damperOver (dI ev0 fun r => { r with cycles := 511 }) = false
    ∧ damperOver (dI ev0 fun r => { r with policy := [0xF800] }) = true
    ∧ decisionWaits (dS ev0 (fun r => { r with cycles := 512 }) id) 0 (dI ev0 fun r => { r with cycles := 512 }) none = false := by decide +kernel
/-- A port that is up and serves partition 0; and one that holds the semaphore. -/
def host0 : HostAccess := { port := 0, tee := false }
def hostS (s : State) : State := { s with ports := [(0, { portAt s 0 with up := true, pserve := 1 })], owner := 1 }
theorem witness_HubEvents_load : vfOrOwner (hostS State.reset) host0 0 = true ∧ vfOrOwner State.reset { port := 2, tee := false } 0 = false := by decide +kernel
theorem witness_HubEvents_check : (partAt (partS (fun x => { x with checking := some (0x20000, 2, 0) }) (paged base)) 0).checking = some (0x20000, 2, 0)
    ∧ hubWaits (partS (fun x => { x with checking := some (0x20000, 2, 0) }) (paged base)) 0 0x20000 2824 = false := by decide +kernel
theorem witness_HubEvents_filler : gangAt (gangS fun g => { g with filler := true }) 0 1 = some (1, { fetchGang with filler := true })
    ∧ (partAt (partS (fun x => { x with withdraw := some 0 }) (gangS fun g => { g with filler := true })) 0).withdraw.isSome := by decide +kernel
def account0 : Account := { Account.reset with refill := 5, period := 10, cap := 3, refillAt := 20 }
theorem witness_HubEvents_account : accountOf (partAt (accrue (partS (fun x => { x with accounts := [(1, account0)] }) { base with now := 20 }) 0 1) 0) 1 = { account0 with upto := 20, gross := [(15, 0)], net := [(15, 0)] }
    ∧ (accountOf (partAt (partS (fun x => { x with accounts := [(1, account0)] }) { base with now := 20 }) 0) 1).period ≠ 0 := by decide +kernel
def itemsS (n : Nat) : State := gridS (fun g => { g with record := { g.record with iqfirst := 7, iqcount := 200 } }) |> coreS fun k => { k with itemGrid := some (0, 1), items := List.replicate n 0 }
theorem witness_HubEvents_items : (coreOf (itemsS 0) 0).itemGrid = some (0, 1) ∧ (gridAt (itemsS 0) 0 1).isSome ∧ (coreOf (itemsS 0) 0).items.length < 128 ∧ 128 ≤ (coreOf (itemsS 128) 0).items.length
    ∧ (gridAt (itemsS 0) 0 1).map (fun g => g.returned) = some [] := by decide +kernel
theorem witness_HubEvents_spsize : (List.range 16).find? (fun p => holdsHearth (partAt (headS State.reset) p) (hearthOf 23)) = some 0 ∧ gangsOn (headS State.reset) 22 = []
    ∧ (coreOf (headS State.reset) 22).l1 = [] ∧ (coreOf (headS State.reset) 22).spsize ≠ (partAt (headS State.reset) 0).spsize := by decide +kernel
def exitedT (t : Strand) : Strand := { clear0 t with exited := true }
theorem witness_HubEvents_freed : strandAt (vS exitedT) 0 0 = some (vT exitedT) ∧ mayFree (vT exitedT) = true ∧ heldBy (vS exitedT) 0 (vT exitedT).block = false ∧ mayFree baseT = false
    ∧ (∀ e ∈ (vS exitedT).strands, e.2.gang = (vT exitedT).gang → e.1 = skey 0 0) ∧ (gangAt (vS exitedT) 0 1).isSome := ⟨rfl, rfl, by decide +kernel, rfl, by decide +kernel, by decide +kernel⟩
def griddleExit (run : Bool) : State := { mS 0 (fun g => { g with run := run, segs := if run then g.segs else [] }) with strands := (vS exitedT).strands }
theorem witness_HubEvents_griddle : (coreOf (griddleExit true) 0).griddle.held = true ∧ blockStrands (griddleExit true) 0 (coreOf (griddleExit true) 0).griddle.holder = [(0, vT exitedT)]
    ∧ (coreOf (griddleExit true) 0).griddle.run = true ∧ (coreOf (griddleExit false) 0).griddle.run = false ∧ ∀ x ∈ (coreOf (griddleExit false) 0).griddle.segs, x.cleared = true := by
  refine ⟨by decide +kernel, by decide +kernel, by decide +kernel, by decide +kernel, by decide +kernel⟩

/-- A copy of 4 KiB from 0x20000 to 0x30000 on engine 0, with a counter at 0x40000. -/
def copy9 : Copy :=
  { id := 9, part := 0, grid := 1, gang := 1, acct := 0, core := 0, slot := 0, number := 0, tag := { core := 0, slot := 0, serial := 0, inc := 0 }, region := 5, src := 0x20000, dst := 0x30000, rowb := 8,
    rows := 1, sstr := 0, dstr := 0, ctr := 0x40000, amt := 1, engine := 0, started := false, active := false, suspended := false, paused := false, readN := 0, staged := [], failAt := none,
    cleared := none, chunks := 0, awaits := [], gwct := 0, added := false, status := 0, donek := 0, done := false, raised := [] }
def copyS (f : Copy → Copy) : State := { paged base with copies := [f copy9], now := 50 }
theorem witness_CopyEvents_start : copyAt (copyS id) 9 = some copy9 ∧ hearthStopped (copyS id) copy9.engine = false ∧ copyWaits copy9 = true
    ∧ (((copyS id).copies.filter fun z => z.engine == copy9.engine && copyWaits z).head?.map fun z => z.id) = some 9
    ∧ ((copyS id).copies.filter fun z => z.engine == copy9.engine && z.active).length < 8 := by decide +kernel
def runningCopy (y : Copy) : Copy := { y with started := true, active := true }
theorem witness_CopyEvents_staged : copyAt (copyS runningCopy) 9 = some (runningCopy copy9) ∧ min 4096 (copy9.rowb * copy9.rows - copy9.readN) = 8 ∧ stagedBytes (copyS runningCopy) 0 + 8 ≤ 262144
    ∧ hasTurn (copyS runningCopy) (fun z => z.readTurn) (readReady (copyS runningCopy)) (runningCopy copy9) = true
    ∧ ∀ i, i < 8 → isOk (engineLoc (copyS runningCopy) (runningCopy copy9) (copySrc (runningCopy copy9) (0 + i)) .read) (0x20000 + i) = true ∧ isScratch (0x20000 + i) = false ∧ (0x20000 + i) / 64 ∉ (copyS runningCopy).owned := by
  refine ⟨by decide +kernel, by decide, by decide +kernel, by decide +kernel, by decide +kernel⟩
/-- From a page that nothing maps. -/
theorem witness_CopyEvents_fault : isErr (engineLoc (copyS fun y => { runningCopy y with src := 0x40000000 }) { runningCopy copy9 with src := 0x40000000 } 0x40000000 .read) 1 = true := by decide +kernel
def wholeCopy (y : Copy) : Copy := { runningCopy y with readN := 8, staged := [(0, 1), (7, 2)], cleared := some (3, 4, 5) }
theorem witness_CopyEvents_chunk : copyAt (copyS wholeCopy) 9 = some (wholeCopy copy9) ∧ 0 + 8 ≤ (wholeCopy copy9).readN ∧ (wholeCopy copy9).failAt = none ∧ (wholeCopy copy9).cleared.isSome
    ∧ hasTurn (copyS wholeCopy) (fun z => z.turn) (writeReady (copyS wholeCopy)) (wholeCopy copy9) = true
    ∧ ∀ e ∈ (wholeCopy copy9).staged, isOk (engineLoc (copyS wholeCopy) (wholeCopy copy9) (copyDst (wholeCopy copy9) e.1) .write) (0x30000 + e.1) = true ∧ isScratch (0x30000 + e.1) = false := by decide +kernel
def sentCopy (y : Copy) : Copy := { wholeCopy y with chunks := 1, staged := [] }
theorem witness_CopyEvents_add : copyAt (copyS sentCopy) 9 = some (sentCopy copy9) ∧ (sentCopy copy9).awaits = [] ∧ (sentCopy copy9).gwct < 50 ∧ (sentCopy copy9).chunks = copyChunks (sentCopy copy9)
    ∧ isOk (engineLoc (copyS sentCopy) (sentCopy copy9) (sentCopy copy9).ctr .write) 0x40000 = true ∧ isScratch 0x40000 = false ∧ isleOf 0x40000 < 14 := by decide +kernel
/-- A counter in the aperture of the block, whose window has not passed. -/
def ownCopy (y : Copy) : Copy := { sentCopy y with ctr := 0xFF80000000400010, cleared := some (60, 4, 5), block := 1 }
theorem witness_CopyEvents_early : isOk (engineLoc (copyS ownCopy) (ownCopy copy9) (ownCopy copy9).ctr .write) (scratchLoc 1 16) = true ∧ isScratch (scratchLoc 1 16) = true
    ∧ scratchDue (copyS ownCopy) (ownCopy copy9) (scratchLoc 1 16) = false := by decide +kernel
/-- A copy that failed at its chunk 1, and one without a counter. -/
theorem witness_CopyEvents_ends : copyAt (copyS fun y => { sentCopy y with failAt := some (1, 2) }) 9 = some { sentCopy copy9 with failAt := some (1, 2) }
    ∧ copyAt (copyS fun y => { sentCopy y with ctr := 0 }) 9 = some { sentCopy copy9 with ctr := 0 } := by decide +kernel
def sealedT (t : Strand) : Strand := { t with batches := [{ number := 3, copies := [9], sealed := true, reg := 10, region := 1, token := none, read := false }] }
def sealedS (st : Nat) : State := { vS sealedT with copies := [{ copy9 with done := true, status := st, donek := 4 }] }
theorem witness_CopyEvents_token : ∃ c l num s t b, strandAt s c l = some t ∧ t.batches.find? (fun b => b.number == num && b.sealed && b.token.isNone) = some b
    ∧ (∀ k ∈ b.copies, ∀ z, copyAt s k = some z → z.done = true) ∧ ∀ k ∈ b.copies, ∀ z, copyAt s k = some z → z.status = 0 := by
  have e : copyAt (sealedS 0) 9 = some { copy9 with done := true, status := 0, donek := 4 } := by decide +kernel
  exact ⟨0, 0, 3, sealedS 0, _, _, rfl, rfl, fun k hk z hz => by cases List.mem_singleton.1 hk; rw [e] at hz; cases hz; rfl,
    fun k hk z hz => by cases List.mem_singleton.1 hk; rw [e] at hz; cases hz; rfl⟩
theorem witness_CopyEvents_failed : copyAt (sealedS 2) 9 = some { copy9 with done := true, status := 2, donek := 4 } := by decide +kernel

/-- Port 0 free of the semaphore; the semaphore with port 1, taken at this tick. -/
theorem witness_HostEvents_semaphore : portQuiet { hostS State.reset with owner := 0 } host0 = true ∧ ownsSem (hostS State.reset) host0 = true
    ∧ portQuiet { hostS State.reset with owner := 2, takeAt := some 0 } host0 = true ∧ portQuiet State.reset { port := 2, tee := false } = false := by decide +kernel
theorem witness_HostEvents_write : vfAnswers (hostS (paged base)) host0 0 = true ∧ teeOk (hostS (paged base)) host0 0 = true
    ∧ hostAddrs (hostS (paged base)) 0 0x2007F 2 .write = some [0x2007F, 0x20080] ∧ (∀ x ∈ [0x2007F, 0x20080], isleOf x ≠ 14)
    ∧ (∀ e ∈ splitLines [0x2007F, 0x20080] [1, 2], routeOf (hostS (paged base)) e.1 < 12 → portEntries (portAt (hostS (paged base)) 0) (routeOf (hostS (paged base)) e.1)
      + ((splitLines [0x2007F, 0x20080] [1, 2]).filter fun f => routeOf (hostS (paged base)) f.1 == routeOf (hostS (paged base)) e.1).length ≤ 512)
    ∧ (∀ e ∈ splitLines [0x2007F, 0x20080] [1, 2], sharedUsed (hostS (paged base)) (routeOf (hostS (paged base)) e.1)
      + ((splitLines [0x2007F, 0x20080] [1, 2]).filter fun f => routeOf (hostS (paged base)) f.1 == routeOf (hostS (paged base)) e.1).length ≤ 2048)
    ∧ hostAddrs (hostS (paged base)) 0 0x40000000 2 .write = none ∧ hubWaits (hostS (paged base)) 0 0x40000000 2 = false := by decide +kernel
def pieceS (d : Bool) : State := { base with ports := [(1, { portAt base 1 with up := true, pieces := [{ seq := 0, route := 0, bytes := [(64, 7)], performed := d }] })] }
theorem witness_HostEvents_piece : nextPiece (portAt (pieceS false) 1) 0 = some { seq := 0, route := 0, bytes := [(64, 7)], performed := false } ∧ isleOf 64 < 14 ∧ frameHeld (pieceS false) [64] = false := by decide +kernel
theorem witness_HostEvents_ack : ∃ x ∈ (portAt (pieceS true) 1).pieces, x.route = 0 ∧ ∀ y ∈ (portAt (pieceS true) 1).pieces, y.route = 0 → y.seq = x.seq → y.performed = true := by
  refine ⟨{ seq := 0, route := 0, bytes := [(64, 7)], performed := true }, by decide +kernel, rfl, by decide +kernel⟩
theorem witness_HostEvents_read : portQuiet (hostS (paged base)) host0 = true ∧ vfAnswers (hostS (paged base)) host0 0 = true ∧ teeOk (hostS (paged base)) host0 0 = true
    ∧ hostAddrs (hostS (paged base)) 0 0x20000 1 .read = some [0x20000] ∧ hostAddrs (hostS (paged base)) 0 0x40000000 1 .read = none
    ∧ hubWaits (hostS (paged base)) 0 0x20000 1 = false ∧ hubWaits (hostS (paged base)) 0 0x40000000 1 = false := by decide +kernel
/-- A function whose interface is locked on port 0 refuses a request without the TEE bit. -/
def lockedS (st : TdispState) : State := partS (fun x => { x with tdisp := { Tdisp.reset with state := st, nonce := 5 } }) (hostS (paged base))
theorem witness_HostEvents_tee : portQuiet (lockedS .locked) host0 = true ∧ vfAnswers (lockedS .locked) host0 0 = true ∧ teeOk (lockedS .locked) host0 0 = false := by decide +kernel
/-- The first half of isle 12. -/
def half12 : Nat := 12 * 2 ^ 48 / 64
theorem witness_HostEvents_halves : exposes State.reset 0 half12 = true ∧ half12 ∉ State.reset.owned ∧ halfPending State.reset half12 = false ∧ exposes State.reset 2 half12 = false
    ∧ bankOf (headS State.reset) half12 = some 0 ∧ ((headS State.reset).owned.filter fun h => bankOf (headS State.reset) h == some 0).length = 0
    ∧ exposes { State.reset with owned := [half12] } 0 half12 = true := by decide +kernel

theorem witness_HostEvents_room : movedHalf State.reset half12 = half12 ∧ halfClaimed State.reset half12 = false ∧ mget ({ State.reset with owned := [half12], ownedBy := [(half12, 0)] } : State).ownedBy half12 = some 0
    ∧ mget ({ State.reset with owned := [half12], ownedBy := [(half12, 0)] } : State).ownedBy half12 ≠ some 1 := by decide +kernel
/-- A bank that holds more halves than it has room for. -/
theorem witness_HostEvents_fullBank : ∃ s : State, half12 ∉ s.owned ∧ bankOf s half12 = some 0
    ∧ Config.snoopRoom 0 < (s.owned.filter fun h => bankOf s h == some 0).length := by
  refine ⟨{ headS State.reset with owned := List.replicate (Config.snoopRoom 0 + 1) (half12 + 1) }, ?_, by decide +kernel, ?_⟩
  · intro h; exact absurd (List.eq_of_mem_replicate h) (by decide)
  · have e : ∀ l, (bankOf { headS State.reset with owned := l } (half12 + 1) == some 0) = true := fun l => by
      show (bankOf (headS State.reset) (half12 + 1) == some 0) = true; decide +kernel
    show _ < (List.filter _ (List.replicate _ _)).length
    rw [List.filter_replicate, if_pos (e _), List.length_replicate]; omega

theorem witness_TranslationEvents_walk : (∃ e ∈ (paged base).blocks, e.2.core = 0 ∧ e.2.part = 0) ∧ canonical 0x20000 = true ∧ inAperture 0x20000 = false
    ∧ tlbHit (paged base) 0 0 0x20000 = none ∧ isOk (walk (paged base) 0 0x20000) { part := 0, vbase := 0, size := 0x40000000, pbase := 0, w := true, x := true, lease := Config.transLease } = true
    ∧ (tlbHit base 0 0 64).isSome ∧ isErr (walk (paged base) 0 0x40000000) cTranslation = true := by
  refine ⟨⟨(1, fetchBlock), .head _, rfl, rfl⟩, by decide +kernel, by decide +kernel, by decide +kernel, by decide +kernel, by decide +kernel, by decide +kernel⟩
theorem witness_TranslationEvents_function : vfMay (hostS (paged base)) host0 0 = true ∧ vfMay State.reset host0 0 = false := by decide +kernel
/-- A move of the frame 0x100000 of isle 12, whose entry stands at 0x20000, to the frame 0x200000 of isle 12. -/
def i12 : Nat := 12 * 2 ^ 48
def move0 (sw : Option Nat) : Move := { src := i12 + 0x100000, dst := i12 + 0x200000, entry := 0x20000, old := BitVec.ofNat 64 (i12 + 0x100000 + 0xF), order := 7, switch := sw, drain := 30 }
def moveS (sw : Option Nat) (n : Nat) : State :=
  { partS (fun x => { x with move := some (move0 sw), mstate := 1 }) (paged base) with mem := memWrite (paged base).mem 0x20000 8 (i12 + 0x100000 + 0xF), now := n }
theorem witness_TranslationEvents_move : moveReason State.reset 0 0x20001 (i12 + 0x200000) = 1 ∧ moveReason { base with mem := memWrite [] 0x20000 8 (i12 + 0x100000 + 7) } 0 0x20000 (i12 + 0x200000) = 0 := by decide +kernel
theorem witness_TranslationEvents_switch : (partAt (moveS none 0) 0).move = some (move0 none) ∧ moveReady (moveS none 0) (move0 none) = true ∧ memNat (moveS none 0).mem 0x20000 8 = (move0 none).old.toNat
    ∧ (moveS none 0).mem.wf = true ∧ (move0 none).dst < 2 ^ 52 := by decide +kernel
theorem witness_TranslationEvents_drain : (partAt (moveS (some 5) 31) 0).move = some (move0 (some 5)) ∧ (move0 (some 5)).drain < 31 := by decide +kernel
def retireS (sw : Option Nat) (n : Nat) : State := { base with retire := { base.retire with move := some (move0 sw), state := 1 }, now := n }
theorem witness_TranslationEvents_retire : (retireS none 0).retire.move = some (move0 none) ∧ moveReady (retireS none 0) (move0 none) = true ∧ (retireS (some 5) 31).retire.move = some (move0 (some 5))
    ∧ portQuiet (hostS base) host0 = true ∧ ownsSem (hostS base) host0 = true ∧ (hostS base).retire.state ≠ 1 ∧ retireReason (hostS base) 0x30000 = 0
    ∧ retireReason (hostS base) (14 * 2 ^ 48) = 2 := by decide +kernel

/-- The strand that the debugger names, halted. -/
def haltT (t : Strand) : Strand := { t with halted := true }
def haltS : State := hostS (partS (fun x => { x with dgrid := 1, dstrand := 0 }) (paged (vS haltT)))
theorem witness_RegisterEvents_step : strandAt haltS 0 0 = some (vT haltT) ∧ blockAt haltS (vT haltT).block = some fetchBlock ∧ haltS.strands = [(skey 0 0, vT haltT)] ∧ vfMay haltS host0 0 = true
    ∧ (vT haltT).grid = (partAt haltS 0).dgrid.toNat ∧ (vT haltT).number = (partAt haltS 0).dstrand.toNat / 2 ^ 32 ∧ fetchBlock.number = (partAt haltS 0).dstrand.toNat % 2 ^ 32
    ∧ (partAt haltS 0).lstep = false := by decide +kernel
theorem witness_RegisterEvents_push : (pushStatus (hostS (paged base)) 0 7 0x20001).1 = 4 ∧ (pushStatus (hostS (paged base)) 0 7 0x40000000).1 = 6 ∧ vfMay (hostS (paged base)) host0 0 = true
    ∧ (queueOf (partAt (hostS (paged base)) 0) 7).todo = [] ∧ recordWaits (hostS (paged base)) 0 7 (0x20001, 0) = false := by decide +kernel
/-- A sound record at 0x20000, which enters queue 7; and the same record in a half that a host owns. -/
def pushS (own : List Nat) : State := { hostS (paged base) with mem := memWrite (paged base).mem 0x20000 256 (4 * 2 ^ 192 + 2 ^ 288 + 7 * 2 ^ 332 + 2 ^ 344), owned := own }
theorem witness_RegisterEvents_pushed : (pushStatus (pushS []) 0 7 0x20000).1 = 0 ∧ recordWaits (pushS []) 0 7 (0x20000, 0) = false ∧ recordWaits (pushS [0x20000 / 64]) 0 7 (0x20000, 0) = true := by decide +kernel

theorem witness_RegisterEvents_parked : gridAt (hostS (gridS fun g => { g with parked := true })) 0 1 = some { fetchGrid with parked := true } ∧ vfMay (hostS (gridS fun g => { g with parked := true })) host0 0 = true := by decide +kernel
theorem witness_RegisterEvents_spsize : min (spLimit (partAt (paged base) 0)) 16 = 16 ∧ vfMay (hostS (paged base)) host0 0 = true := by decide +kernel
def stagedS (w : Word) : State := hostS (partS (fun x => { x with staged := mset x.staged 0 w }) (paged State.reset))
theorem witness_RegisterEvents_commit : portQuiet (stagedS 0) host0 = true ∧ ownsSem (stagedS 0) host0 = true ∧ ownsSem { stagedS 0 with owner := 2 } host0 = false ∧ (partAt (stagedS 0) 0).busy = false := by decide +kernel
/-- A record without validity, staged over none: a change that may be made. -/
def freshStaged : State := hostS (partS (fun x => { x with staged := [(1, 1)] }) State.reset)
theorem witness_RegisterEvents_commitOk : recNat (partAt freshStaged 0).staged ≠ recNat (partAt freshStaged 0).record ∧ commitReason freshStaged 0 = 0 := by decide +kernel
theorem witness_RegisterEvents_handover : ∃ p s r, r ∈ (partAt s p).awaiting ∧ recValid (partAt s p) = false ∧ mayHandOver s p r = true :=
  ⟨0, partS (fun x => { x with awaiting := [(0, 4)] }) State.reset, (0, 4), by decide +kernel, by decide +kernel, by decide +kernel⟩
theorem witness_RegisterEvents_hearth : hearthAt State.reset 191 = HearthStep.reset ∧ HearthStep.reset.pend = false ∧ HearthStep.reset.step.toNat ≠ 11
    ∧ (hearthAt { State.reset with hearths := [(191, { HearthStep.reset with pend := true, target := 2 })] } 191).pend = true := by decide +kernel
theorem witness_RegisterEvents_firmware : (hostS State.reset).fw.state ≠ 2 ∧ ({ hostS State.reset with fw := { State.reset.fw with state := 2 } } : State).fw.state = 2
    ∧ (∀ p, p < 16 → frozen (hostS State.reset) p = false) ∧ frozen (lockedS .locked) 0 = true := by decide +kernel
theorem witness_RegisterEvents_places : (functionRegister (.trec 0 63) 5).isSome ∧ (functionRegister (.trapTable 0 15 3) 5).isSome ∧ (damperRegister (.dpquant 15) 9).isSome
    ∧ (packageRegister (.recordWord 15 15) 1).isSome ∧ (packageRegister (.cxlRole 3) 1).isSome ∧ vfOrOwner (hostS State.reset) host0 0 = true := ⟨rfl, rfl, rfl, rfl, rfl, by decide +kernel⟩

theorem witness_LinkEvents_straits : (straitAt { State.reset with straits := [(57, { straitAt State.reset 57 with up := true, lanes := 8, width := 8 })] } 57).up = true
    ∧ 0 < (straitAt { State.reset with straits := [(57, { straitAt State.reset 57 with up := true, lanes := 8, width := 8 })] } 57).lanes
    ∧ (straitAt { State.reset with straits := [(57, { straitAt State.reset 57 with lanes := 8, retraining := some 0 })] } 57).retraining.isSome := by decide +kernel
/-- A sum over two ranks of one integer, in group 3; its chunk; and its completion add. -/
def desc0 : CollDesc := { part := 0, grid := 1, acct := 0, op := 0, dtype := 3, group := 3, attempt := 0, src := 0x20000, dst := 0x30000, count := 1, ctr := 0x40000, amt := 1, root := 0, doneN := 0, gwct := 0, aborted := false, raised := [] }
def group3 : Group := { owner := 0, ranks := 2, rank := 1, straits := 3, attempt := 0 }
def collS (f : CollDesc → CollDesc) (n : Nat) : State := { paged base with channels := [(2, { descs := [f desc0], moved := 0, stalled := false })], groups := [(3, group3)], now := n }
theorem witness_LinkEvents_chunk : (mgetD (collS id 50).channels 2 Channel.reset).descs = [desc0] ∧ chunkWhole desc0 (groupAt (collS id 50) 3) [[1, 0, 0, 0], [2, 0, 0, 0]] = true
    ∧ (collChunk (collS id 50) desc0 (groupAt (collS id 50) 3) [[1, 0, 0, 0], [2, 0, 0, 0]] (chunkLength desc0 [[1, 0, 0, 0], [2, 0, 0, 0]])).isSome
    ∧ chunkWaits (collS id 50) desc0 (groupAt (collS id 50) 3) (chunkLength desc0 [[1, 0, 0, 0], [2, 0, 0, 0]]) = false
    ∧ chunkWaits { collS id 50 with owned := [0x20000 / 64] } desc0 (groupAt (collS id 50) 3) (chunkLength desc0 [[1, 0, 0, 0], [2, 0, 0, 0]]) = true := by decide +kernel
theorem witness_LinkEvents_add : collTotal { desc0 with doneN := 1 } group3 ≤ 1 ∧ hubAddr (collS (fun d => { d with doneN := 1 }) 50) 0 0x40000 = some 0x40000 ∧ desc0.gwct < 50
    ∧ hubWaits (collS (fun d => { d with doneN := 1 }) 50) 0 0x40000 8 = false ∧ triggersWait (collS (fun d => { d with doneN := 1 }) 50) 0 = false := by decide +kernel
theorem witness_LinkEvents_stall : (mgetD (collS id 2000).channels 2 Channel.reset).stalled = false ∧ (mgetD (collS id 2000).channels 2 Channel.reset).moved + 2000 ≤ 2000 := by decide +kernel
theorem witness_LinkEvents_packet : (1 : Nat) < (groupAt { State.reset with groups := [(3, { group3 with attempt := 2 })] } 3).attempt.toNat := by decide +kernel
theorem witness_LinkEvents_abort : vfMay (hostS (collS id 0)) host0 0 = true ∧ (groupAt (partS (fun x => { x with gsel := 3 }) (collS id 0)) 3).owner = 0 ∧ (groupAt (collS id 0) 3).attempt.toNat + 1 < 2 ^ 32 := by decide +kernel

theorem witness_ModuleEvents_die : dieOwned State.reset 7 = false ∧ (∀ d ∈ State.reset.drains, d.die ≠ 7) ∧ ∃ d ∈ ({ State.reset with drains := [{ die := 7, since := 0 }], now := 100000 } : State).drains, d.die = 7 ∧ d.since + 100000 ≤ 100000 := by
  refine ⟨by decide +kernel, by decide, _, .head _, rfl, by decide⟩
theorem witness_ModuleEvents_ptp : State.reset.ptp.locked = false ∧ ({ State.reset with ptp := { State.reset.ptp with locked := true, err := 2000000 }, now := State.reset.telNext } : State).ptp.err.toInt.natAbs > 1000000 := by decide +kernel
theorem witness_ModuleEvents_ramp : ({ State.reset with ramp := { State.reset.ramp with level := some 5 }, now := 1000 } : State).ramp.last ≠ 1000 ∧ 1000 < State.reset.telNext + Config.telemetryPeriod := by decide +kernel
theorem witness_ModuleEvents_telemetry : (closePeriod State.reset).telWait ≠ [] := by decide +kernel
theorem witness_ModuleEvents_replay : (qcfgAt { State.reset with qcfg := [(7, { Qcfg.reset with replayTh := 1 })], hearths := [(191, { HearthStep.reset with replays := 1 })] } 7).replayTh.toNat ≠ 0 := by decide +kernel
theorem witness_ModuleEvents_verify : imageReason { State.reset with fw := { State.reset.fw with state := 1 } } ≠ 0 ∧ imageOwned { State.reset with fw := { State.reset.fw with state := 1 } } = false := by decide +kernel
theorem witness_ModuleEvents_interfaces : portQuiet (lockedS .unlocked) host0 = true ∧ vfAnswers (lockedS .unlocked) host0 0 = true ∧ (partAt (lockedS .unlocked) 0).tdisp.state = .unlocked
    ∧ (partAt (lockedS .locked) 0).tdisp.state = .locked ∧ (partAt (lockedS .locked) 0).tdisp.nonce = 5 ∧ frozen (lockedS .run) 0 = true ∧ (partAt (lockedS .error) 0).tdisp.state = .error
    ∧ (partAt (lockedS .error) 0).tdisp.acted = false := by decide +kernel

/-! Witnesses of the clauses that say what a decision, a migration, a register or a reset does. -/

/-- A float constant of a type other than FP32, and an integer constant of a float type. -/
theorem witness_LaneOperandValues_floats : (typeFloat 9).isSome ∧ (1 : Nat) < typeCount 9 ∧ fieldOf (plainFields 0x20 9 10 857 784 861 0 0) 0 = 857 ∧ fieldOf (plainFields 0x20 9 10 857 784 861 0 0) 1 = 784
    ∧ fieldOf (plainFields 0x20 9 10 848 849 847 0 0) 0 = 848 ∧ fieldOf (plainFields 0x20 9 10 848 849 847 0 0) 2 = 847 := by decide +kernel
/-- Traps of a word of the memory family and of a conversion. -/
theorem witness_LaneTraps_other : laneOtherUse (.vld (plainFields 0x80 1 10 4 0 0 0x10 0)) = some (memWord (plainFields 0x80 1 10 4 0 0 0x10 0), fun _ => loadUse (plainFields 0x80 1 10 4 0 0 0x10 0) false)
    ∧ laneChecks (loadUse (plainFields 0x80 1 768 4 0 0 0x10 0) false) (laneCtx 0 0 (laneT id) laneR (memWord (plainFields 0x80 1 768 4 0 0 0x10 0))) (memWord (plainFields 0x80 1 768 4 0 0 0x10 0)) = some (0x03, 2 ^ 64 - 1)
    ∧ laneReject (memWord (plainFields 0x80 1 768 4 0 0 0x10 0)) = none ∧ (laneOtherUse (.vscl (plainFields 0x55 8 10 4 0 0 0 0))).isSome
    ∧ laneChecks { srcs := [0], mods := [0], legal := slotKind 0 != 0 } (laneCtx 0 0 (laneT id) laneR (plainFields 0x55 8 10 4 0 0 0 0)) (plainFields 0x55 8 10 4 0 0 0 0) = some (0x03, 2 ^ 64 - 1) :=
  ⟨rfl, by decide +kernel, by decide +kernel, rfl, by decide +kernel⟩
/-- A page of host memory, which every lane's address names; before the requests, and with the answer of a sum. -/
def hostTrans : Trans := { fetchTrans with vbase := 65536, pbase := 14 * 2 ^ 48 }
def laneHost (t : Strand) : Strand := { laneCleared t with ln := { t.ln with vregs := (List.range 64).map fun k => (256 + k, 65536) } }
def hostedS (l : List LinkReq) : State := { lS laneHost with cores := [(0, { coreOf (lS laneHost) 0 with tlb := [fetchTrans, hostTrans] })], links := l }
def hostLocs : List Nat := (List.range 4).map fun i => 14 * 2 ^ 48 + i
def sumWord : LaneFields := plainFields 0x84 1 10 4 5 0 0 0
theorem witness_LaneAtomics_host : LaneReady (atomUse sumWord false) (memWord sumWord) (hostedS []) 0 0 (laneT laneHost) laneR
    ∧ LaneMemFree (hostedS []) (laneCtx 0 0 (laneT laneHost) laneR (memWord sumWord)) none
    ∧ laneAccesses (hostedS []) (laneCtx 0 0 (laneT laneHost) laneR (memWord sumWord)) sumWord 4 .write true true true = .ok (allAt hostLocs)
    ∧ atHost (hostLocs.headD 0) = true ∧ atomBlocked (keepLanes (hostedS []) (laneCtx 0 0 (laneT laneHost) laneR (memWord sumWord)) sumWord 4)
        (laneCtx 0 0 (laneT laneHost) laneR (memWord sumWord)) hostLocs = false
    ∧ (hostLocs.any (hostDropped (hostedS []) 0)) = false ∧ (hostedS []).links = [] :=
  ⟨(laneReady _ _ _).other _, by unfold LaneMemFree; decide +kernel, ok_of (by decide +kernel), by decide +kernel, by decide +kernel, by decide +kernel, rfl⟩
theorem witness_LaneAtomics_answered : ∃ q ∈ (hostedS [{ link0 with core := 0, slot := 0, strand := true, addr := 14 * 2 ^ 48, lane := 0, result := some 9 }]).links,
    ownLink (hostedS [{ link0 with core := 0, slot := 0, strand := true, addr := 14 * 2 ^ 48, lane := 0, result := some 9 }]) 0 0 q = true ∧ q.addr = hostLocs.headD 0
      ∧ q.lane = leadLane false (allAt hostLocs) (5, hostLocs) ∧ q.result = some 9 := ⟨_, .head _, by decide +kernel, rfl, by decide +kernel, rfl⟩

/-- Core 23 stands STALLED: its one strand waits on a counter, and its grid's collective has not moved. -/
def stalledS : State := { putStrand (headS base) 23 0 { baseT with swait := .counter } with channels := [(2, { descs := [desc0], moved := 0, stalled := true })] }
theorem witness_DamperDecisions_mask : (headOf (partAt stalledS 0) 7).isSome ∧ (∀ hd, headOf (partAt stalledS 0) 7 = some hd → hd.record!.cores = false ∧ hd.gang.1 = 1)
    ∧ (stalledMask stalledS 0 5).testBit (3 + 0) = true ∧ (dispatchHead stalledS 0 5 7 3 true true).isSome ∧ (stalledMask (headS State.reset) 0 5).testBit (3 + 0) = false :=
  ⟨by decide +kernel, fun hd h => by
    have e : headOf (partAt stalledS 0) 7 = some (.record { record := { fetchRecord with sbase := 65536 }, depth := 0, parent := 0, arrived := 0 }) := by decide +kernel
    rw [e] at h; cases h; decide +kernel, by decide +kernel, by decide +kernel, by decide +kernel⟩
/-- A saved gang of a grid, which a decision places again. -/
def savedGrid (g : Grid) : Grid := { g with gangs := [{ fetchGang with state := .saved }] }
def resumeS : State := headS (gridS savedGrid)
theorem witness_DamperDecisions_grid : headOf (partAt resumeS 0) 0 = some (.grid (savedGrid fetchGrid)) ∧ (savedGrid fetchGrid).record.cores = false
    ∧ gridAt resumeS 0 1 = some (savedGrid fetchGrid) ∧ (dispatchHead resumeS 0 5 0 3 false true).isSome := by decide +kernel
/-- A strand that a dispatch has placed, whose kernel header stands at 0: none stood in its slot, and its gang is new. -/
def launchS : State := { headS (paged State.reset) with mem := memWrite (paged State.reset).mem 0 4 0xFC010000 }
theorem witness_DamperDecisions_placed : (∀ y ∈ (partAt launchS 0).grids, ∀ x ∈ y.gangs, x.id < launchS.nextId ∧ (∀ t ∈ x.strands, t.gang = x.id) ∧ ∀ f ∈ x.blocks, f.1 < launchS.nextId)
    ∧ mget launchS.strands (skey 23 0) = none
    ∧ (((dispatchHead launchS 0 5 7 3 false true).bind fun v => mget v.strands (skey 23 0)).any fun t => decide (launchS.nextId ≤ t.gang)) = true := by decide +kernel
theorem witness_DamperDecisions_pre : (heldHearths (partAt base 0))[0 / 4]? = some 0 ∧ gangsByAge base 0 (4 * 0 + 0 % 4) = [(fetchGrid, fetchGang)]
    ∧ (∀ z ∈ fetchGrid.gangs, gangAt base 0 z.id = some (fetchGrid.launch, z)) ∧ fetchGang ∈ fetchGrid.gangs ∧ fetchGrid.record.cores = false ∧ fetchGang.state = .resident := by decide +kernel
def wholeGrid (g : Grid) : Grid := { g with record := { g.record with cores := true } }
theorem witness_DamperDecisions_preAll : (heldHearths (partAt (gridS wholeGrid) 0))[0 / 4]? = some 0 ∧ gangsByAge (gridS wholeGrid) 0 (4 * 0 + 0 % 4) = [(wholeGrid fetchGrid, fetchGang)]
    ∧ (wholeGrid fetchGrid).record.cores = true ∧ ∀ z ∈ (wholeGrid fetchGrid).gangs, z.state ≠ .saving := by decide +kernel
/-- An event of the gang; the gang is resident, or saved. -/
def gangEvent : DecEvent := { plainEvent State.reset 2 0 0 with gang := 1, grid := 1 }
theorem witness_DamperDecisions_fault : eventGrid base 0 gangEvent = some fetchGrid ∧ (∀ x ∈ fetchGrid.gangs, gangAt base 0 x.id = some (gangEvent.grid, x)) ∧ gangAt base 0 gangEvent.gang = some (1, fetchGang)
    ∧ fetchGang.state = .resident ∧ fetchGang.retries < 1 ∧ 0 ≤ fetchGang.retries
    ∧ eventGrid (gridS savedGrid) 0 gangEvent = some (savedGrid fetchGrid) ∧ gangAt (gridS savedGrid) 0 gangEvent.gang = some (1, { fetchGang with state := .saved }) := by decide +kernel
/-- A holder and a waiter at engine 0; the holder's account is exhausted, or not. -/
def engineEvent : DecEvent := { plainEvent State.reset 3 0 0 with gang := 9, core := 10 }
def pairS (b : Word) : State := partS (fun x => { x with accounts := [(0, { Account.reset with balance := b })] }) { copyS id with copies := [runningCopy copy9, { copy9 with id := 10 }] }
theorem witness_DamperDecisions_engine : engineEvent.channel = none ∧ enginePair (pairS 0) engineEvent = some (runningCopy copy9, { copy9 with id := 10 })
    ∧ exhausted (partAt (pairS 0) 0) (runningCopy copy9).acct = true ∧ exhausted (partAt (pairS 5) 0) (runningCopy copy9).acct = false := by decide +kernel
theorem witness_DamperDecisions_channel : ∃ s : State, ∃ e : DecEvent, ∃ d w rest, e.channel = some 2 ∧ (mgetD s.channels 2 Channel.reset).descs = d :: rest ∧ rest.find? (fun x => x.id == e.core) = some w ∧ d.id = e.gang :=
  ⟨{ collS id 0 with channels := [(2, { descs := [{ desc0 with id := 9 }, { desc0 with id := 11 }, { desc0 with id := 10 }], moved := 0, stalled := false })] },
    { engineEvent with channel := some 2 }, { desc0 with id := 9 }, { desc0 with id := 10 }, _, rfl, rfl, rfl, rfl⟩

/-- What the hub's events wait for is not there: no move of a frame, no area in use. -/
theorem witness_HubEvents_free : frameHeld (atStep 1 0x20000) [0x20000] = false ∧ frameHeld (atStep 2 0x20000) [0x20008] = false ∧ areasInUse (vS exitedT) (vT exitedT).gang = false
    ∧ hearthStopped base (hearthOf fetchGang.core) = false := by decide +kernel
theorem witness_CopyEvents_free : engineHeld (copyS runningCopy) ((nextSource (copyS runningCopy) (runningCopy copy9)).map fun e => e.2) = false
    ∧ touchFault (copyS runningCopy) ((List.range 8).map fun i => 0x20000 + i) = none ∧ hearthStopped (copyS runningCopy) 0 = false
    ∧ engineHeld (copyS fun y => { runningCopy y with src := 0x40000000 }) ((nextSource (copyS fun y => { runningCopy y with src := 0x40000000 }) { runningCopy copy9 with src := 0x40000000 }).map fun e => e.2) = false := by decide +kernel

/-- A migration whose entry waits for a host's half; and the retirement that Zhevwell orders. -/
theorem witness_TranslationEvents_waits : entryWaits { partS (fun x => { x with msrc := 0x20000 }) (hostS (paged base)) with owned := [0x20000 / 64] } 0x20000 = true ∧ entryWaits (hostS (paged base)) 0x20000 = false
    ∧ (partAt (partS (fun x => { x with msrc := 0x20000 }) (hostS (paged base))) 0).mstate ≠ 1 ∧ (partAt (moveS none 0) 0).mcheck = false ∧ byZhevwell { port := 2, tee := false } = true ∧ byZhevwell host0 = false := by decide +kernel
/-- An error of the frame to retire stands in the log. -/
theorem witness_TranslationEvents_why : ∃ s : State, ∃ m t r, s.retire.move = some m ∧ m.switch = some t ∧ m.drain < s.now ∧ s.errLog = [] ++ r :: [] ∧ r.kind ≠ 0x0D ∧ r.addr ≠ 0
    ∧ r.addr.toNat / 65536 = m.src / 65536 :=
  ⟨{ retireS (some 5) 31 with errLog := [{ kind := 0x04, sev := 1, source := 0, seq := 0, time := 3, addr := BitVec.ofNat 64 (i12 + 0x100000), part := none, count := 1, detail := 0 }] }, move0 (some 5), 5, _, rfl, rfl, by decide, rfl, by decide +kernel, by decide +kernel, by decide +kernel⟩

/-- A change of QCFG of die 0 beside a region that has closed at an earlier tick. -/
theorem witness_RegisterEvents_qcfg : strandAt { hostS (vS cl0) with now := 9 } 0 0 = some (vT cl0) ∧ (∀ r ∈ (vT cl0).regions, r.close ≠ some 9) ∧ portQuiet { hostS (vS cl0) with now := 9 } host0 = true
    ∧ ownsSem { hostS (vS cl0) with now := 9 } host0 = true := by decide +kernel
/-- A gang of hearth 0 that waits out the stop of its STEP; and a stop that no gang waits for. -/
def stepStop : State := { gangS (fun g => { g with state := .saving }) with hearths := [(0, { HearthStep.reset with pend := true, target := 2 })] }
theorem witness_RegisterEvents_stop : (hearthAt stepStop 0).pend = true ∧ (∃ e ∈ stepStop.parts, ∃ y ∈ e.2.grids, ∃ x ∈ y.gangs, x.state = .saving ∧ hearthOf x.core = 0)
    ∧ (∀ q ∈ stepStop.strands, q.2.gang = 1 → q.2.saving = false)
    ∧ ∀ e ∈ ({ base with hearths := [(0, { HearthStep.reset with pend := true, target := 2 })] } : State).parts, ∀ y ∈ e.2.grids, ∀ x ∈ y.gangs, x.state ≠ .saving ∨ hearthOf x.core ≠ 0 := by decide +kernel
/-- PSERVE of port 0 withdrawn from a locked interface; and from one that is not. -/
theorem witness_RegisterEvents_pserve : portQuiet (lockedS .locked) host0 = true ∧ ownsSem (lockedS .locked) host0 = true ∧ frozen (lockedS .locked) 0 = true
    ∧ (portAt (lockedS .locked) 0).pserve.getLsbD 0 ≠ (0 : Word).getLsbD 0 ∧ frozen (lockedS .unlocked) 0 = false := by decide +kernel
theorem witness_RegisterEvents_dgrid : vfMay (partS (fun x => { x with halt := true }) haltS) host0 0 = true ∧ (partAt (partS (fun x => { x with halt := true }) haltS) 0).halt = true
    ∧ strandAt (partS (fun x => { x with halt := true }) haltS) 0 0 = some (vT haltT) ∧ (vT haltT).grid = 1 ∧ (partAt (partS (fun x => { x with halt := true }) haltS) 0).dgrid.toNat = 1 := by decide +kernel

theorem witness_LinkEvents_free : frameHeld (collS id 50) [0x30000] = false ∧ frameHeld (collS (fun d => { d with doneN := 1 }) 50) [0x40000] = false
    ∧ (∀ a ∈ chunkReads (collS id 50) desc0 (groupAt (collS id 50) 3) (chunkLength desc0 [[1, 0, 0, 0], [2, 0, 0, 0]]), hostDropped (collS id 50) desc0.part a = false)
    ∧ group3.straits.getLsbD 0 = true ∧ group3.straits.getLsbD 17 = false ∧ (∀ e ∈ traffic State.reset, e.1 < 23 ∧ e.2 < 23) := by decide +kernel

/-- Die 0 holds a strand and belongs to a partition; die 7 belongs to none. -/
theorem witness_ModuleEvents_owned : dieOwned base 0 = true ∧ dieOwned State.reset 0 = false ∧ dieDrained State.reset 7 = true
    ∧ ({ State.reset with fw := { State.reset.fw with armed := true } } : State).fw.armed = true ∧ (mget State.reset.flash.certs State.reset.fw.keyGen) = none := by decide +kernel

/-! ### Single steps; each expected value is worked out by hand from the rule it names -/

/-- Register `r` after an instruction of the strand whose scalar side is `f` of the one at its start. -/
def sAfter (i : Instr) (f : ScalarSide → ScalarSide) (r : Nat) : Option Word :=
  match exec i (wS f) with | .next s => (strandAt s 0 0).map fun t => sget t.sc r | _ => none
def pcAfter (i : Instr) (f : ScalarSide → ScalarSide) : Option Nat :=
  match exec i (wS f) with | .next s => (strandAt s 0 0).map fun t => t.sc.spc.toNat | _ => none
def two (a b : Word) : ScalarSide → ScalarSide := regs [(4, a), (5, b), (9, 0)]
/-- R100: sums wrap. -/
theorem test_sadd : sAfter (.sadd 9 4 5) (two 0xFFFFFFFFFFFFFFFF 2) 9 = some 1 ∧ sAfter (.ssub 9 4 5) (two 1 2) 9 = some 0xFFFFFFFFFFFFFFFF := by decide +kernel
/-- R24: s0 takes nothing. -/
theorem test_zero : sAfter (.sadd 0 4 5) (two 3 4) 0 = some 0 := by decide +kernel
/-- R101: its own examples, and both edge cases. -/
theorem test_sdiv : sAfter (.sdivI64 9 4 5) (two (-7) 2) 9 = some (-3) ∧ sAfter (.sremI64 9 4 5) (two (-7) 2) 9 = some (-1) ∧ sAfter (.sdivN64 9 4 5) (two 7 0) 9 = some 0xFFFFFFFFFFFFFFFF
    ∧ sAfter (.sremN64 9 4 5) (two 7 0) 9 = some 7 ∧ sAfter (.sdivI64 9 4 5) (two 0x8000000000000000 (-1)) 9 = some 0x8000000000000000
    ∧ sAfter (.sremI64 9 4 5) (two 0x8000000000000000 (-1)) 9 = some 0 := by decide +kernel
/-- R100: the high word of (-1) × (-1), signed and unsigned. -/
theorem test_smulh : sAfter (.smulhI64 9 4 5) (two (-1) (-1)) 9 = some 0 ∧ sAfter (.smulhN64 9 4 5) (two (-1) (-1)) 9 = some 0xFFFFFFFFFFFFFFFE := by decide +kernel
theorem test_shifts : sAfter (.ssra 9 4 5) (two 0x8000000000000000 1) 9 = some 0xC000000000000000 ∧ sAfter (.sshr 9 4 5) (two 0x8000000000000000 65) 9 = some 0x4000000000000000 := by decide +kernel
theorem test_scmp : sAfter (.scmp 9 4 5 2) (two (-1) 0) 9 = some 1 ∧ sAfter (.scmp 9 4 5 4) (two (-1) 0) 9 = some 0 := by decide +kernel
/-- R103: a negative immediate, and the next 19 bits below it. -/
theorem test_sli : sAfter (.sli 9 0x40000) (two 0 0) 9 = some (-262144) ∧ sAfter (.slui 9 5) (regs [(9, 1)]) 9 = some 0x80005 := by decide +kernel
/-- R106: a branch at 4 with offset 2 goes to 12; one not taken goes on at 8. -/
theorem test_branch : pcAfter (.sbNe 4 5 2) (two 1 2) = some 12 ∧ pcAfter (.sbEq 4 5 2) (two 1 2) = some 8 := by decide +kernel

/-- Lane `k` of register `r` after a lane instruction of a strand whose registers 4, 5 and 6 hold `a`, `b` and `c` in lane 63. -/
def lanes3 (a b c : W32) (t : Strand) : Strand := { t with ln := { t.ln with vregs := [(64 * 4 + 63, a), (64 * 5 + 63, b), (64 * 6 + 63, c)] } }
def vAfter (i : Instr) (a b c : W32) (r : Nat) : Option W32 :=
  match exec i (lS (lanes3 a b c)) with | .next s => (strandAt s 0 0).map fun t => mgetD t.ln.vregs (64 * r + 63) 0 | _ => none
theorem test_vadd : vAfter (.vadd (plainFields 0x00 0 10 4 5 0 0 0)) 0xFFFFFFFF 2 0 10 = some 1
    ∧ vAfter (.vadd { plainFields 0x00 0 10 4 5 0 0 0 with clamp := 2 }) 0x7FFFFFFF 2 0 10 = some 0x7FFFFFFF := by decide +kernel
/-- 1.0 + 2.0; and (1 + 2^-12)^2 - (1 + 2^-11) is 2^-24, where a rounded product would give 0 (R93, R150). -/
theorem test_vfloat : vAfter (.vfadd (plainFields 0x20 8 10 4 5 0 0 0)) 0x3F800000 0x40000000 0 10 = some 0x40400000
    ∧ vAfter (.vffma (plainFields 0x23 8 10 4 5 6 0 0)) 0x3F800800 0x3F800800 0xBF801000 10 = some 0x33800000 := by decide +kernel
/-- R146, R148: shifts take the amount modulo 32. -/
theorem test_vbits : vAfter (.vshl (plainFields 0x0A 1 10 4 5 0 0 0)) 1 33 0 10 = some 2 ∧ vAfter (.vsra (plainFields 0x0C 0 10 4 5 0 0 0)) 0x80000000 4 0 10 = some 0xF8000000
    ∧ vAfter (.vclz (plainFields 0x10 1 10 4 0 0 0 0)) 1 0 0 10 = some 31 ∧ vAfter (.vpopc (plainFields 0x0F 1 10 4 0 0 0 0)) 0xF0F 0 0 10 = some 8 := by decide +kernel
/-- R159: 1·5 + 2·6 + 3·7 + (-4)·8 + 100. -/
theorem test_vdot4 : vAfter (.vdot4 (plainFields 0x50 4 10 4 5 6 0 0)) 0xFC030201 0x08070605 100 10 = some 106 := by decide +kernel
/-- R154: minus infinity is class bit 0, plus zero bit 4. -/
theorem test_vfcls : vAfter (.vfcls (plainFields 0x30 8 10 4 0 0 0 0)) 0xFF800000 0 0 10 = some 1 ∧ vAfter (.vfcls (plainFields 0x30 8 10 4 0 0 0 0)) 0 0 0 10 = some 16 := by decide +kernel
/-- R70, R162: 1.0 and 448 in E4M3 are 0x38 and 0x7E; the other bytes of the register stay. -/
def encAfter (a : W32) : Option W32 :=
  match exec (.vcvtEnc (plainFields 0x52 8 6 4 0 0 1 0)) { slotted 3 with strands := (lS (lanes3 a 0 0xAABBCCDD)).strands } with
  | .next s => (strandAt s 0 0).map fun t => mgetD t.ln.vregs (64 * 6 + 63) 0
  | _ => none
theorem test_vcvt : encAfter 0x3F800000 = some 0xAABBCC38 ∧ encAfter 0x43E00000 = some 0xAABBCC7E := by decide +kernel
/-- R169: the sum over all lanes, of which lane 63 alone holds a value. -/
theorem test_vred : vAfter (.vred (plainFields 0x64 0 10 4 0 0 0 0)) 5 0 0 10 = some 5 := by decide +kernel
/-- A word stored is seen at the strand's next load only by its own effects; memory itself waits for the release (R201, R236). -/
theorem test_sst : (match exec (.sst 5 4 0 4 0) (wS (regs [(4, 64), (5, 0x1122334455667788)])) with
    | .next s => s.mem == [] && (s.effects.map fun e => e.kind) == [.write [(64, 0x88), (65, 0x77), (66, 0x66), (67, 0x55)]]
    | _ => false) = true := by decide +kernel
/-- R376, R377: delivery sets s1 to the head, sp down by the record and the pc to the handler. -/
theorem test_delivery : (match exec (.evTrapDelivery 0 0) handled with
    | .next s => (strandAt s 0 0).map fun t => (t.sc.spc, sget t.sc 1, sget t.sc 2, t.sc.tdepth)
    | _ => none) = some (0x100, 4, 0x8020, true) := by decide +kernel
/-- R340, R350: the damper adds. -/
theorem test_damper : (match exec (.dAdd 3 5 1 0) (dS ev0 id id) with
    | .next s => (partAt s 0).interp.map fun r => (mgetD r.regs 3 0, r.pc, r.cycles)
    | _ => none) = some (12, 1, 1) := by decide +kernel
/-- R303: `gclr` clears its tile, and the stream goes on. -/
theorem test_gclr : (match exec (.gclr (plainFields 0xE2 0 5 0 0 0 0 0)) (mS 0 fun g => { g with tiles := [(1024 * 5 + 33, 7), (1024 * 6, 9)] }) with
    | .next s => some (tileElem (coreOf s 0).griddle.tiles 5 1 1, tileElem (coreOf s 0).griddle.tiles 6 0 0, (coreOf s 0).griddle.next)
    | _ => none) = some (0, 9, 1) := by decide +kernel
/-- R38: an error in a lane word that no active lane reads is recorded by the core, KIND 0x04 with the strand's slot, and the word becomes
poisoned; a write clears it, and an active lane that reads it takes the register-ECC trap. -/
def struck (g : Strand → Strand) : State := { lS g with agent := .none, now := 1, turns := [.upset (.lane 0 0 4 5), .agent (.lane 0 0)] }
def lane5Off (t : Strand) : Strand := { t with st := { t.st with current := some { laneR with entry := { laneR.entry with exec := ~~~32 } } } }
def stepOf (s : State) : State := match step s with | .next t => t | _ => s
theorem test_upset_found : (strandAt (stepOf (struck id)) 0 0).map (fun t => (t.ln.verr, t.ln.vpoison)) = some ([64 * 4 + 5], []) := by decide +kernel
def unfound : Out := exec (.vadd (plainFields 0x00 0 10 4 5 0 0 0)) { lS (fun t => { lane5Off t with ln := { t.ln with verr := [64 * 4 + 5] } }) with agent := .lane 0 0 }
def unfoundAfter : State := match unfound with | .next s => s | _ => State.reset
theorem test_upset_unconsumed : (strandAt unfoundAfter 0 0).map (fun t => (t.ln.verr, t.ln.vpoison, t.traps.length)) = some ([], [64 * 4 + 5], 0)
    ∧ unfoundAfter.ring.map (fun e => (e.kind.toNat, e.sev.toNat, e.source.toNat)) = [(4, 1, 0)] := by decide +kernel
/-- R250, R412: poisoned memory: KIND 0x02 from near isle 1, with the address, and the line is marked. -/
theorem test_upset_memory : (match step { State.reset with now := 1, turns := [.upset (.memory (2 ^ 48 + 256) none)] } with
    | .next s => some (s.poison, s.ring.map fun e => (e.kind.toNat, e.sev.toNat, e.source.toNat, e.addr.toNat))
    | _ => none) = some ([(2 ^ 48 + 256) / 128], [(2, 1, 0x3001, 2 ^ 48 + 256)]) := by decide +kernel

end Sys2Proof.Machine
end

section
/-! PROOFS. What a partition's function stands at (its record, its interface, and how each of its grids has ended), and that
a kill changes no more of it than the mark of the killed grid (R332, R354, R404). -/

namespace Sys2Proof.Machine

open Sys2Proof

/-- What no step of a fold changes is as it was after the fold. -/
theorem foldl_keeps {α β γ : Type} (obs : β → γ) {f : β → α → β} (h : ∀ s a, obs (f s a) = obs s) (l : List α) (s : β) :
    obs (l.foldl f s) = obs s := by
  induction l generalizing s with
  | nil => rfl
  | cons a l ih => rw [List.foldl_cons, ih, h]

/-- A grid's launch number, whether it has been killed, and its completion code. -/
def gridEnd (g : Grid) : Nat × Bool × Option Nat := (g.launch, g.killed, g.code)

/-- The record and the interface of a partition, and how its grids have ended. -/
structure Standing where
  record : FMap Word
  tdisp  : Tdisp
  ends   : List (Nat × Bool × Option Nat)

def partStanding (x : Partition) : Standing := { record := x.record, tdisp := x.tdisp, ends := x.grids.map gridEnd }

/-- The standing of every partition. -/
def standing (s : State) (p : Nat) : Standing := partStanding (partAt s p)

/-! ### Updates of the state -/

theorem standing_of_parts {s s' : State} (h : s'.parts = s.parts) : standing s' = standing s := by
  funext p; simp [standing, partAt, h]

theorem standing_modPart (s : State) (p : Nat) {f : Partition → Partition} (h : ∀ x, partStanding (f x) = partStanding x) :
    standing (modPart s p f) = standing s := by
  funext q
  by_cases hq : q = p
  · subst hq; simp [standing, modPart, partAt_putPart, h]
  · simp [standing, modPart, partAt_putPart_ne _ _ hq]

theorem standing_modGrids (s : State) (p : Nat) {f : Grid → Grid} (h : ∀ g, gridEnd (f g) = gridEnd g) :
    standing (modPart s p fun x => { x with grids := x.grids.map f }) = standing s :=
  standing_modPart s p fun x => by simp [partStanding, Function.comp_def, h]

theorem standing_modGrid (s : State) (p n : Nat) {f : Grid → Grid} (h : ∀ g, gridEnd (f g) = gridEnd g) :
    standing (modGrid s p n f) = standing s :=
  standing_modGrids s p fun g => by split <;> simp [h]

@[simp] theorem standing_modGang (s : State) (p i : Nat) (f : Gang → Gang) : standing (modGang s p i f) = standing s :=
  standing_modGrids s p fun _ => rfl

@[simp] theorem standing_modAccount (s : State) (p a : Nat) (f : Account → Account) : standing (modAccount s p a f) = standing s :=
  standing_modPart s p fun _ => rfl

@[simp] theorem standing_modCore (s : State) (c : Nat) (f : Core → Core) : standing (modCore s c f) = standing s := rfl
@[simp] theorem standing_modBlock (s : State) (b : Nat) (f : Block → Block) : standing (modBlock s b f) = standing s := rfl
@[simp] theorem standing_putStrand (s : State) (c l : Nat) (t : Strand) : standing (putStrand s c l t) = standing s := rfl

/-! ### Wakes, and the end of a `graft` or `claim` -/

@[simp] theorem standing_wakeCores (s : State) (bit : BitVec 9) (f : Strand → Bool) : standing (wakeCores s bit f) = standing s :=
  foldl_keeps standing (fun s c => show standing (wakeCore s c bit) = standing s from rfl) _ s

@[simp] theorem standing_dropGraft (s : State) (t : Strand) : standing (dropGraft s t) = standing s := by
  unfold dropGraft
  split
  · exact (standing_wakeCores _ _ _).trans (standing_modGrid s _ _ fun _ => rfl)
  · rfl

@[simp] theorem standing_dropClaim (s : State) (c l : Nat) : standing (dropClaim s c l) = standing s := by
  unfold dropClaim
  split
  · exact standing_wakeCores s _ _
  · rfl

/-! ### Squashes -/

@[simp] theorem standing_postMsg (s : State) (home : Nat) (tag : Tag) (region : Nat) (squash : Bool) (ec n w : Nat) :
    standing (postMsg s home tag region squash ec n w) = standing s := by
  refine standing_of_parts ?_
  unfold postMsg
  cases squash
  all_goals
    simp only [if_true, if_false, Bool.false_eq_true]
    split
    · rfl
    · split <;> rfl

@[simp] theorem standing_sendSquashes (s : State) (c l : Nat) (r : Region) : standing (sendSquashes s c l r) = standing s :=
  foldl_keeps standing (fun s e => by split <;> simp) r.sent s

@[simp] theorem standing_undoOne (s : State) (e : UndoWhat × List Nat) : standing (undoOne s e) = standing s := by
  unfold undoOne
  split <;> exact standing_modBlock _ _ _

@[simp] theorem standing_dropCore (s : State) (c : Nat) (ids : List Nat) : standing (dropCore s c ids) = standing s :=
  foldl_keeps standing standing_undoOne _ s

@[simp] theorem standing_squashStrand (s : State) (c l id : Nat) : standing (squashStrand s c l id) = standing s := by
  unfold squashStrand
  split
  · rfl
  · next t _ =>
    split
    · rfl
    · have sent : ∀ (gone : List Region) (ids : List Nat),
          standing (gone.foldl (fun s x => sendSquashes s c l x) (drainWrites (dropCore s c ids) c t ids)) = standing s := fun gone ids =>
        (foldl_keeps standing (fun s x => standing_sendSquashes s c l x) gone _).trans (standing_dropCore s c ids)
      refine (standing_modAccount _ _ _ _).trans ((standing_dropClaim _ c l).trans ((standing_dropGraft _ t).trans ?_))
      exact sent _ _

@[simp] theorem standing_squashSegments (s : State) (c : Nat) (ids : List Nat) : standing (squashSegments s c ids) = standing s := by
  unfold squashSegments
  dsimp only
  split <;> rfl

@[simp] theorem standing_squashSet (s : State) (c : Nat) (seeds : List Nat) : standing (squashSet s c seeds) = standing s := by
  refine (standing_squashSegments _ _ _).trans ((foldl_keeps standing (fun s e => ?_) _ _).trans (standing_dropCore s c _))
  split
  · exact standing_squashStrand _ _ _ _
  · rfl

@[simp] theorem standing_killRegions (s : State) (g : Gang) : standing (killRegions s g) = standing s :=
  foldl_keeps standing (fun s _ => standing_squashSet s _ _) _ s

/-! ### Scheduling events -/

@[simp] theorem standing_raiseEvent (s : State) (p : Nat) (e : DecEvent) : standing (raiseEvent s p e) = standing s :=
  standing_modPart s p fun x => by split <;> rfl

@[simp] theorem standing_offerHearth (s : State) (p sub h : Nat) : standing (offerHearth s p sub h) = standing s := by
  unfold offerHearth
  split <;> simp

@[simp] theorem standing_checkWaiters (s : State) (p : Nat) : standing (checkWaiters s p) = standing s := by
  unfold checkWaiters
  refine (standing_modPart _ p ?_).trans (foldl_keeps standing (fun s e => ?_) _ s)
  · exact fun _ => rfl
  · split
    · rfl
    · split <;> simp

@[simp] theorem standing_reoffer (s : State) (p sub : Nat) : standing (reoffer s p sub) = standing s :=
  (standing_checkWaiters _ p).trans (foldl_keeps standing (fun s h => standing_offerHearth s p sub h) _ s)

@[simp] theorem standing_engineEvents (s : State) (engine : Nat) : standing (engineEvents s engine) = standing s := by
  unfold engineEvents
  split
  · rfl
  · refine foldl_keeps standing (fun s w => ?_) _ s
    split
    · rfl
    · split
      · rfl
      · exact standing_raiseEvent _ _ _

@[simp] theorem standing_channelEvents (s : State) (k : Nat) : standing (channelEvents s k) = standing s := by
  unfold channelEvents
  split
  · rfl
  · refine foldl_keeps standing (fun s w => ?_) _ s
    split
    · rfl
    · exact standing_raiseEvent _ _ _

/-! ### Charges -/

@[simp] theorem standing_exhaustionEvents (s : State) (p a : Nat) : standing (exhaustionEvents s p a) = standing s :=
  foldl_keeps standing (fun s e => by split <;> simp) _ s

@[simp] theorem standing_noteExhausted (s : State) (p a : Nat) : standing (noteExhausted s p a) = standing s :=
  (foldl_keeps standing standing_channelEvents _ _).trans
    ((foldl_keeps standing standing_engineEvents _ _).trans (standing_exhaustionEvents s p a))

@[simp] theorem standing_changeBalance (s : State) (p a : Nat) (f : Account → Account) : standing (changeBalance s p a f) = standing s := by
  unfold changeBalance
  dsimp only
  split <;> simp

@[simp] theorem standing_accrueAll (s : State) (p : Nat) : standing (accrueAll s p) = standing s :=
  foldl_keeps standing (fun s a => standing_changeBalance s p a _) _ s

/-! ### Where a gang leaves its cores -/

@[simp] theorem standing_vacate (s : State) (c l : Nat) (t : Strand) : standing (vacate s c l t) = standing s :=
  standing_dropClaim (releaseBlocks s c l t) c l

@[simp] theorem standing_returnStack (s : State) (p b : Nat) : standing (returnStack s p b) = standing s :=
  standing_modPart s p fun _ => rfl

@[simp] theorem standing_dropImage (s : State) (p : Nat) (g : Gang) : standing (dropImage s p g) = standing s := by
  unfold dropImage
  split
  · exact standing_modPart s p fun _ => rfl
  · rfl

@[simp] theorem standing_returnItems (s : State) (c p launch : Nat) : standing (returnItems s c p launch) = standing s := by
  unfold returnItems
  split
  · rfl
  · exact standing_modGrid _ _ _ fun _ => rfl

@[simp] theorem standing_clearGang (s : State) (p launch : Nat) (g : Gang) : standing (clearGang s p launch g) = standing s := by
  refine (foldl_keeps standing (fun s i => standing_returnItems s _ p launch) _ _).trans ?_
  refine (standing_modGrid _ p launch ?_).trans ((standing_modGang _ p g.id _).trans ((standing_dropImage _ p g).trans ?_))
  · exact fun _ => rfl
  · refine (foldl_keeps standing (fun s e => ?griddle) _ _).trans
      ((foldl_keeps standing (fun s b => ?stack) _ _).trans (foldl_keeps standing (fun s e => ?slot) _ s))
    case griddle => split <;> simp
    case stack => split <;> simp
    case slot => simp

@[simp] theorem standing_killCopies (s : State) (p launch : Nat) : standing (killCopies s p launch) = standing s :=
  foldl_keeps standing standing_engineEvents _ _

@[simp] theorem standing_postRecord (s : State) (p launch code tick : Nat) (trap : Option TrapRec) (es : List (Nat × Strand)) :
    standing (postRecord s p launch code tick trap es) = standing s :=
  standing_modPart s p fun _ => rfl

/-! ### Kills -/

/-- A grid, where there is one of this launch number, has been killed or has its completion code. -/
def GridEnded (s : State) (p n : Nat) : Prop := ∀ g, gridAt s p n = some g → g.killed = true ∨ g.code.isSome

/-- From `s` to `s'` the partition `p` keeps its record, its interface and its grids, and what has ended has ended for good. -/
structure OnlyKills (s s' : State) (p : Nat) : Prop where
  record   : (partAt s' p).record = (partAt s p).record
  tdisp    : (partAt s' p).tdisp = (partAt s p).tdisp
  launches : (partAt s' p).grids.map Grid.launch = (partAt s p).grids.map Grid.launch
  ended    : ∀ n, GridEnded s p n → GridEnded s' p n

theorem OnlyKills.refl (s : State) (p : Nat) : OnlyKills s s p := ⟨rfl, rfl, rfl, fun _ h => h⟩

theorem OnlyKills.trans {s u v : State} {p : Nat} (h : OnlyKills s u p) (k : OnlyKills u v p) : OnlyKills s v p :=
  ⟨k.record.trans h.record, k.tdisp.trans h.tdisp, k.launches.trans h.launches, fun n hn => k.ended n (h.ended n hn)⟩

/-- How the grid of a launch number has ended, by the partition's standing. -/
theorem gridAt_end (s : State) (p n : Nat) : (gridAt s p n).map gridEnd = (standing s p).ends.find? fun e => e.1 == n := by
  simp only [standing, partStanding, List.find?_map]; rfl

theorem gridEnded_iff (s : State) (p n : Nat) :
    GridEnded s p n ↔ ∀ e ∈ (gridAt s p n).map gridEnd, e.2.1 = true ∨ e.2.2.isSome := by
  simp [GridEnded, gridEnd]

theorem onlyKills_of_standing {s s' : State} (h : standing s' = standing s) (p : Nat) : OnlyKills s s' p := by
  have hp := congrFun h p
  refine ⟨congrArg Standing.record hp, congrArg Standing.tdisp hp, ?_, fun n hn => ?_⟩
  · simpa [standing, partStanding, gridEnd, Function.comp_def] using congrArg (fun x => x.ends.map Prod.fst) hp
  · rw [gridEnded_iff, gridAt_end, hp, ← gridAt_end, ← gridEnded_iff]; exact hn

/-- The grid of a launch number after a change of the grids of another or the same one. -/
theorem gridAt_modGrid (s : State) (p n m : Nat) {f : Grid → Grid} (h : ∀ g, (f g).launch = g.launch) :
    gridAt (modGrid s p n f) p m = (gridAt s p m).map fun g => if g.launch == n then f g else g := by
  have same : ((fun x : Grid => x.launch == m) ∘ fun g => if g.launch == n then f g else g) = fun x => x.launch == m := by
    funext g; simp only [Function.comp]; split <;> simp [h]
  simp only [gridAt, modGrid, modPart, partAt_putPart, List.find?_map, same]

theorem launch_of_gridAt {s : State} {p n : Nat} {g : Grid} (h : gridAt s p n = some g) : g.launch = n := by
  simpa using List.find?_some h

/-- The mark of a killed grid. -/
def markKilled (g : Grid) : Grid := { g with killed := true, parked := false, report := none }

theorem markKilled_launch (g : Grid) : (markKilled g).launch = g.launch := rfl

theorem onlyKills_markKilled (s : State) (p n : Nat) : OnlyKills s (modGrid s p n markKilled) p := by
  refine ⟨?_, ?_, ?_, fun m hm g hg => ?_⟩
  · simp [modGrid, modPart, partAt_putPart]
  · simp [modGrid, modPart, partAt_putPart]
  · simp only [modGrid, modPart, partAt_putPart, List.map_map]
    refine List.map_congr_left fun g _ => ?_
    simp only [Function.comp]; split <;> rfl
  · rw [gridAt_modGrid s p n m markKilled_launch, Option.map_eq_some_iff] at hg
    obtain ⟨g, hg, rfl⟩ := hg
    split
    · exact .inl rfl
    · exact hm g hg

theorem gridEnded_markKilled (s : State) (p n : Nat) : GridEnded (modGrid s p n markKilled) p n := by
  intro g hg
  rw [gridAt_modGrid s p n n markKilled_launch, Option.map_eq_some_iff] at hg
  obtain ⟨g, hg, rfl⟩ := hg
  rw [launch_of_gridAt hg, if_pos (beq_self_eq_true n)]
  exact .inl rfl

/-- A state with the standing of `s` in which the grid is marked and its cores are offered again. -/
theorem onlyKills_markKilled_reoffer {s u : State} (h : standing u = standing s) (p n : Nat) :
    OnlyKills s (reoffer (modGrid u p n markKilled) p 0) p ∧ GridEnded (reoffer (modGrid u p n markKilled) p 0) p n := by
  have offered := onlyKills_of_standing (standing_reoffer (modGrid u p n markKilled) p 0) p
  exact ⟨((onlyKills_of_standing h p).trans (onlyKills_markKilled u p n)).trans offered, offered.ended n (gridEnded_markKilled u p n)⟩

/-- R354: a kill leaves of the partition's standing all but the mark of the grid, which has ended. -/
theorem killGrid_onlyKills (s : State) (p n : Nat) (trap : Option TrapRec) :
    OnlyKills s (killGrid s p n trap) p ∧ GridEnded (killGrid s p n trap) p n := by
  unfold killGrid
  split
  · next h => exact ⟨OnlyKills.refl s p, fun g hg => by rw [h] at hg; cases hg⟩
  · next g h =>
    split
    · next hend => exact ⟨OnlyKills.refl s p, fun y hy => by rw [h] at hy; cases hy; simpa [or_comm] using hend⟩
    · have squashed : ∀ l : List Gang, standing (l.foldl killRegions (accrueAll (killCopies s p n) p)) = standing s := fun l =>
        (foldl_keeps standing standing_killRegions l _).trans ((standing_accrueAll _ p).trans (standing_killCopies s p n))
      refine onlyKills_markKilled_reoffer ((foldl_keeps standing (fun s x => standing_clearGang s p n x) _ _).trans ?_) p n
      exact (standing_postRecord _ p n 2 _ trap _).trans (squashed _)

/-- R404: every grid of a list is killed, one after the other. -/
theorem killGrids_onlyKills (p : Nat) (l : List Nat) (s : State) :
    OnlyKills s (l.foldl (fun s n => killGrid s p n none) s) p ∧ ∀ n ∈ l, GridEnded (l.foldl (fun s n => killGrid s p n none) s) p n := by
  induction l generalizing s with
  | nil => exact ⟨OnlyKills.refl s p, by simp⟩
  | cons a l ih =>
    obtain ⟨here, done⟩ := killGrid_onlyKills s p a none
    obtain ⟨rest, all⟩ := ih (killGrid s p a none)
    refine ⟨here.trans rest, fun n hn => ?_⟩
    rcases List.mem_cons.1 hn with rfl | hn
    · exact rest.ended _ done
    · exact all n hn

/-- R404: the kill of a partition ends every one of its grids. -/
theorem killPartition_onlyKills (s : State) (p : Nat) : OnlyKills s (killPartition s p) p ∧ ∀ n, GridEnded (killPartition s p) p n := by
  obtain ⟨kept, all⟩ := killGrids_onlyKills p ((partAt s p).grids.map Grid.launch) s
  refine ⟨kept.trans ?dropped, fun n g hg => all n ?listed g hg⟩
  case dropped => exact onlyKills_of_standing (standing_of_parts (by rfl)) p
  rw [← kept.launches]
  exact List.mem_map.2 ⟨g, List.mem_of_find?_eq_some hg, launch_of_gridAt hg⟩

end Sys2Proof.Machine
end

section
/-! PROOFS. The events of the module: resets, package time, power, telemetry, firmware and trusted interfaces (O60). -/

namespace Sys2Proof.Machine

open Sys2Proof

/-! ### Sparse data -/

/-- A key that a list of keys is written under holds what is written there. -/
theorem mget_msets_keys {α : Type} (f : Nat → α) (l : List Nat) (m : FMap α) (k : Nat) :
    mget (msets m (l.map fun d => (d, f d))) k = if k ∈ l then some (f k) else mget m k := by
  induction l generalizing m with
  | nil => simp [msets]
  | cons a l ih =>
    have step : msets m ((a :: l).map fun d => (d, f d)) = msets (mset m a (f a)) (l.map fun d => (d, f d)) := rfl
    rw [step, ih, mget_mset]
    by_cases hl : k ∈ l
    · simp [hl]
    · by_cases ha : k = a <;> simp [hl, ha]

/-- The first keys of a map that is written under each of them. -/
theorem mget_msets_range {α : Type} (f : Nat → α) {n k : Nat} (h : k < n) :
    mget (msets [] ((List.range n).map fun d => (d, f d))) k = some (f k) := by
  simp [mget_msets_keys, h]

/-- A key that is filtered out holds nothing. -/
theorem mget_filter_of_not {α : Type} {q : Nat → Bool} {k : Nat} (h : q k = false) (m : FMap α) : mget (m.filter fun e => q e.1) k = none := by
  induction m with
  | nil => rfl
  | cons e t ih =>
    obtain ⟨a, x⟩ := e
    by_cases hq : q a = true
    · have hk : a ≠ k := by rintro rfl; simp [h] at hq
      simp [hq, mget, hk, ih]
    · simp [hq, ih]

/-! ### Ports, partitions and the semaphore's owner -/

theorem portAt_modPort (s : State) (n : Nat) (f : Port → Port) : portAt (modPort s n f) n = f (portAt s n) := by
  simp [portAt, modPort, mgetD]

theorem partAt_modPart (s : State) (p : Nat) (f : Partition → Partition) : partAt (modPart s p f) p = f (partAt s p) :=
  partAt_putPart _ _ _

theorem partOnly_modPart (s : State) (p : Nat) (f : Partition → Partition) : PartOnly s (modPart s p f) p (f (partAt s p)) :=
  ⟨rfl, partAt_modPart s p f, fun _ hq => partAt_putPart_ne _ _ hq⟩

theorem ownerOnly_of_exec {i : Instr} {h : HostAccess} {s : State} {act : State → State} {P : State → Prop}
    (hx : exec i s = .next (ownerOnly s h act)) (hP : P (act s)) : OwnerOnly i h s P := by
  refine ⟨fun hn => ?_, fun hq ho => ⟨_, hx, ?_⟩⟩
  · rw [hx]; rcases hn with hn | hn <;> simp [ownerOnly, hn]
  · simpa [ownerOnly, hq, ho] using hP

theorem tdisp_modTdisp (s : State) (p : Nat) (f : Tdisp → Tdisp) : (partAt (modTdisp s p f) p).tdisp = f (partAt s p).tdisp :=
  congrArg Partition.tdisp (partAt_modPart s p _)

/-! ### Error records (R411 to R414) -/

/-- Raising an error changes nothing but what error records are kept in. -/
theorem raiseError_rest (s : State) (kind sev : Nat) (source : BitVec 16) (part : Option Nat) (detail : Nat) :
    { raiseError s kind sev source part detail with errSeq := s.errSeq, errLog := s.errLog, ring := s.ring, dropped := s.dropped } = s := by
  simp only [raiseError, raiseErrorAt, postError]
  split <;> rfl

/-- A raised error stands in Zhevwell's log. -/
theorem raiseError_errLog (s : State) (kind sev : Nat) (source : BitVec 16) (part : Option Nat) (detail : Nat) :
    ∃ e, (raiseError s kind sev source part detail).errLog = insertErr s.errLog e ∧ e.kind = BitVec.ofNat 8 kind := by
  simp only [raiseError, raiseErrorAt, postError]
  split <;> exact ⟨_, rfl, rfl⟩

section
variable (s : State) (kind sev : Nat) (source : BitVec 16) (part : Option Nat) (detail : Nat)
@[simp] theorem raiseError_mem : (raiseError s kind sev source part detail).mem = s.mem :=
  (congrArg State.mem (raiseError_rest s kind sev source part detail) : _)
@[simp] theorem raiseError_strands : (raiseError s kind sev source part detail).strands = s.strands :=
  (congrArg State.strands (raiseError_rest s kind sev source part detail) : _)
@[simp] theorem raiseError_blocks : (raiseError s kind sev source part detail).blocks = s.blocks :=
  (congrArg State.blocks (raiseError_rest s kind sev source part detail) : _)
@[simp] theorem raiseError_cores : (raiseError s kind sev source part detail).cores = s.cores :=
  (congrArg State.cores (raiseError_rest s kind sev source part detail) : _)
@[simp] theorem raiseError_hearths : (raiseError s kind sev source part detail).hearths = s.hearths :=
  (congrArg State.hearths (raiseError_rest s kind sev source part detail) : _)
@[simp] theorem raiseError_copies : (raiseError s kind sev source part detail).copies = s.copies :=
  (congrArg State.copies (raiseError_rest s kind sev source part detail) : _)
@[simp] theorem raiseError_qcfg : (raiseError s kind sev source part detail).qcfg = s.qcfg :=
  (congrArg State.qcfg (raiseError_rest s kind sev source part detail) : _)
@[simp] theorem raiseError_incs : (raiseError s kind sev source part detail).incs = s.incs :=
  (congrArg State.incs (raiseError_rest s kind sev source part detail) : _)
@[simp] theorem raiseError_drains : (raiseError s kind sev source part detail).drains = s.drains :=
  (congrArg State.drains (raiseError_rest s kind sev source part detail) : _)
@[simp] theorem raiseError_effects : (raiseError s kind sev source part detail).effects = s.effects :=
  (congrArg State.effects (raiseError_rest s kind sev source part detail) : _)
@[simp] theorem raiseError_records : (raiseError s kind sev source part detail).records = s.records :=
  (congrArg State.records (raiseError_rest s kind sev source part detail) : _)
@[simp] theorem raiseError_parts : (raiseError s kind sev source part detail).parts = s.parts :=
  (congrArg State.parts (raiseError_rest s kind sev source part detail) : _)
end

/-! ### Held firmware (R403, R436) -/

/-- A held ACT that takes effect changes the firmware registers alone. -/
theorem releaseAct_rest (s : State) : { releaseAct s with fw := s.fw } = s := by
  unfold releaseAct; split <;> rfl

@[simp] theorem releaseAct_mem (s : State) : (releaseAct s).mem = s.mem :=
  (congrArg State.mem (releaseAct_rest s) : _)
@[simp] theorem releaseAct_strands (s : State) : (releaseAct s).strands = s.strands :=
  (congrArg State.strands (releaseAct_rest s) : _)
@[simp] theorem releaseAct_cores (s : State) : (releaseAct s).cores = s.cores :=
  (congrArg State.cores (releaseAct_rest s) : _)
@[simp] theorem releaseAct_parts (s : State) : (releaseAct s).parts = s.parts :=
  (congrArg State.parts (releaseAct_rest s) : _)
@[simp] theorem releaseAct_errLog (s : State) : (releaseAct s).errLog = s.errLog :=
  (congrArg State.errLog (releaseAct_rest s) : _)

/-! ### Resets (R4, R216, R423, R424) -/

/-- R197: a window from signed flash is at least the least one. -/
theorem qcfgFromFlash_windows (f : Flash) (d : Nat) :
    (qcfgFromFlash f d).qcore.toNat = max 32 (mgetD f.qcfg d Qcfg.reset).qcore.toNat
    ∧ (qcfgFromFlash f d).qdie.toNat = max 64 (mgetD f.qcfg d Qcfg.reset).qdie.toNat
    ∧ (qcfgFromFlash f d).qpkg.toNat = max 128 (mgetD f.qcfg d Qcfg.reset).qpkg.toNat := by
  have atLeast : ∀ (x : BitVec 16) (n : Nat), n < 2 ^ 16 → (if x.toNat < n then BitVec.ofNat 16 n else x).toNat = max n x.toNat := by
    intro x n hn
    split
    · rw [BitVec.toNat_ofNat]; omega
    · omega
  exact ⟨atLeast _ 32 (by decide), atLeast _ 64 (by decide), atLeast _ 128 (by decide)⟩

/-- R436: MINVER after a module reset. -/
theorem bootFirmware_minver (f : Firmware) :
    (bootFirmware f).minver.toNat = if f.armed then max f.minver.toNat f.staged.toNat else f.minver.toNat := by
  unfold bootFirmware
  cases f.armed
  · rfl
  · by_cases h : f.minver.toNat < f.staged.toNat
    · simp [h, Nat.max_eq_right (Nat.le_of_lt h)]
    · simp [h, Nat.max_eq_left (Nat.not_lt.1 h)]

/-- R423: the incarnation of every die after a module reset. -/
theorem nextIncs_at (f : Flash) {d : Nat} (hd : d < 23) : mgetD (nextIncs f) d 0 = mgetD f.inc d 0 + 1 := by
  simp [nextIncs, mgetD, mget_msets_range _ hd]

/-- R4, R197, R423, R426, R436: after a module reset signed flash alone keeps its values, and the settings in force are read from it. -/
theorem moduleReset_effect (power : Nat) (s : State) : Happens (.evModuleReset power) s fun s' =>
    s'.now = 0 ∧ s'.mem = [] ∧ s'.strands = [] ∧ s'.blocks = [] ∧ s'.cores = [] ∧ s'.effects = []
      ∧ s'.owner = 0 ∧ s'.pwrctl = s.flash.pwrctl ∧ { s'.flash with inc := s.flash.inc } = s.flash
      ∧ (∀ d, d < 23 → mgetD s'.incs d 0 = mgetD s.flash.inc d 0 + 1 ∧ mgetD s'.flash.inc d 0 = mgetD s.flash.inc d 0 + 1)
      ∧ (∀ d, d < 8 → (qcfgAt s' d).qcore.toNat = max 32 (mgetD s.flash.qcfg d Qcfg.reset).qcore.toNat
        ∧ (qcfgAt s' d).qdie.toNat = max 64 (mgetD s.flash.qcfg d Qcfg.reset).qdie.toNat
        ∧ (qcfgAt s' d).qpkg.toNat = max 128 (mgetD s.flash.qcfg d Qcfg.reset).qpkg.toNat)
      ∧ s'.fw.fwver = (if s.fw.armed then s.fw.staged else s.fw.fwver) ∧ s'.fw.armed = false ∧ s'.fw.state = 0
      ∧ s'.fw.minver.toNat = (if s.fw.armed then max s.fw.minver.toNat s.fw.staged.toNat else s.fw.minver.toNat) := by
  refine ⟨_, exec_evModuleReset power s, rfl, rfl, rfl, rfl, rfl, rfl, rfl, rfl, rfl, fun d hd => ?incs, fun d hd => ?windows, rfl, rfl, rfl,
    bootFirmware_minver s.fw⟩
  case incs => simp only [nextIncs_at s.flash hd, and_self]
  case windows =>
    have read : mgetD (msets [] ((List.range 8).map fun d => (d, qcfgFromFlash s.flash d))) d Qcfg.reset = qcfgFromFlash s.flash d := by
      rw [mgetD, mget_msets_range _ hd, Option.getD_some]
    simp only [qcfgAt, read]
    exact qcfgFromFlash_windows s.flash d

/-- R424: the owner's command starts a drain of a die that no partition owns and that does not drain yet. -/
theorem computeDieReset_effect (h : HostAccess) (die : Nat) (s : State) : OwnerOnly (.evComputeDieReset h die) h s fun s' =>
    (8 ≤ die ∨ dieOwned s die = true ∨ (∃ d ∈ s.drains, d.die = die) → s' = s)
    ∧ (die < 8 → dieOwned s die = false → (∀ d ∈ s.drains, d.die ≠ die) → s' = { s with drains := s.drains ++ [{ die := die, since := s.now }] }) := by
  refine ownerOnly_of_exec (exec_evComputeDieReset h die s) ⟨fun hstays => if_pos ?_, fun hd ho hdr => if_neg ?_⟩
  · simpa [or_assoc] using hstays
  · simpa [hd, ho] using hdr

/-! The die that resets: what of the state is gone, and what is read again (R216, R424). -/
section
variable (s : State) (die : Nat)

theorem resetDie_mem : (resetDie s die).mem = s.mem :=
  raiseError_mem ..
theorem resetDie_strands : (resetDie s die).strands = s.strands.filter fun e => dieOf (e.1 / 64) != die :=
  raiseError_strands ..
theorem resetDie_blocks : (resetDie s die).blocks = s.blocks.filter fun e => dieOf e.2.core != die :=
  raiseError_blocks ..
theorem resetDie_copies : (resetDie s die).copies = s.copies.filter fun y => dieOf y.core != die :=
  raiseError_copies ..
theorem resetDie_drains : (resetDie s die).drains = s.drains.filter fun d => d.die != die :=
  raiseError_drains ..
theorem resetDie_effects : (resetDie s die).effects = s.effects.filter fun e => !dieHeld die e :=
  raiseError_effects ..
theorem resetDie_records : (resetDie s die).records = s.records.filter fun r => dieOf r.tag.core != die :=
  raiseError_records ..
theorem resetDie_cores : (resetDie s die).cores = s.cores.filter fun e => dieOf e.1 != die :=
  raiseError_cores ..
theorem qcfgAt_resetDie : qcfgAt (resetDie s die) die = qcfgFromFlash s.flash die := by simp [resetDie, qcfgAt, mgetD]
theorem resetDie_inc : mgetD (resetDie s die).incs die 0 = mgetD s.incs die 0 + 1 := by simp [resetDie, mgetD]

theorem resetDie_errLog : ∃ e, (resetDie s die).errLog = insertErr s.errLog e ∧ e.kind = 0x11 :=
  raiseError_errLog _ 0x11 4 _ _ _

theorem coreOf_resetDie {c : Nat} (hc : dieOf c = die) : coreOf (resetDie s die) c = Core.reset := by
  rw [coreOf, resetDie_cores, mgetD, mget_filter_of_not (q := fun k => dieOf k != die) (by simp [hc]), Option.getD_none]

end

/-- R216, R423, R424: the end of a die's drain; a die that has an owner again is spared (log 146). -/
theorem dieResetDrainEnds_effect (die : Nat) (s : State) :
    ((∀ d ∈ s.drains, d.die ≠ die) → exec (.evDieResetDrainEnds die) s = .next s)
    ∧ (dieOwned s die = true → Happens (.evDieResetDrainEnds die) s fun s' => s' = { s with drains := s.drains.filter fun d => d.die != die })
    ∧ (dieOwned s die = false → (∃ d ∈ s.drains, d.die = die ∧ (dieDrained s die = true ∨ d.since + 100000 ≤ s.now)) →
      Happens (.evDieResetDrainEnds die) s fun s' => s'.mem = s.mem
        ∧ s'.strands = s.strands.filter (fun e => dieOf (e.1 / 64) != die) ∧ s'.blocks = s.blocks.filter (fun e => dieOf e.2.core != die)
        ∧ s'.copies = s.copies.filter (fun y => dieOf y.core != die)
        ∧ (qcfgAt s' die).qcore.toNat = max 32 (mgetD s.flash.qcfg die Qcfg.reset).qcore.toNat
        ∧ (qcfgAt s' die).qdie.toNat = max 64 (mgetD s.flash.qcfg die Qcfg.reset).qdie.toNat
        ∧ (qcfgAt s' die).qpkg.toNat = max 128 (mgetD s.flash.qcfg die Qcfg.reset).qpkg.toNat ∧ mgetD s'.incs die 0 = mgetD s.incs die 0 + 1
        ∧ (∀ d ∈ s'.drains, d.die ≠ die)
        ∧ (∀ e ∈ s'.effects, e ∈ s.effects ∧ (dieOf e.tag.core = die → e.stage ≠ .pending ∧ e.stage ≠ .ingress))
        ∧ (∀ r ∈ s'.records, dieOf r.tag.core ≠ die) ∧ (∀ c, dieOf c = die → coreOf s' c = Core.reset)
        ∧ ∃ e, s'.errLog = insertErr s.errLog e ∧ e.kind = 0x11) := by
  simp only [Happens, exec_evDieResetDrainEnds, execEvDieResetDrainEnds]
  refine ⟨fun hnone => ?idle, fun ho => ?owned, fun ho hdue => ?due⟩
  case idle =>
    have hkeep : s.drains.filter (fun d => d.die != die) = s.drains := List.filter_eq_self.2 fun d hd => by simpa using hnone d hd
    have hno : (s.drains.any fun d => d.die == die && (dieDrained s die || d.since + 100000 ≤ s.now)) = false :=
      List.any_eq_false.2 fun d hd => by simp [hnone d hd]
    rw [hkeep, hno]
    split <;> rfl
  case owned => exact ⟨_, if_pos ho, rfl⟩
  case due =>
    have hany : (s.drains.any fun d => d.die == die && (dieDrained s die || d.since + 100000 ≤ s.now)) = true := by simpa using hdue
    obtain ⟨hcore, hdie, hpkg⟩ := qcfgFromFlash_windows s.flash die
    rw [← qcfgAt_resetDie] at hcore hdie hpkg
    refine ⟨resetDie s die, by simp [ho, hany], resetDie_mem s die, resetDie_strands s die, resetDie_blocks s die, resetDie_copies s die,
      hcore, hdie, hpkg, resetDie_inc s die, fun d hd => ?_, fun e he => ?_, fun r hr => ?_, fun c hc => coreOf_resetDie s die hc, resetDie_errLog s die⟩
    · rw [resetDie_drains, List.mem_filter] at hd; simpa using hd.2
    · rw [resetDie_effects, List.mem_filter] at he
      exact ⟨he.1, fun hc => by simpa [dieHeld, hc] using he.2⟩
    · rw [resetDie_records, List.mem_filter] at hr; simpa using hr.2

/-! ### IEEE 1588 time (R427, R428) -/

/-- Setting PTPOFF changes it, and notes a change. -/
theorem setOffset_effect (s : State) (ptp : Word) : { setOffset s ptp with ptp := s.ptp } = s
    ∧ (setOffset s ptp).ptp.offset = ptp - BitVec.ofNat 64 s.now
    ∧ (setOffset s ptp).ptp.offjump = (s.ptp.offjump || s.ptp.offset != ptp - BitVec.ofNat 64 s.now) := by
  unfold setOffset
  by_cases h : s.ptp.offset = ptp - BitVec.ofNat 64 s.now
  · simp [h]
  · simp [h]

/-- Noting the start of a period changes the PTP time of its start alone. -/
theorem noteStart_rest (s : State) : { noteStart s with ptp := { (noteStart s).ptp with start := s.ptp.start } } = s := by
  unfold noteStart; split <;> rfl

theorem noteStart_ptp (s : State) (x : Ptp) : { noteStart s with ptp := x } = { s with ptp := x } :=
  (congrArg (fun u : State => { u with ptp := x }) (noteStart_rest s) : _)

theorem noteStart_locked (s : State) : (noteStart s).ptp.locked = s.ptp.locked := (congrArg (fun u => u.ptp.locked) (noteStart_rest s) : _)
theorem noteStart_seen (s : State) : (noteStart s).ptp.seen = s.ptp.seen := (congrArg (fun u => u.ptp.seen) (noteStart_rest s) : _)
theorem noteStart_offset (s : State) : (noteStart s).ptp.offset = s.ptp.offset := (congrArg (fun u => u.ptp.offset) (noteStart_rest s) : _)
theorem noteStart_offjump (s : State) : (noteStart s).ptp.offjump = s.ptp.offjump := (congrArg (fun u => u.ptp.offjump) (noteStart_rest s) : _)

/-- R428: the first lock sets PTPOFF; a later one keeps it. -/
theorem ptpLock_effect (ptp : Word) (s : State) : (s.ptp.locked = true → exec (.evPtpLock ptp) s = .next s)
    ∧ (s.ptp.locked = false → Happens (.evPtpLock ptp) s fun s' => { s' with ptp := s.ptp } = s ∧ s'.ptp.locked = true ∧ s'.ptp.seen = true
      ∧ s'.ptp.offset = (if s.ptp.seen then s.ptp.offset else ptp - BitVec.ofNat 64 s.now)) := by
  refine ⟨fun h => by simp [exec_evPtpLock, execEvPtpLock, h], fun h => ⟨_, (exec_evPtpLock ptp s).trans (if_neg (by simp [h])), ?_⟩⟩
  obtain ⟨rest, hoff, -⟩ := setOffset_effect s ptp
  cases hs : s.ptp.seen
  · exact ⟨(noteStart_ptp _ _).trans rest, noteStart_locked _, noteStart_seen _, (noteStart_offset _).trans hoff⟩
  · exact ⟨noteStart_ptp _ _, noteStart_locked _, noteStart_seen _, noteStart_offset _⟩

/-- R428: a lost lock keeps PTPOFF. -/
theorem ptpLockLost_effect (s : State) : Happens .evPtpLockLost s fun s' =>
    { s' with ptp := s.ptp } = s ∧ s'.ptp.locked = false ∧ s'.ptp.offset = s.ptp.offset :=
  ⟨_, exec_evPtpLockLost s, noteStart_ptp _ _, noteStart_locked _, noteStart_offset _⟩

/-- R427, R428: PTPOFF is replaced at a period boundary where the measured error is too large, and OFFJUMP notes a change. -/
theorem ptpoffReplaced_effect (ptp : Word) (s : State) :
    (s.ptp.locked = false ∨ s.ptp.err.toInt.natAbs ≤ 1000000 ∨ s.now ≠ s.telNext → exec (.evPtpoffReplaced ptp) s = .next s)
    ∧ (s.ptp.locked = true → 1000000 < s.ptp.err.toInt.natAbs → s.now = s.telNext → Happens (.evPtpoffReplaced ptp) s fun s' =>
      { s' with ptp := s.ptp } = s ∧ s'.ptp.offset = ptp - BitVec.ofNat 64 s.now
        ∧ s'.ptp.offjump = (s.ptp.offjump || s.ptp.offset != ptp - BitVec.ofNat 64 s.now)) := by
  refine ⟨fun hn => (exec_evPtpoffReplaced ptp s).trans (if_neg ?_), fun hl he ht => ⟨_, (exec_evPtpoffReplaced ptp s).trans (if_pos ?_), ?_⟩⟩
  · simp only [Bool.and_eq_true, decide_eq_true_eq, not_and]
    rcases hn with hn | hn | hn
    · simp [hn]
    · omega
    · exact fun _ => hn
  · simp [hl, he, ht]
  · obtain ⟨rest, hoff, hjump⟩ := setOffset_effect s ptp
    exact ⟨(noteStart_ptp _ _).trans rest, (noteStart_offset _).trans hoff, (noteStart_offjump _).trans hjump⟩

/-! ### The limiter, telemetry and replays (R221, R432, R434) -/

/-- R432: an interval of the limiter. -/
theorem rampInterval_effect (power : Nat) (s : State) : (s.now % 1000 ≠ 0 → exec (.evRampInterval power) s = .next s)
    ∧ (∀ old, s.now % 1000 = 0 → s.ramp.level = some old → s.ramp.last ≠ s.now → s.now < s.telNext + Config.telemetryPeriod →
      Happens (.evRampInterval power) s fun s' => NoStrand s s' ∧ s'.ramp.demand = power ∧ s'.ramp.last = s.now
        ∧ s'.ramp.level = some (min (1000 * s.pwrctl.cap.toNat) (max (old - s.pwrctl.ramp.toNat) (min power (old + s.pwrctl.ramp.toNat))))) := by
  refine ⟨fun h => (exec_evRampInterval power s).trans (if_pos (by simp [h])), fun old h0 hold hlast hper =>
    ⟨_, (exec_evRampInterval power s).trans (if_neg ?_), ⟨rfl, rfl⟩, rfl, rfl, ?_⟩⟩
  · simp [h0, hlast, hper]
  · simp [rampNext, rampLevel, hold]

/-- R434: the oldest record that waits enters the ring of 64. -/
theorem telemetryRecord_effect (m : Measures) (s : State) : (s.telWait = [] → exec (.evTelemetryRecord m) s = .next s)
    ∧ (∀ t rest, s.telWait = t :: rest → Happens (.evTelemetryRecord m) s fun s' => s'.telWait = rest ∧ s'.telSeq = s.telSeq + 1
      ∧ { s' with telWait := s.telWait, telSeq := s.telSeq, telemetry := s.telemetry } = s
      ∧ s'.telemetry = (s.telemetry ++ [{ t with seq := s.telSeq, m := m }]).drop (s.telemetry.length - 63)) := by
  simp only [Happens, exec_evTelemetryRecord, execEvTelemetryRecord]
  refine ⟨fun h => by rw [h], fun t rest h => ?_⟩
  rw [h]
  refine ⟨_, rfl, rfl, rfl, ?_, ?_⟩
  · rw [← h]
  · simp

theorem hearthAt_modHearth (s : State) (h : Nat) (f : HearthStep → HearthStep) : hearthAt (modHearth s h f) h = f (hearthAt s h) := by
  simp [hearthAt, modHearth, mgetD]

/-- R373: counting a replay changes the accounts of partitions alone. -/
theorem countReplay_rest (s : State) (h : Nat) : { countReplay s h with parts := s.parts } = s :=
  foldl_keeps (fun u : State => { u with parts := s.parts }) (fun _ _ => by rfl) _ s

/-- R221: a replay that has been counted, before it may raise its event. -/
theorem replayCounted_effect (s : State) (h : Nat) : ∃ u, countReplay (modHearth s h fun x => { x with replays := x.replays + 1 }) h = u
    ∧ NoStrand s u ∧ u.errLog = s.errLog ∧ (∀ d, qcfgAt u d = qcfgAt s d)
    ∧ hearthAt u h = { hearthAt s h with replays := (hearthAt s h).replays + 1 } := by
  have rest := countReplay_rest (modHearth s h fun x => { x with replays := x.replays + 1 }) h
  refine ⟨_, rfl, ⟨(congrArg State.mem rest : _), (congrArg State.strands rest : _)⟩, (congrArg State.errLog rest : _),
    fun d => (congrArg (fun v => qcfgAt v d) rest : _), ?_⟩
  exact (congrArg (fun v => hearthAt v h) rest : _).trans (hearthAt_modHearth s h _)

/-- R221: a replay is counted, and the first beyond REPLAYTH raises the hearth's event. -/
theorem timingReplay_effect (h : Nat) (s : State) (hh : h < 192) : Happens (.evTimingReplay h) s fun s' => NoStrand s s'
    ∧ (hearthAt s' h).replays = (hearthAt s h).replays + 1
    ∧ (∀ limit, limit = (qcfgAt s (h / 24)).replayTh.toNat →
      (limit = 0 ∨ (hearthAt s h).raised = true ∨ (hearthAt s h).replays < limit → s'.errLog = s.errLog)
      ∧ (limit ≠ 0 → (hearthAt s h).raised = false → limit ≤ (hearthAt s h).replays → (hearthAt s' h).raised = true
          ∧ ∃ e, s'.errLog = insertErr s.errLog e ∧ e.kind = 0x07)) := by
  obtain ⟨u, hu, hkept, hlog, hq, hx⟩ := replayCounted_effect s h
  simp only [Happens, exec_evTimingReplay, execEvTimingReplay, if_neg (Nat.not_le.2 hh), hu]
  by_cases hquiet : (qcfgAt s (h / 24)).replayTh.toNat = 0 ∨ (hearthAt s h).raised = true ∨ (hearthAt s h).replays < (qcfgAt s (h / 24)).replayTh.toNat
  · refine ⟨u, if_pos ?_, hkept, by rw [hx], ?_⟩
    · simpa only [Bool.or_eq_true, decide_eq_true_eq, Config.hearthsPerDie, hq, hx, or_assoc, Nat.add_one_le_iff] using hquiet
    · rintro limit rfl
      exact ⟨fun _ => hlog, fun h0 hr hle => absurd hquiet (by simp [h0, hr, hle])⟩
  · refine ⟨_, if_neg ?_, ?_⟩
    · simpa only [Bool.or_eq_true, decide_eq_true_eq, Config.hearthsPerDie, hq, hx, or_assoc, Nat.add_one_le_iff] using hquiet
    · obtain ⟨e, he, hk⟩ := raiseError_errLog (modHearth u h fun x => { x with raised := true }) 0x07 4 (errSource 1 h) none (hearthAt u h).replays
      have hraised := hearthAt_modHearth u h fun x => { x with raised := true }
      refine ⟨?_, ?_, ?_⟩
      · exact ⟨(raiseError_mem ..).trans hkept.1, (raiseError_strands ..).trans hkept.2⟩
      · rw [hearthAt, raiseError_hearths]; exact (congrArg HearthStep.replays hraised).trans (by rw [hx])
      · rintro limit rfl
        refine ⟨fun hq' => absurd hq' hquiet, fun _ _ _ => ⟨?_, e, he.trans (by rw [← hlog]; rfl), hk⟩⟩
        rw [hearthAt, raiseError_hearths]; exact congrArg HearthStep.raised hraised

/-! ### Firmware and trusted interfaces (R402 to R405, R436, R437) -/

/-- R436: an image that verifies is staged; any other is refused with its reason. -/
theorem firmwareVerifyDone_effect (s : State) : (s.fw.state ≠ 1 ∨ imageOwned s = true → exec .evFirmwareVerifyDone s = .next s)
    ∧ (s.fw.state = 1 → imageOwned s = false → Happens .evFirmwareVerifyDone s fun s' => { s' with fw := s.fw } = s
      ∧ (∀ image, image = physBytes s s.fw.fwaddr.toNat (s.fw.fwlen.toNat - 2820) → imageReason s = 0 →
          s'.fw = { s.fw with state := 2, staged := Config.imageVersion image, stagedMeasure := Config.imageMeasure image })
      ∧ (imageReason s ≠ 0 → s'.fw = { s.fw with state := 3, reason := BitVec.ofNat 8 (imageReason s) })) := by
  refine ⟨fun h => (exec_evFirmwareVerifyDone s).trans (if_pos (by simpa using h)), fun h1 ho => ?_⟩
  have runs := (exec_evFirmwareVerifyDone s).trans (if_neg (by simp [h1, ho]))
  cases hr : imageReason s with
  | zero =>
    rw [hr] at runs
    exact ⟨_, runs, rfl, fun image himage _ => by rw [himage], fun h => absurd rfl h⟩
  | succ n =>
    rw [hr] at runs
    exact ⟨_, runs, rfl, fun _ _ h => absurd h (Nat.succ_ne_zero n), fun _ => rfl⟩

/-- R436: a lock that finds ARMED set notes it in Zhevwell's log; nothing else changes. -/
theorem noteArmed_effect (s : State) : { noteArmed s with fw := s.fw } = s
    ∧ (noteArmed s).fw.log = if s.fw.armed then s.fw.log ++ [(s.now, s.fw.fwver, s.fw.staged)] else s.fw.log := by
  unfold noteArmed
  split <;> exact ⟨rfl, rfl⟩

/-- R402, R436: an interface that changes, with the answer on its port and the note of an armed image. -/
theorem lockAnswered_effect (s : State) (p : Nat) (h : HostAccess) (f : Tdisp → Tdisp) (r : Option (List Byte)) :
    NoStrand s (noteArmed (answer (modTdisp s p f) h r)) ∧ (partAt (noteArmed (answer (modTdisp s p f) h r)) p).tdisp = f (partAt s p).tdisp
    ∧ (portAt (noteArmed (answer (modTdisp s p f) h r)) h.port).reply = r
    ∧ (noteArmed (answer (modTdisp s p f) h r)).fw.log = if s.fw.armed then s.fw.log ++ [(s.now, s.fw.fwver, s.fw.staged)] else s.fw.log := by
  obtain ⟨rest, hlog⟩ := noteArmed_effect (answer (modTdisp s p f) h r)
  refine ⟨⟨(congrArg State.mem rest : _), (congrArg State.strands rest : _)⟩, ?_, ?_, hlog⟩
  · exact (congrArg (fun u => (partAt u p).tdisp) rest : _).trans (tdisp_modTdisp s p f)
  · exact (congrArg (fun u => (portAt u h.port).reply) rest : _).trans (congrArg Port.reply (portAt_modPort _ h.port _))

/-- R402, R403: an unlocked interface is locked through the port that asks, which the start nonce answers. -/
theorem lockInterfaceRequest_effect (p : Nat) (h : HostAccess) (s : State) (d : Tdisp) (hd : (partAt s p).tdisp = d) :
    (portQuiet s h = false ∨ vfAnswers s h p = false ∨ d.state ≠ .unlocked → exec (.evLockInterfaceRequest p h) s = .next s)
    ∧ (portQuiet s h = true → vfAnswers s h p = true → d.state = .unlocked → Happens (.evLockInterfaceRequest p h) s fun s' => NoStrand s s'
      ∧ ∃ n, (partAt s' p).tdisp = { d with state := .locked, port := h.port, nonce := n, tick := s.now, epoch := s.epoch }
        ∧ (portAt s' h.port).reply = some (nonceBytes n)
        ∧ s'.fw.log = if s.fw.armed then s.fw.log ++ [(s.now, s.fw.fwver, s.fw.staged)] else s.fw.log) := by
  subst hd
  refine ⟨fun hn => (exec_evLockInterfaceRequest p h s).trans (if_pos (by simpa [or_assoc] using hn)), fun hq hv hu =>
    ⟨_, (exec_evLockInterfaceRequest p h s).trans (if_neg (by simp [hq, hv, hu])), ?_⟩⟩
  obtain ⟨hsame, hstate, hreply, hlog⟩ := lockAnswered_effect { s with fresh := s.fresh + 1 } p h
    (fun d => { d with state := .locked, port := h.port, nonce := Config.nonce s.fresh, tick := s.now, epoch := s.epoch }) (some (nonceBytes (Config.nonce s.fresh)))
  exact ⟨hsame, Config.nonce s.fresh, hstate, hreply, hlog⟩

/-- R402: the right nonce starts a locked interface, and nothing else changes. -/
theorem startInterfaceRequest_effect (p : Nat) (h : HostAccess) (n : BitVec 256) (s : State) (d : Tdisp) (hd : (partAt s p).tdisp = d) :
    (portQuiet s h = false ∨ vfAnswers s h p = false ∨ d.state ≠ .locked ∨ d.nonce ≠ n → exec (.evStartInterfaceRequest p h n) s = .next s)
    ∧ (portQuiet s h = true → vfAnswers s h p = true → d.state = .locked → d.nonce = n → Happens (.evStartInterfaceRequest p h n) s fun s' =>
      PartOnly s s' p { partAt s p with tdisp := { d with state := .run } }) := by
  subst hd
  refine ⟨fun hn => (exec_evStartInterfaceRequest p h n s).trans (if_neg ?_), fun hq hv hl hn =>
    ⟨_, (exec_evStartInterfaceRequest p h n s).trans (if_pos (by simp [hq, hv, hl, hn])), partOnly_modPart s p _⟩⟩
  rcases hn with hn | hn | hn | hn <;> simp [hn]

/-- R403, R412: a locked interface that loses its stream enters ERROR, with a record. -/
theorem ideStreamLoss_effect (p : Nat) (s : State) : Happens (.evIdeStreamLoss p) s fun s' =>
    NoStrand s s' ∧ (frozen s p = false → (partAt s' p).tdisp = (partAt s p).tdisp)
      ∧ (frozen s p = true → (partAt s' p).tdisp = { (partAt s p).tdisp with state := .error, since := s.now, acted := false }
        ∧ ∃ e, s'.errLog = insertErr s.errLog e ∧ e.kind = 0x10) := by
  refine ⟨_, exec_evIdeStreamLoss p s, ?_⟩
  unfold toError
  cases hf : frozen s p
  · exact ⟨by simp [NoStrand], fun _ => by simp [partAt], by simp⟩
  · refine ⟨by simp [NoStrand], by simp, fun _ => ⟨?_, ?_⟩⟩
    · simp [partAt, modPart, putPart, mgetD]
    · simpa using raiseError_errLog (modPart s p fun x => { x with tdisp := { x.tdisp with state := .error, since := s.now, acted := false } }) 0x10 3
        (errSource 5 0) (some p) p

/-- R437: the generation of a report's key is certified, and the one-time index of the identity key has advanced where it was not. -/
theorem certify_effect (f : Flash) (gen : Nat) : (mget (certify f gen).certs gen).isSome
    ∧ (certify f gen).idIndex = if (mget f.certs gen).isSome then f.idIndex else f.idIndex + 1 := by
  unfold certify
  split
  · next h => exact ⟨h, rfl⟩
  · simp

/-- R405, R437: the report is answered under a certified key whose index has advanced. -/
theorem getDeviceInterfaceReport_effect (p : Nat) (h : HostAccess) (s : State) :
    (portQuiet s h = false ∨ vfAnswers s h p = false ∨ frozen s p = false → exec (.evGetDeviceInterfaceReport p h) s = .next s)
    ∧ (portQuiet s h = true → vfAnswers s h p = true → frozen s p = true → Happens (.evGetDeviceInterfaceReport p h) s fun s' =>
      { s' with fw := s.fw, ports := s.ports, flash := s.flash } = s ∧ (portAt s' h.port).reply = some (signedReport s p)
        ∧ (mget s'.flash.certs s'.fw.keyGen).isSome
        ∧ s'.flash.idIndex = (if (mget s.flash.certs s'.fw.keyGen).isSome then s.flash.idIndex else s.flash.idIndex + 1)
        ∧ s'.fw = (if s.fw.keyIndex < 2 ^ 20 then { s.fw with keyIndex := s.fw.keyIndex + 1 } else { s.fw with keyGen := s.fw.keyGen + 1, keyIndex := 1 })) := by
  refine ⟨fun hn => (exec_evGetDeviceInterfaceReport p h s).trans (if_pos (by simpa [or_assoc] using hn)), fun hq hv hf =>
    ⟨_, (exec_evGetDeviceInterfaceReport p h s).trans (if_neg (by simp [hq, hv, hf])), rfl, ?_, ?_⟩⟩
  · exact congrArg Port.reply (portAt_modPort _ h.port _)
  · obtain ⟨hcert, hindex⟩ := certify_effect s.flash (signingKey s.fw).1
    refine ⟨hcert, hindex, ?_⟩
    simp only [answer, modPort, signingKey]
    by_cases hk : s.fw.keyIndex < 2 ^ 20
    · rw [if_neg (Nat.not_le.2 hk), if_pos hk]
    · rw [if_pos (Nat.not_lt.1 hk), if_neg hk]

/-- A grid that stands after an update that leaves the partitions' grids has ended where it had. -/
theorem gridEnded_of_grids {s s' : State} {p : Nat} (h : (partAt s' p).grids = (partAt s p).grids) {n : Nat} (hn : GridEnded s p n) :
    GridEnded s' p n := by
  intro g hg
  exact hn g (by rw [← hg, gridAt, gridAt, h])

/-- R404: a partition that is killed, and whose interface then changes: its interface is what the change makes of it, and every
grid of it has ended. `u` differs from the killed state in no partition. -/
theorem killed_interface {s u : State} {p : Nat} (hu : u.parts = (killPartition s p).parts) (f : Tdisp → Tdisp) :
    (partAt (releaseAct (modTdisp u p f)) p).tdisp = f (partAt s p).tdisp
    ∧ ∀ n, GridEnded (releaseAct (modTdisp u p f)) p n := by
  obtain ⟨kept, ended⟩ := killPartition_onlyKills s p
  have hpart : partAt (releaseAct (modTdisp u p f)) p
      = { partAt (killPartition s p) p with tdisp := f (partAt (killPartition s p) p).tdisp } := by
    have same : partAt u p = partAt (killPartition s p) p := by rw [partAt, hu, partAt]
    rw [partAt, releaseAct_parts, ← same]
    exact partAt_modPart u p _
  exact ⟨by rw [hpart, kept.tdisp], fun n => gridEnded_of_grids (by rw [hpart]) (ended n)⟩

/-- R404: ERROR acts once: every grid of the partition ends. -/
theorem interfaceError_effect (p : Nat) (s : State) :
    ((partAt s p).tdisp.state ≠ .error ∨ (partAt s p).tdisp.acted = true → exec (.evInterfaceError p) s = .next s)
    ∧ ((partAt s p).tdisp.state = .error → (partAt s p).tdisp.acted = false → Happens (.evInterfaceError p) s fun s' =>
      (partAt s' p).tdisp = { (partAt s p).tdisp with acted := true } ∧ ∀ n g, gridAt s' p n = some g → g.killed = true ∨ g.code.isSome) := by
  refine ⟨fun hn => (exec_evInterfaceError p s).trans (if_neg ?_), fun he ha =>
    ⟨_, (exec_evInterfaceError p s).trans (if_pos (by simp [he, ha])), killed_interface rfl fun d => { d with acted := true }⟩⟩
  rcases hn with hn | hn <;> simp [hn]

/-- R404: a core among those that are zeroed. -/
theorem coreOf_zeroed (s : State) {mine : Nat → Bool} {c : Nat} (hc : mine c = true) :
    coreOf { s with cores := s.cores.map fun e => if mine e.1 then (e.1, zeroCore e.2) else e } c = zeroCore (coreOf s c) := by
  simp only [coreOf, mgetD]
  rw [mget_map fun e => by split <;> rfl]
  cases mget s.cores c with
  | none => rfl
  | some k => simp [hc]

/-- R404: STOP ends every grid of the partition, zeroes its cores and unlocks its interface. -/
theorem stopInterfaceRequest_effect (p : Nat) (h : HostAccess) (s : State) :
    (portQuiet s h = false ∨ vfAnswers s h p = false ∨ (partAt s p).tdisp.state = .unlocked → exec (.evStopInterfaceRequest p h) s = .next s)
    ∧ (portQuiet s h = true → vfAnswers s h p = true → (partAt s p).tdisp.state ≠ .unlocked → Happens (.evStopInterfaceRequest p h) s fun s' =>
      (partAt s' p).tdisp = Tdisp.reset ∧ (∀ n g, gridAt s' p n = some g → g.killed = true ∨ g.code.isSome)
        ∧ ∀ c, ownsHearth (partAt s p) (hearthOf c) = true → (coreOf s' c).blocks = [] ∧ (coreOf s' c).l1 = [] ∧ (coreOf s' c).hwb = []
          ∧ (coreOf s' c).items = [] ∧ (coreOf s' c).griddle = Griddle.reset) := by
  refine ⟨fun hn => (exec_evStopInterfaceRequest p h s).trans (if_pos (by simpa [or_assoc] using hn)), fun hq hv hu =>
    ⟨_, (exec_evStopInterfaceRequest p h s).trans (if_neg (by simp [hq, hv, hu])), ?_⟩⟩
  obtain ⟨hstate, hended⟩ := killed_interface (s := s) (p := p) (u := { killPartition s p with
    cores := (killPartition s p).cores.map fun e =>
      if ownsHearth (partAt (killPartition s p) p) (hearthOf e.1) then (e.1, zeroCore e.2) else e }) rfl fun _ => Tdisp.reset
  refine ⟨hstate, hended, fun c hc => ?_⟩
  have mine : ownsHearth (partAt (killPartition s p) p) (hearthOf c) = true := by
    rw [ownsHearth, (killPartition_onlyKills s p).1.record]; exact hc
  rw [coreOf, releaseAct_cores]
  have zeroed := coreOf_zeroed (killPartition s p) (mine := fun c => ownsHearth (partAt (killPartition s p) p) (hearthOf c)) mine
  refine ⟨(congrArg Core.blocks zeroed : _), (congrArg Core.l1 zeroed : _), (congrArg Core.hwb zeroed : _), (congrArg Core.items zeroed : _),
    (congrArg Core.griddle zeroed : _)⟩

/-- Settles O60: each event has the effect that its theorem above gives it. A kill keeps a partition's standing but for the marks of its
grids (`killPartition_onlyKills`), which is what an interface's ERROR and STOP rest on. -/
theorem moduleEvents : Obligations.ModuleEvents :=
  ⟨moduleReset_effect, computeDieReset_effect, dieResetDrainEnds_effect, ptpLock_effect, ptpLockLost_effect, ptpoffReplaced_effect,
    exec_evPtpOffsetMeasurement, rampInterval_effect, telemetryRecord_effect, timingReplay_effect, firmwareVerifyDone_effect,
    lockInterfaceRequest_effect, startInterfaceRequest_effect, stopInterfaceRequest_effect, ideStreamLoss_effect,
    getDeviceInterfaceReport_effect, interfaceError_effect⟩

end Sys2Proof.Machine
end

section
/-! PROOFS. `gmma` (spec/11 R299): when one has passed its checks it still touches its B tile (R239), and stalls while a window's
fill is due. So it does not multiply in every state that O36 speaks of. -/

namespace Sys2Proof.Machine

open Sys2Proof

/-! ### What a fill that starts leaves unchanged -/

theorem coreOf_modCore_griddle (s : State) (c : Nat) {f : Core → Core} (hf : ∀ k, (f k).griddle = k.griddle) (d : Nat) :
    (coreOf (modCore s c f) d).griddle = (coreOf s d).griddle := by
  by_cases h : d = c
  · subst h; rw [modCore, coreOf_putCore, hf]
  · rw [modCore, coreOf_putCore_ne _ _ h]

/-- R397: a translation that is kept changes no griddle. -/
theorem griddle_keepTrans (s : State) (c p va d : Nat) : (coreOf (keepTrans s c p va) d).griddle = (coreOf s d).griddle := by
  unfold keepTrans
  split
  · rfl
  · split
    · rfl
    · next t _ => exact coreOf_modCore_griddle s c (f := fun k => { k with tlb := k.tlb ++ [t] }) (fun _ => rfl) d

/-- R239: a fill that starts changes no griddle. -/
theorem griddle_startTouch (s : State) (a d : Nat) : (coreOf (startTouch s a) d).griddle = (coreOf s d).griddle := by
  unfold startTouch
  split
  · rfl
  · split
    · rfl
    · split
      · exact griddle_keepTrans _ _ _ _ _
      · rfl

theorem griddle_startTouches (s : State) (locs : List Nat) (d : Nat) :
    (coreOf (startTouches s locs) d).griddle = (coreOf s d).griddle := by
  induction locs generalizing s with
  | nil => rfl
  | cons a locs ih => exact (ih (startTouch s a)).trans (griddle_startTouch s a d)

/-! ### Checks -/

/-- R307: a matrix instruction of a stream that runs goes on, when its word is one. -/
theorem matrixRun_goes {s : State} {c : Nat} {b : Block} {x : Segment} {f : LaneFields} (h : StreamRuns s c b x)
    (hf : matrixReject f = none) (k : State → Nat → Griddle → Block → Segment → State) :
    matrixRun f s k = .next (k s c (coreOf s c).griddle b x) := by
  simp [matrixRun, h.agent, h.holder, h.segment, h.held, h.run, hf]

/-- R239: an instruction of the stream that reads a window's bytes, none of which faults, stalls while one of them needs its fill. -/
theorem streamTouch_stalls {s : State} {bid : Nat} {b : Block} {reads : List Nat} (hb : blockAt s bid = some b)
    (hw : b.wins.any (fun w => w.2.valid) = true) (hf : ∀ o ∈ reads, byteFault s (scratchLoc bid o) = none)
    (ht : touchWaits s (reads.map (scratchLoc bid)) = true) (c : Nat) (g : Griddle) (x : Segment) (func : Nat) (k : State) :
    streamTouch s c g x func bid reads [] k = startTouches s (reads.map (scratchLoc bid)) := by
  have hnone : (reads.findSome? fun o => (byteFault s (scratchLoc bid o)).map fun e => (e, o)) = none :=
    List.findSome?_eq_none_iff.2 fun o ho => by rw [hf o ho]; rfl
  simp [streamTouch, hb, hw, hnone, ht]

/-- R297, R298, R301, R307: the checks of a `gmma` pass: the hypotheses of `Obligations.MatrixMultiply`. -/
structure GmmaReady (f : LaneFields) (s : State) (c : Nat) (b : Block) (x : Segment) (r : BitVec 128) (n : Nat) (t : Strand) : Prop where
  runs    : StreamRuns s c b x
  slot    : SlotOf s b f r
  unscaled : slotKind r = 0 → f.vc = 0
  latched : ∀ l, (coreOf s c).griddle.latch = some l → latchAgrees f l = true
  strand  : streamStrand s c (coreOf s c).griddle.holder (f.func.toNat % 16) = some (n, t)
  inRange : ∀ v ∈ fragRegs t.compat f.va.toNat ++ imageRegs t.compat r f.vc.toNat, v < 32 * t.vblk
  landed  : ∀ e ∈ t.vpend, e.1 ∉ fragRegs t.compat f.va.toNat ++ imageRegs t.compat r f.vc.toNat
  sound   : (coreOf s c).griddle.latch = none → fragPoison t r f.va.toNat f.vc.toNat = false
  header  : 128 ≤ 2048 * f.vb.toNat
  area    : 2048 * f.vb.toNat + 2048 ≤ b.area
  scales  : scalesInArea b r (2048 * f.vb.toNat) (32 * matrixK r) = true
  staged  : stageNeed (coreOf s c).griddle x f.vd.toNat = .fine

/-- R239, R302: the offsets that a `gmma` touches: those of its B tile and of the scales. -/
def gmmaTouches (f : LaneFields) (r : BitVec 128) : List Nat :=
  offsets (2048 * f.vb.toNat) 2048 ++ offsets (scaleAt r (2048 * f.vb.toNat) 0).toNat (scaleBytes r (32 * matrixK r))

/-- R298, R307: a `gmma` whose checks pass touches its B tile before it goes on. -/
theorem gmmaRun_touches {f : LaneFields} {s : State} {c : Nat} {b : Block} {x : Segment} {r : BitVec 128} {n : Nat} {t : Strand}
    (h : GmmaReady f s c b x r n t) (k : State → Nat → Griddle → Segment → LaneFields → BitVec 128 → Strand → State) :
    gmmaRun f s k = .next (streamTouch s c (coreOf s c).griddle x 0 (coreOf s c).griddle.holder (gmmaTouches f r) []
      (k s c (coreOf s c).griddle x f r t)) := by
  obtain ⟨hword, hslot⟩ := h.slot
  have hfields : ((slotKind r = 0 && f.vc ≠ 0) || (coreOf s c).griddle.latch.any fun l => !latchAgrees f l) = false := by
    rw [Bool.or_eq_false_iff]
    refine ⟨by simpa using h.unscaled, ?_⟩
    cases hl : (coreOf s c).griddle.latch with
    | none => rfl
    | some l => simp [h.latched l hl]
  have hregs : ((fragRegs t.compat f.va.toNat ++ imageRegs t.compat r f.vc.toNat).any fun v => 32 * t.vblk ≤ v) = false :=
    List.any_eq_false.2 fun v hv => by simpa using h.inRange v hv
  have hpend : (t.vpend.any fun e => (fragRegs t.compat f.va.toNat ++ imageRegs t.compat r f.vc.toNat).contains e.1) = false :=
    List.any_eq_false.2 fun e he => by simpa using h.landed e he
  have hpoison : ((coreOf s c).griddle.latch.isNone && fragPoison t r f.va.toNat f.vc.toNat) = false := by
    cases hl : (coreOf s c).griddle.latch with
    | none => simp [h.sound hl]
    | some l => rfl
  have harea : (!rangeInArea b (2048 * f.vb.toNat : Nat) 2048 || !scalesInArea b r (2048 * f.vb.toNat) (32 * matrixK r)) = false := by
    have := h.header
    have := h.area
    simp only [h.scales, rangeInArea]
    simp; omega
  rw [gmmaRun, matrixRun_goes h.runs hword]
  simp only [hslot, hfields, h.strand, hregs, hpend, hpoison, harea, h.staged, meetNeed, Bool.false_eq_true, if_false, gmmaTouches]

/-- R239, R299: a `gmma` that reads a window's bytes, none of which faults, waits while one of them needs its fill: the griddle is as it was. -/
theorem gmma_waits_for_fill {f : LaneFields} {s : State} {c : Nat} {b : Block} {x : Segment} {r : BitVec 128} {n : Nat} {t : Strand}
    (h : GmmaReady f s c b x r n t) (hw : b.wins.any (fun w => w.2.valid) = true)
    (hf : ∀ o ∈ gmmaTouches f r, byteFault s (scratchLoc (coreOf s c).griddle.holder o) = none)
    (ht : touchWaits s ((gmmaTouches f r).map (scratchLoc (coreOf s c).griddle.holder)) = true) :
    ∃ s', exec (.gmma f) s = .next s' ∧ (coreOf s' c).griddle = (coreOf s c).griddle := by
  refine ⟨_, (exec_gmma f s).trans ((gmmaRun_touches h gmmaPerform).trans
    (congrArg _ (streamTouch_stalls h.runs.holder hw hf ht _ _ _ _ _))), griddle_startTouches _ _ _⟩

/-- A `gmma` of BF16 elements into tile 63: its A fragment in registers 8 onward of strand 0, its B tile at byte 2048 of the area, and
FUNC[4] set. -/
def gmmaWord : LaneFields := plainFields 0xE0 9 63 8 1 0 16 0

/-- The block of `mS` with a window over the sixteen chunks of its B tile, none of them filled yet (R237, R238). -/
def windowedBlock : Block :=
  { fetchBlock with windows := 1, wins := [(0, { gbase := 0, mode := 1, valid := true, schunk := 16, nchunk := 16 })] }
def windowedTile : State := { mS 1 id with blocks := [(1, windowedBlock)] }

theorem gmmaReady_windowedTile : GmmaReady gmmaWord windowedTile 0 windowedBlock seg0 1 0 baseT where
  runs := ⟨rfl, rfl, rfl, rfl, rfl⟩
  slot := ⟨by decide +kernel, by decide +kernel⟩
  unscaled := fun _ => rfl
  latched := nofun
  strand := rfl
  inRange := by decide +kernel
  landed := nofun
  sound := fun _ => by decide +kernel
  header := by decide +kernel
  area := by decide +kernel
  scales := by decide +kernel
  staged := rfl

/-- R239: the fills of the tile have a translation, and are due. -/
theorem windowedTile_needs_fill :
    (∀ o ∈ gmmaTouches gmmaWord 1, byteFault windowedTile (scratchLoc 1 o) = none)
    ∧ touchWaits windowedTile ((gmmaTouches gmmaWord 1).map (scratchLoc 1)) = true := by decide +kernel

/-- Refutes O36: its hypotheses say nothing of the windows of the holding block (R237). Where the B tile lies in a window whose chunks are not filled,
the `gmma` waits for the fill (R239), and NEXT stays at 0 where `WritesTile` has it at 1. -/
theorem not_matrixMultiply : ¬ Obligations.MatrixMultiply := by
  intro holds
  have ready := gmmaReady_windowedTile
  obtain ⟨hfault, hdue⟩ := windowedTile_needs_fill
  obtain ⟨s', hwaits, hgriddle⟩ := gmma_waits_for_fill ready rfl hfault hdue
  obtain ⟨_, _, _, _, _, _, _, _, ⟨u, hgoes, _, _, hnext, _⟩, _⟩ :=
    holds gmmaWord windowedTile 0 windowedBlock seg0 1 0 baseT ready.runs ready.slot ready.unscaled ready.latched ready.strand ready.inRange
      ready.landed ready.sound ready.header ready.area ready.scales ready.staged
  obtain rfl : s' = u := by injection hwaits.symm.trans hgoes
  rw [hgriddle] at hnext
  exact absurd hnext (by decide)

end Sys2Proof.Machine
end
